-- ==== Sys2Proof/Word.lean ====
section
/-! DEFINITION. The word types of the GX4 (R7) and their plainest arithmetic. -/

namespace Sys2Proof

/-- A dword: 64 bits, the width of a scalar register and of an address (R7, R122). -/
abbrev Word := BitVec 64

/-- A 32-bit word: one vector lane, one tile element (R7). -/
abbrev Half32 := BitVec 32

/-- A byte (R7). -/
abbrev Byte := BitVec 8

/-- A table keyed by a number: pairs in strictly rising key order. -/
abbrev Tbl (α : Type) := List (Nat × α)

end Sys2Proof
end

