-- ==== Sys2Proof/Config.lean ====
section
/-! DEFINITION. What an implementation of the GX4 fixes and what the manual leaves open: opaque constants
with no body, so that nothing can evaluate one or prove a value of one (assumption log 4, 6, 10 to 13). -/

namespace Sys2Proof.Config

/-- A free number of cycles an agent takes: a load's data, an engine, a walk, a letter in the mesh (R80,
R153; log 4). It is applied to the counter State.free. -/
opaque delay : Nat → Nat

/-- A free yes or no: a TLB or instruction-cache entry still present (R91, R145; log 6), a data unit read
old or new across domains (R117, R118; log 5), two atomics merged in a router (R119). -/
opaque choice : Nat → Bool

/-- A free index: the slot a spawn takes, the home cluster of an image that names none (R52, R249, R399). -/
opaque pick : Nat → Nat

/-- A free dword: the sender of a SPAWNED letter, which no rule states (R25, R61; log 25). -/
opaque word : Nat → BitVec 64

/-- Digest of measurement block i, 1 to 4, of the firmware the part was shipped with; whether the signature of that image stands, and its
security version (R293, R326; log 11). -/
opaque measure : Nat → BitVec 384
opaque shippedSigned : Nat → Bool
opaque shippedVersion : Nat → BitVec 16

/-- The certificate chain of the device identity key, and the share of a key exchange (R293; log 11). -/
opaque certificate : List Byte
opaque share : Nat → List Byte

/-- sr.ver.stepping, the silicon stepping, which has no bearing on results (R305; log 10). -/
opaque stepping : BitVec 8

/-- The authenticated decryption of AES-256-GCM (R239, R296): key, 96-bit nonce, associated data,
ciphertext bytes and tag to the plaintext, or none when the tag does not verify (log 11). -/
opaque gcmOpen : BitVec 256 → BitVec 96 → BitVec 64 → List Byte → BitVec 128 → Option (List Byte)

/-- SHA-384 of a list of bytes (R293, R326, R413; log 11). -/
opaque sha384 : List Byte → BitVec 384

/-- The signature over a SHA-384 digest under the device identity key (R418, R293): r then s (log 11). -/
opaque sign : BitVec 384 → BitVec 768

/-- Whether a firmware signature verifies under the fused public key over a digest (R326; log 11). -/
opaque verifies : BitVec 384 → BitVec 768 → Bool

end Sys2Proof.Config
end

