-- ==== Sys2Proof/Data.lean ====
section
/-! DEFINITION. The records that letters, images, fabric items and matrix commands are made of: the data that the
events of the opcode table carry, besides being held in State. -/

namespace Sys2Proof

/-- A letter of 256 bytes, field by field (R24); body byte k is bits [8k+7:8k] of `body`. -/
structure Letter where
  dest : Word
  sender : Word
  postmark : Word
  gid : BitVec 32
  gsize : BitVec 16
  member : BitVec 16
  principal : BitVec 16
  kind : BitVec 8
  aux : BitVec 8
  replay : Bool
  nonotice : Bool
  body : BitVec 1664
  deriving DecidableEq, Repr

/-- What a row of the aperture performs: a request as the host sends it, with its length or its data, or the next line of a request in
progress, by its number (R120, R289). -/
inductive Requested (α : Type) where
  | sent (x : α)
  | line (req : Nat)
  deriving DecidableEq, Repr

/-- Where a frame comes from: the port it comes by, and the device it comes from (R297, R298). -/
structure FrameFrom where
  port : Nat
  src : Nat
  deriving DecidableEq, Repr

/-- A flit on its way from a router: the message class of its packet, and what it carries (R323, R391). -/
structure FlitFrom where
  router : Nat
  cls : Nat
  flit : Nat := 0
  deriving DecidableEq, Repr

/-- How the checks of stage 1 of the bring-up come out: the fuses hold, the stacks have trained (R325, R326). -/
structure Stage1 where
  fuses : Bool
  trained : Bool
  deriving DecidableEq, Repr

/-- The FINISH that ends a session set-up on a function: `keyed` names the streams whose keys IDE_KM programs over the session, none the link
stream, some p the selective stream of partition p (R292, R293, R402; log 95). -/
structure SessionFinish where
  fn : Nat
  keyed : List (Option Nat)
  deriving DecidableEq, Repr

/-- A parcelled tile (R34): base and length of the sender, where it lies (0 scratchpad, 1 SRAM, 2 DRAM). -/
structure Parcel where
  base : Word
  len : Nat
  place : Nat
  deriving DecidableEq, Repr

/-- An actor image (R37, R311). `init` lists the initial contents of the region, `home` the home cluster. -/
structure Image where
  entry : Word
  g : Nat
  gx : Nat
  depth : Nat
  ordered : Bool
  overflowFail : Bool
  exitMail : Bool
  delegate : Bool
  supervisor : Bool
  whole : Bool
  quota : Nat
  budget : Nat
  region : Nat
  init : List (Nat × Byte)
  commons : Option Nat
  home : Option Nat
  maxr : Nat
  window : Nat
  deriving DecidableEq, Repr

/-- Restart mode of a child (R59). -/
inductive RestartMode where
  | always
  | onFault
  | never
  deriving DecidableEq, Repr

/-- An atomic operation of R227, codes 0x0 to 0xA. -/
inductive AmoOp where
  | add | and | or | xor | min | max | minu | maxu | swap | cas | fadd
  deriving DecidableEq, Repr

/-- Why an actor exits by a kill point (R361, R369, R370, R383, R420). -/
inductive KillWhy where
  /-- `kill` executed by the actor named (R250). -/
  | byActor (killer : Word)
  /-- A kill of a whole restart or an escalation (R369, R370), by the supervisor named. -/
  | bySupervisor (supervisor : Word)
  /-- A kill by the runtime or a TDISP stop: null origin (R364). -/
  | byRuntime
  /-- OVERFLOW under the fail policy, or a full reserve and pending list (R366, R420), with the letter. -/
  | overflow (l : Letter)
  /-- MEMORY: an uncorrectable error (R382, R383). -/
  | memory
  /-- LINKED: the exit of a linked actor (R55). -/
  | linked (origin : Word)
  /-- CAPACITY by a full link table or an exclusive activation (R57, R390). -/
  | capacity
  /-- ESCALATE with its origin (R370). -/
  | escalate (origin : Word)
  deriving DecidableEq, Repr

/-- A message between the restart engines, keystones and service agents of two devices of the pod. -/
inductive RemoteMsg where
  /-- A spawn reservation (R249): serial, image index. -/
  | reserve (serial : Nat) (img : Nat)
  /-- Its reply: the reserved postcode, or none for no free slot; `ok` false for a refusal. -/
  | reserveReply (serial : Nat) (ok : Bool) (child : Option Word)
  /-- Release of a reservation after an abort (R52). -/
  | release (child : Word)
  /-- The spawn's commit: the reserved actor comes into being (R52), under a supervisor or not. -/
  | bear (child : Word) (img : Nat) (spawner : Word) (supervise : Option RestartMode)
  /-- `link`, `unlink`, `mon`, `demon` across devices (R54, R56). -/
  | link (issuer target : Word)
  | unlink (issuer target : Word)
  | mon (issuer target : Word)
  | demon (issuer target : Word)
  /-- `kill` across devices (R250, R361). -/
  | kill (target killer : Word)
  /-- A restart engine's rebuild or kill of a child on another device (R61). -/
  | rebuild (supervisor child : Word) (img : Nat)
  | killChild (supervisor child : Word)
  /-- An exit signal to a linked actor, as its EXIT letter (R55). -/
  | linkSignal (l : Letter)
  /-- A refused `link` or `mon`, with reason NOCONNECT or CAPACITY (R56, R57). -/
  | linkRefused (issuer target : Word) (reason : BitVec 8) (isLink : Bool)
  /-- The completion of a rebuild: new postcode, or the reason of R371. -/
  | rebuilt (supervisor child : Word) (result : Option Word) (reason : BitVec 8)
  deriving DecidableEq, Repr

/-- What a fabric item carries (R299, R302, R400). -/
inductive FabWork where
  | write (addr : Word) (data : List Byte)
  | red (op : BitVec 3) (addr : Word) (data : List Byte)
  | signal (addr value : Word)
  /-- a letter, and whether it carries the critical-path token (R324) -/
  | letter (l : Letter) (token : Bool)
  | readReq (serial : Nat) (addr : Word) (len : Nat) (labels : List (BitVec 16))
  | readResp (serial : Nat) (data : List Byte) (denied : List Nat) (cause : Option (BitVec 8))
  | refusal (seq : BitVec 32) (relaxed : Bool) (cause : BitVec 8) (lost : Nat)
  | remote (m : RemoteMsg)
  deriving DecidableEq, Repr

/-- One item of a fabric queue: the devices it leaves and is bound for, its sequence number, channel, partition, poster and its
letter's postmark, how many of its bytes have been sent, and in a frame the first byte it holds (R299 to R301, R339). -/
structure FabItem where
  src : Nat
  dst : Nat
  seq : BitVec 32
  relaxed : Bool
  part : Nat
  poster : Word
  postmark : Word
  work : FabWork
  sent : Nat
  first : Nat := 0
  deriving DecidableEq, Repr

/-- A format-context record: control, unfold shape, unfold window (R261). -/
structure FmtRec where
  control : Word
  shape : Word
  window : Word
  deriving DecidableEq, Repr

/-- The queued commands of the matrix unit (R271). -/
inductive MxOp where
  | ctx (r : FmtRec)
  | ctxSt (clr : Bool)
  | zero
  | mm
  | mms
  | conv
  | gmm
  | ld (fmt : BitVec 4)
  | st (fmt : BitVec 4)
  deriving DecidableEq, Repr

/-- One matrix command: operation, tile 0 or 1, operand words, K, tag, base priority, issuer, capability of a
franked command (R264 to R271, R280). -/
structure MxCmd where
  op : MxOp
  tile : Nat
  aw : Word
  bw : Word
  k : Nat
  tag : Option Nat
  pri : Nat
  act : Nat
  member : Nat
  cluster : Nat
  ctx : Nat
  fn : BitVec 8
  cap : Option Word
  /-- the granted window at its acceptance (R282) -/
  win : Nat × Nat := (0, 0)
  deriving DecidableEq, Repr

/-- The payload of a mesh packet (R392): what the destination performs. -/
inductive MeshMsg where
  /-- A letter for a mailbox of partition `p`; `host` is the staging slot and doorbell count of a host letter. -/
  | letter (p : Nat) (l : Letter) (host : Option (Nat × Nat))
  /-- An atomic-class atomic on its way to its home slice: operation, width in bytes, physical address,
  operand, and the contexts whose requests it holds (R119, R229). -/
  | atomic (op : AmoOp) (size : Nat) (pa : Nat) (v : Word) (issuers : List Nat)
  /-- A kill on its way to the keystone of the target (R361). -/
  | kill (p : Nat) (target : Word) (why : KillWhy)
  /-- A host letter forwarded to the service core of its quadrant (R288). -/
  | hostLetter (p : Nat) (slot : Nat) (l : Letter) (die : Nat) (seq : Nat)
  /-- A franked command for another cluster (R282). -/
  | franked (cluster : Nat) (c : MxCmd)
  /-- A packet whose tail a router has stomped (R391): the message it would have been. -/
  | stomped (m : MeshMsg)
  deriving DecidableEq, Repr

/-- Where an error was found (R381, R382, R383, R385, R405); TCM, the line store and the keystone log with the index in the array (R387,
R409), an owner tag in shared SRAM or in a scratchpad. -/
inductive EccSite where
  | register (ctx : Nat)
  | accumulator (cluster tile : Nat)
  | tcm (ctx index : Nat)
  | scratchpad (cluster off : Nat)
  | lineStore (act va index : Nat)
  | scaffoldFrame (act va : Nat)
  | sram (pa : Nat)
  | dram (pa : Nat)
  | ownerTag (p pa : Nat)
  | scratchTag (p cluster off : Nat)
  | systemLine (p pa : Nat)
  | principalTable (p pa : Nat)
  | keystoneLog (p die index : Nat)
  | deviceStructure (die : Nat)
  deriving DecidableEq, Repr

/-- What the scrubber found in a line (R386). -/
inductive ScrubFound where
  | clean
  | corrected
  | uncorrectable
  deriving DecidableEq, Repr

/-- What a scrubber walks (R386): a line of shared SRAM or of a stack, of data or of the system's, an owner tag, a scratchpad line or its tag;
or what an access has read in use (R381). -/
inductive ScrubSite where
  | data (pa : Nat)
  | system (p pa : Nat)
  | tag (p pa : Nat)
  | scratch (cluster off : Nat)
  | scratchTag (p cluster off : Nat)
  | inUse (site : EccSite)
  deriving DecidableEq, Repr

/-- The register spaces of the host: BAR 0 of function 0; a control block through BAR 0 of its own function, or through BAR 2 of function 0; a
letter window; the MSI-X table of a partition function (R287, R294, R297, R326, R330 to R332; log 28). -/
inductive RegSpace where
  | function0
  | control (p : Nat)
  | block (p : Nat)
  | window (p : Nat)
  | msix (p : Nat)
  deriving DecidableEq, Repr

/-- What a franking, key, firmware or boot event carries: a firmware image (R326, R327). -/
structure Firmware where
  index : Nat
  bytes : List Byte
  signature : BitVec 768
  version : BitVec 16
  raise : Bool
  deriving DecidableEq, Repr

/-- The mask control byte MC (R200): all lanes, or the lanes of a mask with merge or zero. -/
inductive VMask where
  | all
  | on (zi : Bool) (sel : BitVec 3)
  deriving DecidableEq, Repr

/-- A vector source C: a vector register or a broadcast scalar register (R202). -/
inductive VX where
  | v (r : BitVec 5)
  | x (r : BitVec 6)
  deriving DecidableEq, Repr

/-- A shift count: vector, broadcast scalar or immediate (R205). -/
inductive VXN where
  | v (r : BitVec 5)
  | x (r : BitVec 6)
  | imm (n : BitVec 5)
  deriving DecidableEq, Repr

/-- A lane number or rotate count: scalar register or immediate (R207). -/
inductive XN where
  | x (r : BitVec 6)
  | imm (n : BitVec 4)
  deriving DecidableEq, Repr

/-- The source of `mset`: scalar register or 16-bit immediate (R212). -/
inductive XI16 where
  | x (r : BitVec 6)
  | imm (n : BitVec 16)
  deriving DecidableEq, Repr

/-- The system registers of R253. -/
inductive SysReg where
  | ver | feat | self | sender | postmark | gang | tile | group | clearance | ctx | region
  | fflags | cycle | epc | enpc | cause | badaddr | tags | tagerr | progress
  deriving DecidableEq, Repr

end Sys2Proof
end

