-- ==== Sys2Proof/Event.lean ====
section
/-! DEFINITION. The events of the opcode table as data: what the agenda of the machine holds (due events of its own agents,
inputs from outside). Each is performed as the row of Instr of the same name (Event.toInstr in Decode.lean). -/

namespace Sys2Proof

/-- One event of a device agent, the host or the fabric (95_what_each_step_holds). -/
inductive Event where
  | variableResultWrite (ctx serial : Nat)
  | parkTimeout (ctx : Nat)
  | issueGapExpiry (ctx : Nat)
  | letterArrival (p : Nat) (l : Letter) (host : Option (Nat × Nat))
  | groupTimeout (p gid : Nat)
  | place (cluster : Nat)
  | gangSave (act : Nat)
  | drainEnter (cluster : Nat)
  | activationCommit (act : Nat)
  | groupPrepare (p gid : Nat)
  | groupCommitPoint (p gid : Nat)
  | groupApply (p gid : Nat)
  | groupWithdrawal (p gid : Nat) (target : Word) (why : KillWhy)
  | activationFail (act : Nat)
  | budgetExpiry (act : Nat)
  | killPoint (p : Nat) (target : Word) (why : KillWhy)
  | restartEvent (p sup : Nat) (child : Word) (reason : BitVec 8) (bySup : Bool)
  | wholeRestartRebuild (p sup : Nat)
  | remoteRebuildRequest (p src : Nat) (supervisor child : Word) (img : Nat) (kill : Bool)
  | remoteCompletionReport (p : Nat) (supervisor child : Word) (result : Option Word) (reason : BitVec 8)
  | spawnReservationRequest (p src serial img : Nat)
  | spawnReservationReply (serial : Nat) (ok : Bool) (child : Option Word)
  | reservationRelease (p : Nat) (child : Word)
  | linkRequestArrival (p src : Nat) (issuer target : Word) (isLink : Bool)
  | courierCommandComplete (cluster serial : Nat)
  | feederTile (act member handle : Nat)
  | mxDecision (cluster : Nat)
  | mxCommandComplete (cluster : Nat)
  | frankedCommandArrival (cluster : Nat) (c : MxCmd)
  | frankingEntryActivate (cluster index : Nat)
  | lwbell (p : Nat) (v : Word)
  | serviceCoreLetter (p slot : Nat) (l : Letter) (die seq : Nat)
  | apertureRead (p off : Nat) (len : Requested Nat)
  | apertureWrite (p off : Nat) (data : Requested (List Byte))
  | ntcons (p : Nat) (v : Word)
  | cmncmdCreate (p id : Nat) (unordered : Bool)
  | cmncmdDestroy (p id : Nat)
  | pdescSetUp (p row0 nrows : Nat)
  | pdescTearDown (p : Nat)
  | rprackRetry (p : Nat) (serial : BitVec 32)
  | rprackFail (p : Nat) (serial : BitVec 32)
  | pwrcap (cap : BitVec 12)
  | powerAverageUpdate (watts : BitVec 16)
  | dbgctlHalt (core : Nat)
  | dbgctlResume (core : Nat)
  | dbgctlStep (core ctx : Nat)
  | keyInstall (p k : Nat) (key : BitVec 256) (counter : BitVec 96) (owner : BitVec 16) (onIde : Bool)
  | lostmaskClear (bits : BitVec 512)
  | registerWrite (space : RegSpace) (off : Nat) (v : Word)
  | getVersion (fn : Nat)
  | getCapabilities (fn : Nat)
  | negotiateAlgorithms (fn : Nat)
  | getDigests (fn : Nat)
  | getCertificate (fn : Nat)
  | challenge (fn : Nat) (nonce : BitVec 256)
  | getMeasurements (fn : Nat)
  | keyExchange (fn : Nat)
  | finish (fin : SessionFinish)
  | endSession (fn : Nat)
  | getTdispVersion (p : Nat)
  | getTdispCapabilities (p : Nat)
  | lockInterfaceRequest (p : Nat)
  | getDeviceInterfaceReport (p : Nat)
  | getDeviceInterfaceState (p : Nat)
  | startInterfaceRequest (p : Nat)
  | stopInterfaceRequest (p : Nat)
  | ideIntegrityFailure (stream : Option Nat)
  | firmwareUpdate (fw : Firmware)
  | reset (stage1 : Stage1)
  | junctionTemperature (die celsius : Nat)
  | serviceCoreCheck (answered : BitVec 4)
  | managementCoreCheck (answered : BitVec 4)
  | flitArrival (router : Nat) (upstream : FlitFrom) (crcOk forwarding tail : Bool)
  | meshPacketArrival (src dst cls : Nat) (seq : BitVec 12) (needsForward : Bool) (msg : MeshMsg)
  | packetResendTimeout (src dst cls : Nat)
  | refusedRequestRetry (target requester : Nat)
  | reservationHoldExpiry (target : Nat)
  | fabricOpportunity (port slot : Nat)
  | fabricItemArrival (src : FrameFrom) (item : FabItem) (crcOk : Bool)
  | creditWordArrival (src : FrameFrom) (credit : Nat) (ack : BitVec 32) (relaxedBase : BitVec 32) (relaxed : BitVec 64) (lost : BitVec 512)
  | relaxedResendTimeout (dst : Nat) (seq : BitVec 32)
  | fabricReadResponse (src serial : Nat) (data : List Byte) (denied : List Nat) (cause : Option (BitVec 8))
  | refusalResponseArrival (src : Nat) (seq : BitVec 32) (relaxed : Bool) (cause : BitVec 8) (lost : Nat)
  | rotationEnd (rotation : Nat)
  | uncorrectableError (site : EccSite)
  | scrubLine (site : ScrubSite) (found : ScrubFound)
  | exclusiveServiceStart (die : Nat)
  | recordStallTimeout (p : Nat)
  | linkGridWindow
  | fatalCondition (code : BitVec 8) (p : Option Nat) (die : Nat) (place what : Word)
  | storeDrainDeadline (p : Option Nat)
  | dumpWrite
  | dumpWriteTimeout (sect : Nat)
  | dlcons (p : Nat) (v : Word)
  | die0ManagementCoreFailure
  | fabricCaptureComplete (serial : Nat)
  deriving DecidableEq, Repr

end Sys2Proof
end

