-- ==== Sys2Proof/Syntax.lean ====
section
/-! DEFINITION. The abstract syntax: operand shapes and the one inductive Instr (R144 to R149, R156). -/

namespace Sys2Proof

/-- The fields every instruction word has besides major, function, operands and imm32 (R144): guard and its sense,
the empty-actions of B and C, the issue gap, the switch-away mark and the hint bits. esc is 0 in every decoded word. -/
structure Mods where
  guard : BitVec 4
  sense : Bool
  eaB : Bool
  eaC : Bool
  gap : BitVec 4
  sw : Bool
  hint : BitVec 11
  deriving DecidableEq, Repr

/-- Franking and tag fields of a matrix instruction (R270): the capability register of a far form, the tag. -/
structure MxTail where
  far : Option (BitVec 6)
  tag : Option (BitVec 6)
  deriving DecidableEq, Repr

/-- Three scalar registers. -/
structure XXX where
  m : Mods
  (a b c : BitVec 6)
  deriving DecidableEq, Repr

/-- `sel`: three scalar registers and a predicate (R174). -/
structure SelOp where
  m : Mods
  (a b c : BitVec 6)
  p : BitVec 4
  deriving DecidableEq, Repr

/-- Two scalar registers. -/
structure XX where
  m : Mods
  (a b : BitVec 6)
  deriving DecidableEq, Repr

/-- Two scalar registers and imm32. -/
structure XXImm where
  m : Mods
  (a b : BitVec 6)
  imm : BitVec 32
  deriving DecidableEq, Repr

/-- Two scalar registers and a shift count (R179). -/
structure XXSh where
  m : Mods
  (a b : BitVec 6)
  n : BitVec 6
  deriving DecidableEq, Repr

/-- One scalar register and imm32. -/
structure XImm where
  m : Mods
  a : BitVec 6
  imm : BitVec 32
  deriving DecidableEq, Repr

/-- `lea`: base, index, log2 of the scale, displacement (R181). -/
structure LeaOp where
  m : Mods
  (a b c : BitVec 6)
  scale : BitVec 2
  imm : BitVec 32
  deriving DecidableEq, Repr

/-- Predicate destination, two scalar sources. -/
structure PXX where
  m : Mods
  a : BitVec 4
  (b c : BitVec 6)
  deriving DecidableEq, Repr

/-- Predicate destination, scalar source, imm32. -/
structure PXImm where
  m : Mods
  a : BitVec 4
  b : BitVec 6
  imm : BitVec 32
  deriving DecidableEq, Repr

/-- Three predicates. -/
structure PPP where
  m : Mods
  (a b c : BitVec 4)
  deriving DecidableEq, Repr

/-- Two predicates. -/
structure PP where
  m : Mods
  (a b : BitVec 4)
  deriving DecidableEq, Repr

/-- imm32 alone. -/
structure ImmOp where
  m : Mods
  imm : BitVec 32
  deriving DecidableEq, Repr

/-- One scalar register. -/
structure XOp where
  m : Mods
  a : BitVec 6
  deriving DecidableEq, Repr

/-- `brtag`: tag and displacement (R188). -/
structure TagBr where
  m : Mods
  t : BitVec 6
  d : BitVec 26
  deriving DecidableEq, Repr

/-- Scalar convert: rounding mode, destination and source types (R197). -/
structure CvtOp where
  m : Mods
  rm : BitVec 2
  (dst src : BitVec 3)
  (a b : BitVec 6)
  deriving DecidableEq, Repr

/-- Vector destination and source, vector or scalar source, mask. -/
structure V3 where
  m : Mods
  (a b : BitVec 5)
  c : VX
  k : VMask
  deriving DecidableEq, Repr

/-- Two vectors and a mask. -/
structure V2 where
  m : Mods
  (a b : BitVec 5)
  k : VMask
  deriving DecidableEq, Repr

/-- Vector shift (R205). -/
structure VShOp where
  m : Mods
  (a b : BitVec 5)
  c : VXN
  k : VMask
  deriving DecidableEq, Repr

/-- Vector compare into a mask register (R206). -/
structure VCmpOp where
  m : Mods
  a : BitVec 3
  b : BitVec 5
  c : VX
  k : VMask
  deriving DecidableEq, Repr

/-- `vsel` with its selector mask (R207). -/
structure VSelOp where
  m : Mods
  a : BitVec 5
  n : BitVec 3
  (b c : BitVec 5)
  deriving DecidableEq, Repr

/-- `vsplat` (R207). -/
structure VSplatOp where
  m : Mods
  a : BitVec 5
  b : BitVec 6
  k : VMask
  deriving DecidableEq, Repr

/-- `vsplat.i` (R207). -/
structure VSplatI where
  m : Mods
  a : BitVec 5
  imm : BitVec 32
  deriving DecidableEq, Repr

/-- `vext` (R207). -/
structure VExtOp where
  m : Mods
  a : BitVec 6
  b : BitVec 5
  n : XN
  deriving DecidableEq, Repr

/-- `vins` (R207). -/
structure VInsOp where
  m : Mods
  a : BitVec 5
  b : BitVec 6
  n : XN
  deriving DecidableEq, Repr

/-- Three vectors and a mask. -/
structure VVV where
  m : Mods
  (a b c : BitVec 5)
  k : VMask
  deriving DecidableEq, Repr

/-- `vshufl` with its pattern (R208). -/
structure VShufOp where
  m : Mods
  (a b c : BitVec 5)
  pat : BitVec 2
  k : VMask
  deriving DecidableEq, Repr

/-- `vrot` (R207). -/
structure VRotOp where
  m : Mods
  (a b : BitVec 5)
  n : XN
  k : VMask
  deriving DecidableEq, Repr

/-- Reduction to a scalar (R210). -/
structure VRedOp where
  m : Mods
  a : BitVec 6
  b : BitVec 5
  k : VMask
  deriving DecidableEq, Repr

/-- Three masks. -/
structure MMM where
  m : Mods
  (a b c : BitVec 3)
  deriving DecidableEq, Repr

/-- Two masks. -/
structure MM where
  m : Mods
  (a b : BitVec 3)
  deriving DecidableEq, Repr

/-- Scalar destination, mask source. -/
structure XM where
  m : Mods
  a : BitVec 6
  b : BitVec 3
  deriving DecidableEq, Repr

/-- `mset` (R212). -/
structure MSetOp where
  m : Mods
  a : BitVec 3
  s : XI16
  deriving DecidableEq, Repr

/-- Predicate destination, mask source. -/
structure PM where
  m : Mods
  a : BitVec 4
  b : BitVec 3
  deriving DecidableEq, Repr

/-- Vector convert with its parts (R213). -/
structure VCvtOp where
  m : Mods
  rm : BitVec 2
  (dst src : BitVec 3)
  (a b : BitVec 5)
  k : VMask
  (spart dpart : BitVec 2)
  deriving DecidableEq, Repr

/-- Contiguous or packed vector access (R217, R219). -/
structure VMemOp where
  m : Mods
  a : BitVec 5
  b : BitVec 6
  d : BitVec 24
  k : VMask
  deriving DecidableEq, Repr

/-- Strided vector access (R217). -/
structure VStrOp where
  m : Mods
  a : BitVec 5
  (b c : BitVec 6)
  d : BitVec 24
  k : VMask
  deriving DecidableEq, Repr

/-- Gather or scatter (R218). -/
structure VGsOp where
  m : Mods
  a : BitVec 5
  b : BitVec 6
  c : BitVec 5
  scale : BitVec 2
  k : VMask
  deriving DecidableEq, Repr

/-- `vcvt.lf8` (R220). -/
structure VLf8Op where
  m : Mods
  (a b : BitVec 5)
  k : VMask
  spart : BitVec 2
  deriving DecidableEq, Repr

/-- `pref` (R225). -/
structure PrefOp where
  m : Mods
  b : BitVec 6
  imm : BitVec 32
  deriving DecidableEq, Repr

/-- `ld.acq`, `st.rel`: device scope, 64-bit width (R226). -/
structure AcqOp where
  m : Mods
  (dev w64 : Bool)
  (a b : BitVec 6)
  imm : BitVec 32
  deriving DecidableEq, Repr

/-- An atomic: device scope, order, width (R227). -/
structure AmoArgs where
  m : Mods
  dev : Bool
  ord : BitVec 2
  w64 : Bool
  (a b c : BitVec 6)
  imm : BitVec 32
  deriving DecidableEq, Repr

/-- `amo.fadd.f32`, 32-bit only (R227). -/
structure AmoFArgs where
  m : Mods
  dev : Bool
  ord : BitVec 2
  (a b c : BitVec 6)
  imm : BitVec 32
  deriving DecidableEq, Repr

/-- No operand. -/
structure NoneOp where
  m : Mods
  deriving DecidableEq, Repr

/-- A barrier name (R233). -/
structure BarOp where
  m : Mods
  n : BitVec 3
  deriving DecidableEq, Repr

/-- `bar.missing` (R233). -/
structure BarXOp where
  m : Mods
  a : BitVec 6
  n : BitVec 3
  deriving DecidableEq, Repr

/-- A scalar register and a six-bit number: tag or slot (R236, R243). -/
structure XN6 where
  m : Mods
  a : BitVec 6
  n : BitVec 6
  deriving DecidableEq, Repr

/-- Courier copy or fill with its tag (R237). -/
structure CpOp where
  m : Mods
  (a b c : BitVec 6)
  t : BitVec 6
  deriving DecidableEq, Repr

/-- Decrypting copy with tag and key (R237, R239). -/
structure CpDecOp where
  m : Mods
  (a b c : BitVec 6)
  t : BitVec 6
  key : BitVec 8
  deriving DecidableEq, Repr

/-- Fabric courier command (R240). -/
structure FabOp where
  m : Mods
  (a b c : BitVec 6)
  t : BitVec 6
  rlx : Bool
  deriving DecidableEq, Repr

/-- Fabric reduction with its operation (R240, R241). -/
structure FabRedOp where
  m : Mods
  (a b c : BitVec 6)
  t : BitVec 6
  rlx : Bool
  op : BitVec 3
  deriving DecidableEq, Repr

/-- `mx.ctx` (R271). -/
structure MxB where
  m : Mods
  b : BitVec 6
  tl : MxTail
  deriving DecidableEq, Repr

/-- `mx.ctx.st` (R271). -/
structure MxCtxStOp where
  m : Mods
  b : BitVec 6
  clr : Bool
  tl : MxTail
  deriving DecidableEq, Repr

/-- `mx.zero` (R271). -/
structure MxT where
  m : Mods
  tile : BitVec 1
  tl : MxTail
  deriving DecidableEq, Repr

/-- Matrix product with K (R271). -/
structure MxMm where
  m : Mods
  tile : BitVec 1
  (b c : BitVec 6)
  k : BitVec 16
  tl : MxTail
  deriving DecidableEq, Repr

/-- `mx.conv` (R271). -/
structure MxConvOp where
  m : Mods
  tile : BitVec 1
  (b c : BitVec 6)
  tl : MxTail
  deriving DecidableEq, Repr

/-- `mx.ld`, `mx.st` with the format (R271). -/
structure MxLdSt where
  m : Mods
  tile : BitVec 1
  b : BitVec 6
  fmt : BitVec 4
  tl : MxTail
  deriving DecidableEq, Repr

/-- `mx.pri` (R271). -/
structure MxPriOp where
  m : Mods
  n : BitVec 2
  deriving DecidableEq, Repr

/-- `spawn` (R248, R249). -/
structure SpawnOp where
  m : Mods
  (a b c : BitVec 6)
  sup : Bool
  mode : BitVec 2
  deriving DecidableEq, Repr

/-- `exitmail` (R248). -/
structure FlagOp where
  m : Mods
  v : Bool
  deriving DecidableEq, Repr

/-- `rdsr`, `wrsr` (R253). -/
structure SrOp where
  m : Mods
  a : BitVec 6
  r : SysReg
  deriving DecidableEq, Repr

/-- A 16-bit number: `trap`, `park` (R255). -/
structure N16 where
  m : Mods
  n : BitVec 16
  deriving DecidableEq, Repr

/-- The 80 bits below major and function of a `nop`; none of them is examined (R159, R160). -/
structure NopRaw where
  rest : BitVec 80
  deriving DecidableEq, Repr

/-- Any other word of the hint space, whole (R159). -/
structure HintRaw where
  word : BitVec 96
  deriving DecidableEq, Repr

/-- The instructions and events of the GX4: one constructor for each row of spec/opcode_table.json, in its order.
A row of an instruction carries its operands; a row of a device agent, the host or the fabric carries what the event brings. -/
inductive Instr where
  /-- Writes xB + xC, wrapping modulo 2^64, to xA. (R173) -/
  | add (o : XXX)
  /-- Writes xB - xC to xA. (R173) -/
  | sub (o : XXX)
  /-- Writes the bitwise and of xB and xC to xA. (R173) -/
  | and (o : XXX)
  /-- Writes the bitwise or of xB and xC to xA. (R173) -/
  | or (o : XXX)
  /-- Writes the bitwise exclusive-or of xB and xC to xA. (R173) -/
  | xor (o : XXX)
  /-- Writes xB & ~xC to xA. (R173) -/
  | andn (o : XXX)
  /-- Writes xB | ~xC to xA. (R173) -/
  | orn (o : XXX)
  /-- Shifts xB left by xC[5:0] into xA. (R173) -/
  | shl (o : XXX)
  /-- Shifts xB right logically by xC[5:0] into xA. (R173) -/
  | shr (o : XXX)
  /-- Shifts xB right arithmetically by xC[5:0] into xA. (R173) -/
  | sra (o : XXX)
  /-- Rotates xB left by xC[5:0] into xA. (R173) -/
  | rol (o : XXX)
  /-- Rotates xB right by xC[5:0] into xA. (R173) -/
  | ror (o : XXX)
  /-- Writes the signed minimum of xB and xC to xA. (R173) -/
  | min (o : XXX)
  /-- Writes the signed maximum of xB and xC to xA. (R173) -/
  | max (o : XXX)
  /-- Writes the unsigned minimum of xB and xC to xA. (R173) -/
  | minu (o : XXX)
  /-- Writes the unsigned maximum of xB and xC to xA. (R173) -/
  | maxu (o : XXX)
  /-- Writes xB to xA if the predicate named in imm32 is true, otherwise xC. (R174) -/
  | sel (o : SelOp)
  /-- Copies xB to xA. (R173) -/
  | mov (o : XX)
  /-- Writes the low 64 bits of xB × xC to xA. (R175) -/
  | mul (o : XXX)
  /-- Writes the high 64 bits of the signed 128-bit product to xA. (R175) -/
  | mulh (o : XXX)
  /-- Writes the high 64 bits of the unsigned 128-bit product to xA. (R175) -/
  | mulhu (o : XXX)
  /-- Signed division truncated toward zero on the divide unit, with defined results for the borderline cases. (R176) -/
  | div (o : XXX)
  /-- Unsigned division on the divide unit. (R176) -/
  | divu (o : XXX)
  /-- Signed remainder on the divide unit. (R176) -/
  | rem (o : XXX)
  /-- Unsigned remainder on the divide unit. (R176) -/
  | remu (o : XXX)
  /-- Counts the leading zero bits of xB. (R178) -/
  | clz (o : XX)
  /-- Counts the trailing zero bits of xB. (R178) -/
  | ctz (o : XX)
  /-- Counts the one bits of xB. (R178) -/
  | popc (o : XX)
  /-- Reverses the eight bytes of xB. (R178) -/
  | bswap (o : XX)
  /-- Adds the sign-extended immediate to xB. (R179) -/
  | addi (o : XXImm)
  /-- Ands xB with the sign-extended immediate. (R179) -/
  | andi (o : XXImm)
  /-- Ors xB with the sign-extended immediate. (R179) -/
  | ori (o : XXImm)
  /-- Exclusive-ors xB with the sign-extended immediate. (R179) -/
  | xori (o : XXImm)
  /-- Shifts xB left by an immediate count. (R179) -/
  | shli (o : XXSh)
  /-- Shifts xB right logically by an immediate count. (R179) -/
  | shri (o : XXSh)
  /-- Shifts xB right arithmetically by an immediate count. (R179) -/
  | srai (o : XXSh)
  /-- Loads the sign-extended 32-bit immediate into xA. (R180) -/
  | li (o : XImm)
  /-- Places the immediate in bits 63:32 of xA and keeps bits 31:0. (R180) -/
  | lih (o : XImm)
  /-- Forms base + index × scale + displacement without accessing memory. (R181) -/
  | lea (o : LeaOp)
  /-- Register form: sets pA when xB equals xC. (R182) -/
  | cmpEq (o : PXX)
  /-- Register form: sets pA when xB differs from xC. (R182) -/
  | cmpNe (o : PXX)
  /-- Register form: signed less-than into pA. (R182) -/
  | cmpLt (o : PXX)
  /-- Register form: signed less-or-equal into pA. (R182) -/
  | cmpLe (o : PXX)
  /-- Register form: unsigned less-than into pA. (R182) -/
  | cmpLtu (o : PXX)
  /-- Register form: unsigned less-or-equal into pA. (R182) -/
  | cmpLeu (o : PXX)
  /-- Immediate form: sets pA when xB equals the sign-extended immediate. (R182) -/
  | cmpEqImm (o : PXImm)
  /-- Immediate form of cmp.ne. (R182) -/
  | cmpNeImm (o : PXImm)
  /-- Immediate form of cmp.lt. (R182) -/
  | cmpLtImm (o : PXImm)
  /-- Immediate form of cmp.le. (R182) -/
  | cmpLeImm (o : PXImm)
  /-- Immediate form of cmp.ltu, with the immediate read as unsigned 64-bit. (R182) -/
  | cmpLtuImm (o : PXImm)
  /-- Immediate form of cmp.leu. (R182) -/
  | cmpLeuImm (o : PXImm)
  /-- Writes pB and pC into pA. (R183) -/
  | pand (o : PPP)
  /-- Writes pB or pC into pA. (R183) -/
  | por (o : PPP)
  /-- Writes pB xor pC into pA. (R183) -/
  | pxor (o : PPP)
  /-- Writes not pB into pA. (R183) -/
  | pnot (o : PP)
  /-- Branches by a displacement in instructions, after its delay slot. (R185) -/
  | br (o : ImmOp)
  /-- Jumps to xA plus a byte offset, after its delay slot. (R185) -/
  | jmp (o : XImm)
  /-- Writes the link PC + 24 to xA and branches by a displacement. (R186) -/
  | call (o : XImm)
  /-- Loads an 8-byte call-table entry, writes the link and transfers to the entry. (R187) -/
  | callx (o : XXImm)
  /-- Transfers to the address in xA after its delay slot. (R186) -/
  | ret (o : XOp)
  /-- Branches if the done bit of engine tag t is set. (R188) -/
  | brtagSet (o : TagBr)
  /-- Branches if the done bit of engine tag t is clear. (R188) -/
  | brtagClr (o : TagBr)
  /-- Branches if the err bit of engine tag t is set. (R188) -/
  | brtagErr (o : TagBr)
  /-- Decrements xA and branches while the result is nonzero. (R189) -/
  | loop (o : XImm)
  /-- FP32 add, rounded to nearest even. (R192) -/
  | faddF32 (o : XXX)
  /-- FP32 subtract. (R192) -/
  | fsubF32 (o : XXX)
  /-- FP32 multiply. (R192) -/
  | fmulF32 (o : XXX)
  /-- Fused b × c + a with one rounding. (R192) -/
  | fmaF32 (o : XXX)
  /-- Fused b × c - a with one rounding. (R192) -/
  | fmsF32 (o : XXX)
  /-- Fused -(b × c) + a with one rounding. (R192) -/
  | fnmaF32 (o : XXX)
  /-- FP32 divide on the divide unit; variable latency. (R194) -/
  | fdivF32 (o : XXX)
  /-- FP32 square root on the divide unit; variable latency. (R194) -/
  | fsqrtF32 (o : XX)
  /-- IEEE minimumNumber of two FP32 values. (R193) -/
  | fminF32 (o : XXX)
  /-- IEEE maximumNumber of two FP32 values. (R193) -/
  | fmaxF32 (o : XXX)
  /-- Clears bit 31 of xB; a bit operation. (R192) -/
  | fabsF32 (o : XX)
  /-- Inverts bit 31 of xB; a bit operation. (R192) -/
  | fnegF32 (o : XX)
  /-- Sets pA when the two FP32 values are equal. (R195) -/
  | fcmpEqF32 (o : PXX)
  /-- Sets pA when b < c; any NaN operand sets invalid. (R195) -/
  | fcmpLtF32 (o : PXX)
  /-- Sets pA when b ≤ c. (R195) -/
  | fcmpLeF32 (o : PXX)
  /-- Sets pA when either operand is a NaN. (R195) -/
  | fcmpUnF32 (o : PXX)
  /-- Writes a one-hot class mask of the FP32 value in xB. (R196) -/
  | fclsF32 (o : XX)
  /-- Scalar convert between two types, with the rounding mode given by the function byte. (R198) -/
  | cvt (o : CvtOp)
  /-- Lane-wise 32-bit wrapping add. (R203) -/
  | vaddI32 (o : V3)
  /-- Lane-wise 32-bit subtract. (R203) -/
  | vsubI32 (o : V3)
  /-- Lane-wise low 32 bits of the product. (R203) -/
  | vmulI32 (o : V3)
  /-- Lane-wise high 32 bits of the signed product. (R203) -/
  | vmulhI32 (o : V3)
  /-- Lane-wise high 32 bits of the unsigned product. (R203) -/
  | vmulhUi32 (o : V3)
  /-- Lane-wise signed minimum. (R203) -/
  | vminI32 (o : V3)
  /-- Lane-wise signed maximum. (R203) -/
  | vmaxI32 (o : V3)
  /-- Lane-wise unsigned minimum. (R203) -/
  | vminUi32 (o : V3)
  /-- Lane-wise unsigned maximum. (R203) -/
  | vmaxUi32 (o : V3)
  /-- Lane-wise signed absolute value. (R203) -/
  | vabsI32 (o : V2)
  /-- Lane-wise negation. (R203) -/
  | vnegI32 (o : V2)
  /-- Lane-wise FP32 add. (R204) -/
  | vaddF32 (o : V3)
  /-- Lane-wise FP32 subtract. (R204) -/
  | vsubF32 (o : V3)
  /-- Lane-wise FP32 multiply. (R204) -/
  | vmulF32 (o : V3)
  /-- Lane-wise fused b × c + a. (R204) -/
  | vfmaF32 (o : V3)
  /-- Lane-wise fused b × c - a. (R204) -/
  | vfmsF32 (o : V3)
  /-- Lane-wise minimumNumber. (R204) -/
  | vminF32 (o : V3)
  /-- Lane-wise maximumNumber. (R204) -/
  | vmaxF32 (o : V3)
  /-- Lane-wise clear of bit 31. (R204) -/
  | vabsF32 (o : V2)
  /-- Lane-wise inversion of bit 31. (R204) -/
  | vnegF32 (o : V2)
  /-- Lane-wise and. (R205) -/
  | vand (o : V3)
  /-- Lane-wise or. (R205) -/
  | vor (o : V3)
  /-- Lane-wise exclusive-or. (R205) -/
  | vxor (o : V3)
  /-- Lane-wise b & ~c. (R205) -/
  | vandn (o : V3)
  /-- Lane-wise left shift by a vector, scalar or immediate count. (R205) -/
  | vshl (o : VShOp)
  /-- Lane-wise logical right shift. (R205) -/
  | vshr (o : VShOp)
  /-- Lane-wise arithmetic right shift. (R205) -/
  | vsra (o : VShOp)
  /-- Lane-wise integer equality into a mask. (R206) -/
  | vcmpEqI32 (o : VCmpOp)
  /-- Lane-wise integer inequality into a mask. (R206) -/
  | vcmpNeI32 (o : VCmpOp)
  /-- Lane-wise signed less-than into a mask. (R206) -/
  | vcmpLtI32 (o : VCmpOp)
  /-- Lane-wise signed less-or-equal into a mask. (R206) -/
  | vcmpLeI32 (o : VCmpOp)
  /-- Lane-wise unsigned less-than into a mask. (R206) -/
  | vcmpLtUi32 (o : VCmpOp)
  /-- Lane-wise unsigned less-or-equal into a mask. (R206) -/
  | vcmpLeUi32 (o : VCmpOp)
  /-- Lane-wise FP32 equality into a mask. (R206) -/
  | vcmpEqF32 (o : VCmpOp)
  /-- Lane-wise FP32 less-than into a mask. (R206) -/
  | vcmpLtF32 (o : VCmpOp)
  /-- Lane-wise FP32 less-or-equal into a mask. (R206) -/
  | vcmpLeF32 (o : VCmpOp)
  /-- Lane-wise unordered test into a mask. (R206) -/
  | vcmpUnF32 (o : VCmpOp)
  /-- Selects lanes of vB or vC by a mask. (R207) -/
  | vsel (o : VSelOp)
  /-- Broadcasts xB[31:0] to the active lanes. (R207) -/
  | vsplat (o : VSplatOp)
  /-- Broadcasts a 32-bit immediate to all lanes. (R207) -/
  | vsplatI (o : VSplatI)
  /-- Copies the lanes of vB. (R207) -/
  | vmov (o : V2)
  /-- Extracts one lane, zero-extended, into xA. (R207) -/
  | vext (o : VExtOp)
  /-- Inserts xB[31:0] into one lane of vA. (R207) -/
  | vins (o : VInsOp)
  /-- Permutes the lanes of vB by the indices in vC. (R207) -/
  | vperm (o : VVV)
  /-- Builds lanes from vB and vC by one of four zip or unzip patterns. (R208) -/
  | vshufl (o : VShufOp)
  /-- Rotates the lanes of vB by n. (R207) -/
  | vrot (o : VRotOp)
  /-- Reduces the lanes by wrapping integer add through the fixed tree. (R211) -/
  | vredaddI32 (o : VRedOp)
  /-- Reduces the lanes by FP32 add through the fixed tree. (R211) -/
  | vredaddF32 (o : VRedOp)
  /-- Signed minimum reduction. (R211) -/
  | vredminI32 (o : VRedOp)
  /-- Unsigned minimum reduction. (R211) -/
  | vredminUi32 (o : VRedOp)
  /-- minimumNumber reduction. (R211) -/
  | vredminF32 (o : VRedOp)
  /-- Signed maximum reduction. (R211) -/
  | vredmaxI32 (o : VRedOp)
  /-- Unsigned maximum reduction. (R211) -/
  | vredmaxUi32 (o : VRedOp)
  /-- maximumNumber reduction. (R211) -/
  | vredmaxF32 (o : VRedOp)
  /-- Serial inclusive scan by integer add. (R211) -/
  | vscanAddI32 (o : V2)
  /-- Serial inclusive scan by FP32 add. (R211) -/
  | vscanAddF32 (o : V2)
  /-- Scan by signed minimum. (R211) -/
  | vscanMinI32 (o : V2)
  /-- Scan by unsigned minimum. (R211) -/
  | vscanMinUi32 (o : V2)
  /-- Scan by minimumNumber. (R211) -/
  | vscanMinF32 (o : V2)
  /-- Scan by signed maximum. (R211) -/
  | vscanMaxI32 (o : V2)
  /-- Scan by unsigned maximum. (R211) -/
  | vscanMaxUi32 (o : V2)
  /-- Scan by maximumNumber. (R211) -/
  | vscanMaxF32 (o : V2)
  /-- Mask and. (R212) -/
  | mand (o : MMM)
  /-- Mask or. (R212) -/
  | mor (o : MMM)
  /-- Mask exclusive-or. (R212) -/
  | mxor (o : MMM)
  /-- Mask complement. (R212) -/
  | mnot (o : MM)
  /-- Counts the set bits of a mask into xA. (R212) -/
  | mpop (o : XM)
  /-- Writes the index of the lowest set mask bit, or 16. (R212) -/
  | mfirst (o : XM)
  /-- Sets a mask from xB or from an immediate. (R212) -/
  | mset (o : MSetOp)
  /-- Sets pA when any bit of the mask is set. (R212) -/
  | m2pAny (o : PM)
  /-- Sets pA when every mask bit is set. (R212) -/
  | m2pAll (o : PM)
  /-- Converts 16 elements between types, with source and destination parts. (R214) -/
  | vcvt (o : VCvtOp)
  /-- Contiguous vector load of 16 words through the scaffold. (R217) -/
  | vld (o : VMemOp)
  /-- Contiguous vector store of 16 words. (R217) -/
  | vst (o : VMemOp)
  /-- Strided vector load. (R217) -/
  | vlds (o : VStrOp)
  /-- Strided vector store. (R217) -/
  | vsts (o : VStrOp)
  /-- Gathers words at base plus scaled lane offsets. (R218) -/
  | vgather (o : VGsOp)
  /-- Scatters words to base plus scaled lane offsets. (R218) -/
  | vscatter (o : VGsOp)
  /-- Loads packed TF6 elements and unpacks them one per byte, sign-copied. (R219) -/
  | vldUnpTf6 (o : VMemOp)
  /-- Loads packed 4-bit elements, sign-extended to bytes. (R219) -/
  | vldUnpI4 (o : VMemOp)
  /-- Loads packed 4-bit elements, zero-extended to bytes. (R219) -/
  | vldUnpUi4 (o : VMemOp)
  /-- Packs byte TF6 elements into 3-byte groups and stores them. (R219) -/
  | vstPkTf6 (o : VMemOp)
  /-- Clamps bytes to signed 4 bits and stores them packed. (R219) -/
  | vstPkI4 (o : VMemOp)
  /-- Clamps bytes to unsigned 4 bits and stores them packed. (R219) -/
  | vstPkUi4 (o : VMemOp)
  /-- Deprecated microcoded convert of LF8 bytes to FP32 lanes. (R220) -/
  | vcvtLf8 (o : VLf8Op)
  /-- Deprecated microcoded 4-term LF8 dot product accumulated into FP32 lanes. (R220) -/
  | vdotLf8 (o : VVV)
  /-- Loads a sign-extended byte. (R223) -/
  | ldI8 (o : XXImm)
  /-- Loads a zero-extended byte. (R223) -/
  | ldUi8 (o : XXImm)
  /-- Loads a sign-extended half. (R223) -/
  | ldI16 (o : XXImm)
  /-- Loads a zero-extended half. (R223) -/
  | ldUi16 (o : XXImm)
  /-- Loads a sign-extended word. (R223) -/
  | ldI32 (o : XXImm)
  /-- Loads a zero-extended word. (R223) -/
  | ldUi32 (o : XXImm)
  /-- Loads a dword. (R223) -/
  | ld64 (o : XXImm)
  /-- Stores a byte through the scaffold. (R223) -/
  | st8 (o : XXImm)
  /-- Stores a half. (R223) -/
  | st16 (o : XXImm)
  /-- Stores a word. (R223) -/
  | st32 (o : XXImm)
  /-- Stores a dword. (R223) -/
  | st64 (o : XXImm)
  /-- Hints a line toward the cluster, with no architectural effect. (R225) -/
  | pref (o : PrefOp)
  /-- Acquiring load at gang or device scope, 32 or 64 bits. (R226) -/
  | ldAcq (o : AcqOp)
  /-- Releasing store at gang or device scope, 32 or 64 bits. (R226) -/
  | stRel (o : AcqOp)
  /-- Atomic wrapping add, returning the old value. (R228) -/
  | amoAdd (o : AmoArgs)
  /-- Atomic and. (R228) -/
  | amoAnd (o : AmoArgs)
  /-- Atomic or. (R228) -/
  | amoOr (o : AmoArgs)
  /-- Atomic exclusive-or. (R228) -/
  | amoXor (o : AmoArgs)
  /-- Atomic signed minimum. (R228) -/
  | amoMin (o : AmoArgs)
  /-- Atomic signed maximum. (R228) -/
  | amoMax (o : AmoArgs)
  /-- Atomic unsigned minimum. (R228) -/
  | amoMinu (o : AmoArgs)
  /-- Atomic unsigned maximum. (R228) -/
  | amoMaxu (o : AmoArgs)
  /-- Atomic swap. (R228) -/
  | amoSwap (o : AmoArgs)
  /-- Atomic compare-and-swap against the value in xA. (R228) -/
  | amoCas (o : AmoArgs)
  /-- Atomic FP32 add rounded to nearest even. (R228) -/
  | amoFaddF32 (o : AmoFArgs)
  /-- Holds the context's later accesses until its earlier accesses are performed as the context sees them. (R231) -/
  | fenceThr (o : NoneOp)
  /-- Orders earlier accesses before later ones at gang scope. (R231) -/
  | fenceGang (o : NoneOp)
  /-- Orders accesses at device scope, including atomic-class arrivals. (R231) -/
  | fenceDev (o : NoneOp)
  /-- Makes the context's performed and acquired writes visible to engines before its later commands. (R231) -/
  | fenceXd (o : NoneOp)
  /-- Records the member's arrival at barrier n, as a gang-scope release. (R233) -/
  | barArrive (o : BarOp)
  /-- Waits until the member's pending phase completes. (R233) -/
  | barWait (o : BarOp)
  /-- Arrives at barrier n and waits, as one instruction. (R233) -/
  | barSync (o : BarOp)
  /-- Adds the member to barrier n. (R233) -/
  | barJoin (o : BarOp)
  /-- Removes the member from barrier n. (R233) -/
  | barLeave (o : BarOp)
  /-- Writes the bitmap of members that have not arrived. (R233) -/
  | barMissing (o : BarXOp)
  /-- Waits until any masked tag is done. (R236) -/
  | tagWaitAny (o : XX)
  /-- Waits until every masked tag is done. (R236) -/
  | tagWaitAll (o : XX)
  /-- As tag.wait.any, and an acquire across domains. (R236) -/
  | tagWaitAnyXd (o : XX)
  /-- As tag.wait.all, and an acquire across domains. (R236) -/
  | tagWaitAllXd (o : XX)
  /-- Writes the lowest done tag in the mask, or 64. (R236) -/
  | tagFirst (o : XX)
  /-- Writes the err and done bits of one tag. (R236) -/
  | tagTest (o : XN6)
  /-- Clears done and err of the unheld tags in the mask. (R236) -/
  | tagClr (o : XOp)
  /-- Queues a cluster courier copy between scratchpad and global memory. (R238) -/
  | cp (o : CpOp)
  /-- Queues a courier copy that decrypts with AES-256-GCM under a key-table key. (R239) -/
  | cpDec (o : CpDecOp)
  /-- Queues a courier fill of a range with a 32-bit pattern. (R238) -/
  | cpFill (o : CpOp)
  /-- Reads committed remote state over the fabric into local memory. (R242) -/
  | cpFabRd (o : FabOp)
  /-- Captures local data for a remote write that departs at commit. (R242) -/
  | cpFabWr (o : FabOp)
  /-- Captures local data for a remote element-wise reduction that departs at commit. (R241) -/
  | cpFabRed (o : FabRedOp)
  /-- Captures a value to add to a remote atomic-class word at commit. (R242) -/
  | cpFabSig (o : FabOp)
  /-- Reads a stream record and opens a feeder subscription. (R244) -/
  | cpSub (o : XX)
  /-- Marks a stream slot finished, clearing its tag. (R244) -/
  | cpSlot (o : XN6)
  /-- Ends a feeder stream and sets tag t when no feeder write remains. (R244) -/
  | cpUnsub (o : XN6)
  /-- Claims the core's format context and queues a new format-context record. (R272) -/
  | mxCtx (o : MxB)
  /-- Writes the record, mxstat and the priority to the scratchpad, and optionally clears mxstat. (R272) -/
  | mxCtxSt (o : MxCtxStOp)
  /-- Zeroes an accumulator tile. (R273) -/
  | mxZero (o : MxT)
  /-- Adds A × B into a tile over K terms. (R275) -/
  | mxMm (o : MxMm)
  /-- Block-scaled matrix product into a tile. (R276) -/
  | mxMms (o : MxMm)
  /-- Convolution product with A unfolded from an NHWC tensor. (R277) -/
  | mxConv (o : MxConvOp)
  /-- Ragged grouped product using a row-count list. (R278) -/
  | mxGmm (o : MxMm)
  /-- Loads a tile from the scratchpad in a named format. (R273) -/
  | mxLd (o : MxLdSt)
  /-- Writes a tile to the scratchpad in a named format with the record's rounding. (R274) -/
  | mxSt (o : MxLdSt)
  /-- Sets the base priority of the format context. (R279) -/
  | mxPri (o : MxPriOp)
  /-- Builds an ORDINARY letter from an image and places it in the outbox. (R246) -/
  | snd (o : XX)
  /-- Sends a PARCEL letter and gives up access to the tile. (R247) -/
  | sndp (o : XX)
  /-- Reserves a slot for a new actor from an image and returns its postcode. (R249) -/
  | spawn (o : SpawnOp)
  /-- Enters a two-way link at commit. (R248) -/
  | link (o : XOp)
  /-- Removes a link from both tables at commit. (R248) -/
  | unlink (o : XOp)
  /-- Enters a monitor in the target's table at commit. (R248) -/
  | mon (o : XOp)
  /-- Removes a monitor at commit. (R248) -/
  | demon (o : XOp)
  /-- Makes the actor exit with the given reason at commit. (R250) -/
  | exit (o : XOp)
  /-- Makes the target actor exit with KILLED, delivered at commit. (R250) -/
  | kill (o : XOp)
  /-- Sets the actor's exit-mail flag at commit. (R248) -/
  | exitmail (o : FlagOp)
  /-- Ends the tile task: drains stores, ends subscriptions, leaves barriers and frees the context. (R251) -/
  | retire (o : NoneOp)
  /-- Aborts the activation and requeues its letter with replay set. (R252) -/
  | txnAbort (o : NoneOp)
  /-- Discards the activation's effects and commits empty, freeing the letter's place. (R252) -/
  | txnAbortDrop (o : NoneOp)
  /-- Aborts and requeues the activation as exclusive, unless it already is exclusive. (R252) -/
  | txnExcl (o : NoneOp)
  /-- Reads a system register into xA. (R253) -/
  | rdsr (o : SrOp)
  /-- Writes xA into a writable system register. (R253) -/
  | wrsr (o : SrOp)
  /-- Raises the soft-trap cause with n in the record; the tile task continues. (R255) -/
  | trap (o : N16)
  /-- Continues at sr.enpc. (R255) -/
  | eret (o : NoneOp)
  /-- Re-executes at sr.epc, as a delay slot if the trap was in one. (R255) -/
  | eretRe (o : NoneOp)
  /-- Raises ebreak, or halts the core when ebstop is set. (R255) -/
  | ebreak (o : NoneOp)
  /-- Waits for a tag, a barrier phase or n cycles. (R255) -/
  | park (o : N16)
  /-- Invalidates one fetched line on every cluster of the partition at commit. (R256) -/
  | icinv (o : XOp)
  /-- Invalidates every fetched instruction on every cluster of the partition at commit. (R256) -/
  | icinvAll (o : XOp)
  /-- Invalidates the TLB entries covering an address on every cluster at commit. (R256) -/
  | tlbinv (o : XOp)
  /-- Invalidates every TLB entry on every cluster of the partition at commit. (R256) -/
  | tlbinvAll (o : XOp)
  /-- Hint-space no-op, major 0xF0, function 0. (R160) -/
  | nop (o : NopRaw)
  /-- Any word with a major of 0xF0 to 0xFF executes as a no-op and never traps. (R159) -/
  | hintSpaceWord (o : HintRaw)
  /-- A variable-latency result is written and its register becomes full. (R153) -/
  | variableResultWrite (ctx serial : Nat)
  /-- A parked context's cycle count runs out and it returns to RUN. (R255) -/
  | parkTimeout (ctx : Nat)
  /-- A context's gap count reaches zero and it becomes eligible again. (R77) -/
  | issueGapExpiry (ctx : Nat)
  /-- A letter reaches a sorting frame and joins the mailbox in key order, or is refused or dead. (R28) -/
  | letterArrival (p : Nat) (l : Letter) (host : Option (Nat × Nat))
  /-- A group not complete 100 ms after its first letter joined is abandoned. (R49) -/
  | groupTimeout (p gid : Nat)
  /-- Each cycle the cluster placer places the first fitting entry of its queue, or pre-empts victims. (R67) -/
  | place (cluster : Nat)
  /-- A gang chosen as victim stops issuing, waits for outstanding results, and its context records are written. (R73) -/
  | gangSave (act : Nat)
  /-- The first queue entry reaches a 2 ms wait; the cluster enters drain mode and writes a kind-7 record. (R71) -/
  | drainEnter (cluster : Nat)
  /-- The keystone locks, checks, commits, applies and departs a ready activation. (R110) -/
  | activationCommit (act : Nat)
  /-- Once every group member is ready, each keystone locks and checks its members and reports locked. (R114) -/
  | groupPrepare (p gid : Nat)
  /-- The coordinator enters the group's single commit point once all keystones report locked. (R114) -/
  | groupCommitPoint (p gid : Nat)
  /-- Each keystone applies and departs its group members after the commit point. (R114) -/
  | groupApply (p gid : Nat)
  /-- A keystone receiving a kill during phase 2a sends a withdrawal the coordinator acts on. (R361) -/
  | groupWithdrawal (p gid : Nat) (target : Word) (why : KillWhy)
  /-- At a failed activation's turn the trap record is written and the actor exits FAULT or TIMEOUT. (R348) -/
  | activationFail (act : Nat)
  /-- An activation's watchdog count reaches budget plus one and it fails with cause budget. (R360) -/
  | budgetExpiry (act : Nat)
  /-- A kill reaches the target's keystone and is applied at a kill point in its log. (R361) -/
  | killPoint (p : Nat) (target : Word) (why : KillWhy)
  /-- The restart engine counts the child's exit against the intensity and restarts or escalates. (R368) -/
  | restartEvent (p sup : Nat) (child : Word) (reason : BitVec 8) (bySup : Bool)
  /-- Once the killed children have exited, every child is rebuilt and SPAWNED letters sent in list order. (R369) -/
  | wholeRestartRebuild (p sup : Nat)
  /-- A rebuild or kill request for a child on another device arrives at its home die's restart engine. (R61) -/
  | remoteRebuildRequest (p src : Nat) (supervisor child : Word) (img : Nat) (kill : Bool)
  /-- A remote restart engine's completion report reaches the supervisor's restart engine. (R61) -/
  | remoteCompletionReport (p : Nat) (supervisor child : Word) (result : Option Word) (reason : BitVec 8)
  /-- A spawn reservation request reaches another device, which reserves a slot or refuses. (R249) -/
  | spawnReservationRequest (p src serial img : Nat)
  /-- A reservation reply reaches the issuer and fills the spawn's destination, or completes void. (R249) -/
  | spawnReservationReply (serial : Nat) (ok : Bool) (child : Option Word)
  /-- A release message frees a remote reservation after the spawning activation aborts. (R52) -/
  | reservationRelease (p : Nat) (child : Word)
  /-- A remote link or monitor request arrives and is entered, or answered with NOCONNECT. (R56) -/
  | linkRequestArrival (p src : Nat) (issuer target : Word) (isLink : Bool)
  /-- The cluster courier finishes a command and sets its tag. (R238) -/
  | courierCommandComplete (cluster serial : Nat)
  /-- The feeder writes or reads one stream tile and sets the slot's tag. (R98) -/
  | feederTile (act member handle : Nat)
  /-- At an idle cycle or k-step boundary the matrix unit picks, resumes or overtakes a command. (R268) -/
  | mxDecision (cluster : Nat)
  /-- A matrix command completes its writes and sets its tag. (R266) -/
  | mxCommandComplete (cluster : Nat)
  /-- A franked command reaches the target cluster and is accepted or refused. (R282) -/
  | frankedCommandArrival (cluster : Nat) (c : MxCmd)
  /-- A valid franking entry becomes active once its format context is free, and the context is zeroed. (R283) -/
  | frankingEntryActivate (cluster index : Nat)
  /-- A doorbell write submits a staging slot of the letter window. (R288) -/
  | lwbell (p : Nat) (v : Word)
  /-- A forwarded host letter reaches its quadrant's service core, which stamps and issues it. (R288) -/
  | serviceCoreLetter (p slot : Nat) (l : Letter) (die seq : Nat)
  /-- A host read through BAR 4 returns committed state line by line. (R289) -/
  | apertureRead (p off : Nat) (len : Requested Nat)
  /-- A host write through BAR 4 commits line by line. (R289) -/
  | apertureWrite (p off : Nat) (data : Requested (List Byte))
  /-- A consumer-index write frees notice entries and releases held entries. (R290) -/
  | ntcons (p : Nat) (v : Word)
  /-- Creates a commons with the given ordering. (R47) -/
  | cmncmdCreate (p id : Nat) (unordered : Bool)
  /-- Destroys a commons that has no members. (R47) -/
  | cmncmdDestroy (p id : Nat)
  /-- Sets up a partition and brings its system actor into being. (R331) -/
  | pdescSetUp (p row0 nrows : Nat)
  /-- Tears down a ready partition, as a TDISP stop, and frees its rows. (R331) -/
  | pdescTearDown (p : Nat)
  /-- The retry verdict resumes the waiting member or engine unit. (R377) -/
  | rprackRetry (p : Nat) (serial : BitVec 32)
  /-- The fail verdict fails the waiting activation with the record's cause. (R377) -/
  | rprackFail (p : Nat) (serial : BitVec 32)
  /-- A cap write is clamped between 800 W and the limit. (R330) -/
  | pwrcap (cap : BitVec 12)
  /-- Every 10 ms the average power is updated and gating applied to hold the cap. (R330) -/
  | powerAverageUpdate (watts : BitVec 16)
  /-- A halt request stops all contexts of a core at an instruction boundary. (R318) -/
  | dbgctlHalt (core : Nat)
  /-- Resumes a halted core. (R317) -/
  | dbgctlResume (core : Nat)
  /-- Issues one instruction of stepctx on a halted core, then halts again. (R317) -/
  | dbgctlStep (core ctx : Nat)
  /-- A key-table write setting valid installs the key and counter. (R295) -/
  | keyInstall (p k : Nat) (key : BitVec 256) (counter : BitVec 96) (owner : BitVec 16) (onIde : Bool)
  /-- Clearing a lostmask bit resets the pair's sequence counts. (R396) -/
  | lostmaskClear (bits : BitVec 512)
  /-- A write to a register with no behaviour of its own sets its RW fields and clears W1C bits. (R8) -/
  | registerWrite (space : RegSpace) (off : Nat) (v : Word)
  /-- SPDM request for the supported versions. (R293) -/
  | getVersion (fn : Nat)
  /-- SPDM request for capabilities. (R293) -/
  | getCapabilities (fn : Nat)
  /-- SPDM algorithm negotiation. (R293) -/
  | negotiateAlgorithms (fn : Nat)
  /-- SPDM request for certificate digests. (R293) -/
  | getDigests (fn : Nat)
  /-- SPDM request for a certificate. (R293) -/
  | getCertificate (fn : Nat)
  /-- SPDM challenge signed with the device key. (R293) -/
  | challenge (fn : Nat) (nonce : BitVec 256)
  /-- SPDM request for the measurement blocks. (R293) -/
  | getMeasurements (fn : Nat)
  /-- SPDM ECDHE key exchange opening a secured session. (R293) -/
  | keyExchange (fn : Nat)
  /-- SPDM session finish. (R293) -/
  | finish (fin : SessionFinish)
  /-- Ends an SPDM session. (R293) -/
  | endSession (fn : Nat)
  /-- TDISP version request. (R294) -/
  | getTdispVersion (p : Nat)
  /-- TDISP capability request. (R294) -/
  | getTdispCapabilities (p : Nat)
  /-- Freezes the partition's configuration and moves the interface to CONFIG_LOCKED. (R294) -/
  | lockInterfaceRequest (p : Nat)
  /-- Returns the report of the BARs and the MSI-X table. (R294) -/
  | getDeviceInterfaceReport (p : Nat)
  /-- Returns the TDISP state. (R294) -/
  | getDeviceInterfaceState (p : Nat)
  /-- Moves the interface to RUN. (R294) -/
  | startInterfaceRequest (p : Nat)
  /-- Aborts the partition's activations, reclaims its actors and returns to CONFIG_UNLOCKED. (R294) -/
  | stopInterfaceRequest (p : Nat)
  /-- An IDE integrity failure moves a selective stream's interface to ERROR, or ends the link stream's session. (R402) -/
  | ideIntegrityFailure (stream : Option Nat)
  /-- A firmware update arrives and is verified, to be applied at the next reset. (R327) -/
  | firmwareUpdate (fw : Firmware)
  /-- The device leaves reset through the measured boot stages. (R325) -/
  | reset (stage1 : Stage1)
  /-- A junction temperature reaching 95 °C starts gating; 110 °C makes the device fatal. (R329) -/
  | junctionTemperature (die celsius : Nat)
  /-- Every 100 µs die 0's management core checks the other service cores and takes over a failed quadrant. (R403) -/
  | serviceCoreCheck (answered : BitVec 4)
  /-- Die 0's management core checks the other management cores every 100 µs; three misses are device-fatal. (R405) -/
  | managementCoreCheck (answered : BitVec 4)
  /-- A mesh flit's CRC is checked; damage causes link replay or a stomped tail. (R391) -/
  | flitArrival (router : Nat) (upstream : FlitFrom) (crcOk forwarding tail : Bool)
  /-- A packet at a network interface is performed, dropped as a duplicate, or discarded, by sequence. (R392) -/
  | meshPacketArrival (src dst cls : Nat) (seq : BitVec 12) (needsForward : Bool) (msg : MeshMsg)
  /-- An unacknowledged packet is resent after 4,096 cycles; 16 resends are device-fatal. (R392) -/
  | packetResendTimeout (src dst cls : Nat)
  /-- A refused requester retries after its backoff with raised priority. (R393) -/
  | refusedRequestRetry (target requester : Nat)
  /-- A freed forward entry held 8,192 cycles for the queue head is released. (R393) -/
  | reservationHoldExpiry (target : Nat)
  /-- A port's matched slot begins; it sends ordered, relaxed and relay items and a credit word. (R300) -/
  | fabricOpportunity (port slot : Nat)
  /-- A fabric item arrives at a target and is accepted and acted on, or refused. (R303) -/
  | fabricItemArrival (src : FrameFrom) (item : FabItem) (crcOk : Bool)
  /-- A credit word updates relay credit and acknowledgements, and may report a device lost. (R394) -/
  | creditWordArrival (src : FrameFrom) (credit : Nat) (ack : BitVec 32) (relaxedBase : BitVec 32) (relaxed : BitVec 64) (lost : BitVec 512)
  /-- A relaxed item unacknowledged after 2 rotations is sent again. (R394) -/
  | relaxedResendTimeout (dst : Nat) (seq : BitVec 32)
  /-- A remote read's response arrives; the data are written locally and the tag set. (R302) -/
  | fabricReadResponse (src serial : Nat) (data : List Byte) (denied : List Nat) (cause : Option (BitVec 8))
  /-- A target's refusal returns to the issuer, which writes its record or completes its tag. (R400) -/
  | refusalResponseArrival (src : Nat) (seq : BitVec 32) (relaxed : Bool) (cause : BitVec 8) (lost : Nat)
  /-- At each rotation's end, a device missing for three rotations is declared lost. (R396) -/
  | rotationEnd (rotation : Nat)
  /-- An array reports an uncorrectable error, which is handled by what it touched. (R381) -/
  | uncorrectableError (site : EccSite)
  /-- The scrubber reads a line, writes back a correction or reports an uncorrectable error. (R386) -/
  | scrubLine (site : ScrubSite) (found : ScrubFound)
  /-- A die begins serving an exclusive letter once it heads its queue and no other is served. (R389) -/
  | exclusiveServiceStart (die : Nat)
  /-- A record stalled 10 ms on a full dead-letter ring is discarded and counted. (R351) -/
  | recordStallTimeout (p : Nat)
  /-- At the end of each 65,536-cycle window, router counts are captured and a snapshot written. (R323) -/
  | linkGridWindow
  /-- A fatal condition enters a fatal point and stops the partition or device. (R406) -/
  | fatalCondition (code : BitVec 8) (p : Option Nat) (die : Nat) (place what : Word)
  /-- 4,096 cycles after the fatal point, undrained store-buffer entries are lost. (R407) -/
  | storeDrainDeadline (p : Option Nat)
  /-- Die 0's management core writes a signed dump for each fatal scope in order. (R411) -/
  | dumpWrite
  /-- A dump host write with no completion in 10 ms marks its section bad. (R417) -/
  | dumpWriteTimeout (sect : Nat)
  /-- A write of the dead-letter ring's consumer index frees entries, so a stalled producer's record enters the ring and the producer resumes. (R351) -/
  | dlcons (p : Nat) (v : Word)
  /-- A failure of die 0's management core stops the device without a dump; function 0 then answers only bootstat and devdmpstat, which reads state 7. (R405) -/
  | die0ManagementCoreFailure
  /-- A fabric courier finishes capturing the local source of a write, reduction or signal, sets tag t and releases its count among the 256 commands. (R242) -/
  | fabricCaptureComplete (serial : Nat)
  deriving DecidableEq, Repr

end Sys2Proof
end

