-- ==== Sys2Proof/WellFormed.lean ====
section
/-! DEFINITION. Which terms of Instr are instructions the assembler can encode: the restrictions that the operand types do
not already state. -/

namespace Sys2Proof

/-- The system registers `wrsr` may name (R253). -/
def SysReg.writable (r : SysReg) : Bool := r == .fflags || r == .epc || r == .enpc

/-- Bits of an element of a vector-convert type code (R213). -/
def vtypeWidth (t : BitVec 3) : Nat :=
  match t.toNat with
  | 0 => 32
  | 1 => 32
  | 2 => 16
  | 3 => 16
  | 4 => 16
  | _ => 8

/-- A part is below 32 divided by the width of its type (R213). -/
def partOk (t : BitVec 3) (part : BitVec 2) : Bool := part.toNat < 32 / vtypeWidth t

/-- An event's own data are not encoded; an instruction's operands are in the ranges of its table. -/
def Instr.wf (i : Instr) : Bool :=
  match i with
  | .loop o => o.a != 0
  | .cvt o => o.dst != o.src
  | .vcvt o => o.dst != o.src && partOk o.src o.spart && partOk o.dst o.dpart
  | .wrsr o => o.r.writable
  | .cpFabRed o => o.op.toNat < 6
  | .spawn o => o.mode != 3
  | .mxMm o => o.k != 0
  | .mxMms o => o.k != 0
  | .mxGmm o => o.k != 0 && o.k.toNat ≤ 32768
  | .mxLd o => o.fmt.toNat ≤ 0xA
  | .mxSt o => o.fmt.toNat ≤ 0xA
  | .hintSpaceWord o => 0xF0 ≤ (o.word >>> 88).toNat && (o.word >>> 80) != 0xF000
  | _ => true

end Sys2Proof
end

