-- ==== Sys2Proof/Decode.lean ====
section
/-! DEFINITION. The decoder of the 96-bit instruction word, total on any word and rejecting by name in the order of
R150, and after it the encoder, written from the same encoding tables. -/

namespace Sys2Proof

/-- Why a word is no instruction (R150 steps 2 to 4). -/
inductive DecodeError where
  /-- The (major, function) pair is not assigned (R157). -/
  | illegalInstruction
  /-- The escape bit is set on an assigned pair (R150). -/
  | illegalExtension
  /-- A field breaks R147. -/
  | illegalOperand
  deriving DecidableEq, Repr

/-- The operand fields of a word (R144). -/
structure Fields where
  (a b c : BitVec 8)
  m : Mods
  imm : BitVec 32
  deriving DecidableEq, Repr

/-- The fields of R144 below major and function. -/
def fieldsOf (w : BitVec 96) : Fields where
  a := w.extractLsb' 72 8
  b := w.extractLsb' 64 8
  c := w.extractLsb' 56 8
  m := { guard := w.extractLsb' 52 4, sense := w.getLsbD 51, eaB := w.getLsbD 50, eaC := w.getLsbD 49,
         gap := w.extractLsb' 12 4, sw := w.getLsbD 11, hint := w.extractLsb' 0 11 }
  imm := w.extractLsb' 16 32

/-- The operand classes of R146. -/
def xReg (f : BitVec 8) : Option (BitVec 6) :=
  if f.extractLsb' 6 2 = 0 then some (f.extractLsb' 0 6) else none
def vReg (f : BitVec 8) : Option (BitVec 5) :=
  if f.extractLsb' 5 3 = 2 then some (f.extractLsb' 0 5) else none
def pReg (f : BitVec 8) : Option (BitVec 4) :=
  if f.extractLsb' 4 4 = 8 then some (f.extractLsb' 0 4) else none
def mReg (f : BitVec 8) : Option (BitVec 3) :=
  if f.extractLsb' 3 5 = 0x12 then some (f.extractLsb' 0 3) else none
def tileName (f : BitVec 8) : Option (BitVec 1) :=
  if f.extractLsb' 1 7 = 0x50 then some (f.extractLsb' 0 1) else none
/-- The unused operand byte (R146, R147). -/
def unused (f : BitVec 8) : Option Unit := if f = 0xFF then some () else none
/-- A part of imm32 that must be zero (R147). -/
def zeroBits (i : BitVec 32) (lo len : Nat) : Option Unit := if i.extractLsb' lo len = 0 then some () else none

/-- The vector or broadcast scalar source C (R202). -/
def vxReg (f : BitVec 8) : Option VX :=
  match vReg f with
  | some r => some (.v r)
  | none => (xReg f).map .x

/-- The mask control byte in imm32[7:0] (R200). -/
def maskOf (i : BitVec 32) : Option VMask :=
  if i.getLsbD 7 then
    if i.extractLsb' 3 3 = 0 then some (.on (i.getLsbD 6) (i.extractLsb' 0 3)) else none
  else if i.extractLsb' 0 7 = 0 then some .all else none

namespace Fields

def xXX (f : Fields) : Option XXX := do
  let a ← xReg f.a; let b ← xReg f.b; let c ← xReg f.c; zeroBits f.imm 0 32; return ⟨f.m, a, b, c⟩
def selOp (f : Fields) : Option SelOp := do
  let a ← xReg f.a; let b ← xReg f.b; let c ← xReg f.c; zeroBits f.imm 4 28; return ⟨f.m, a, b, c, f.imm.extractLsb' 0 4⟩
def xX (f : Fields) : Option XX := do
  let a ← xReg f.a; let b ← xReg f.b; unused f.c; zeroBits f.imm 0 32; return ⟨f.m, a, b⟩
def xXImm (f : Fields) : Option XXImm := do
  let a ← xReg f.a; let b ← xReg f.b; unused f.c; return ⟨f.m, a, b, f.imm⟩
def xXSh (f : Fields) : Option XXSh := do
  let a ← xReg f.a; let b ← xReg f.b; unused f.c; zeroBits f.imm 6 26; return ⟨f.m, a, b, f.imm.extractLsb' 0 6⟩
def xImm (f : Fields) : Option XImm := do
  let a ← xReg f.a; unused f.b; unused f.c; return ⟨f.m, a, f.imm⟩
/-- `loop` accepts x1 to x63 (R184). -/
def loopArgs (f : Fields) : Option XImm := do
  let a ← xReg f.a; if a = 0 then none else some (); unused f.b; unused f.c; return ⟨f.m, a, f.imm⟩
def leaOp (f : Fields) (s : BitVec 2) : Option LeaOp := do
  let a ← xReg f.a; let b ← xReg f.b; let c ← xReg f.c; return ⟨f.m, a, b, c, s, f.imm⟩
def pXX (f : Fields) : Option PXX := do
  let a ← pReg f.a; let b ← xReg f.b; let c ← xReg f.c; zeroBits f.imm 0 32; return ⟨f.m, a, b, c⟩
def pXImm (f : Fields) : Option PXImm := do
  let a ← pReg f.a; let b ← xReg f.b; unused f.c; return ⟨f.m, a, b, f.imm⟩
def pPP (f : Fields) : Option PPP := do
  let a ← pReg f.a; let b ← pReg f.b; let c ← pReg f.c; zeroBits f.imm 0 32; return ⟨f.m, a, b, c⟩
def pP (f : Fields) : Option PP := do
  let a ← pReg f.a; let b ← pReg f.b; unused f.c; zeroBits f.imm 0 32; return ⟨f.m, a, b⟩
def immOp (f : Fields) : Option ImmOp := do
  unused f.a; unused f.b; unused f.c; return ⟨f.m, f.imm⟩
def xOp (f : Fields) : Option XOp := do
  let a ← xReg f.a; unused f.b; unused f.c; zeroBits f.imm 0 32; return ⟨f.m, a⟩
def tagBr (f : Fields) : Option TagBr := do
  unused f.a; unused f.b; unused f.c; return ⟨f.m, f.imm.extractLsb' 26 6, f.imm.extractLsb' 0 26⟩
def cvtOp (f : Fields) (rm : BitVec 2) (dst src : BitVec 3) : Option CvtOp := do
  let a ← xReg f.a; let b ← xReg f.b; unused f.c; zeroBits f.imm 0 32; return ⟨f.m, rm, dst, src, a, b⟩
def v3 (f : Fields) : Option V3 := do
  let a ← vReg f.a; let b ← vReg f.b; let c ← vxReg f.c; let k ← maskOf f.imm; zeroBits f.imm 8 24; return ⟨f.m, a, b, c, k⟩
def v2 (f : Fields) : Option V2 := do
  let a ← vReg f.a; let b ← vReg f.b; unused f.c; let k ← maskOf f.imm; zeroBits f.imm 8 24; return ⟨f.m, a, b, k⟩
/-- The count of a vector shift: a register C, or imm32[12:8] when C is none (R205). -/
def vShOp (f : Fields) : Option VShOp := do
  let a ← vReg f.a; let b ← vReg f.b; let k ← maskOf f.imm
  if f.c = 0xFF then do
    zeroBits f.imm 13 19; return ⟨f.m, a, b, .imm (f.imm.extractLsb' 8 5), k⟩
  else do
    zeroBits f.imm 8 24
    match ← vxReg f.c with
    | .v r => return ⟨f.m, a, b, .v r, k⟩
    | .x r => return ⟨f.m, a, b, .x r, k⟩
def vCmpOp (f : Fields) : Option VCmpOp := do
  let a ← mReg f.a; let b ← vReg f.b; let c ← vxReg f.c; let k ← maskOf f.imm; zeroBits f.imm 8 24; return ⟨f.m, a, b, c, k⟩
def vSelOp (f : Fields) : Option VSelOp := do
  let a ← vReg f.a; let b ← vReg f.b; let c ← vReg f.c; zeroBits f.imm 3 29; return ⟨f.m, a, f.imm.extractLsb' 0 3, b, c⟩
def vSplatOp (f : Fields) : Option VSplatOp := do
  let a ← vReg f.a; let b ← xReg f.b; unused f.c; let k ← maskOf f.imm; zeroBits f.imm 8 24; return ⟨f.m, a, b, k⟩
def vSplatI (f : Fields) : Option VSplatI := do
  let a ← vReg f.a; unused f.b; unused f.c; return ⟨f.m, a, f.imm⟩
/-- A lane number: register C, or imm32[3:0] when C is none (R207). -/
def laneNo (f : Fields) : Option XN :=
  if f.c = 0xFF then (zeroBits f.imm 4 28).map fun _ => .imm (f.imm.extractLsb' 0 4)
  else do zeroBits f.imm 0 32; let r ← xReg f.c; return .x r
def vExtOp (f : Fields) : Option VExtOp := do
  let a ← xReg f.a; let b ← vReg f.b; let n ← f.laneNo; return ⟨f.m, a, b, n⟩
def vInsOp (f : Fields) : Option VInsOp := do
  let a ← vReg f.a; let b ← xReg f.b; let n ← f.laneNo; return ⟨f.m, a, b, n⟩
def vVV (f : Fields) : Option VVV := do
  let a ← vReg f.a; let b ← vReg f.b; let c ← vReg f.c; let k ← maskOf f.imm; zeroBits f.imm 8 24; return ⟨f.m, a, b, c, k⟩
def vShufOp (f : Fields) : Option VShufOp := do
  let a ← vReg f.a; let b ← vReg f.b; let c ← vReg f.c; let k ← maskOf f.imm; zeroBits f.imm 10 22
  return ⟨f.m, a, b, c, f.imm.extractLsb' 8 2, k⟩
def vRotOp (f : Fields) : Option VRotOp := do
  let a ← vReg f.a; let b ← vReg f.b; let k ← maskOf f.imm
  if f.c = 0xFF then do
    zeroBits f.imm 12 20; return ⟨f.m, a, b, .imm (f.imm.extractLsb' 8 4), k⟩
  else do
    zeroBits f.imm 8 24; let r ← xReg f.c; return ⟨f.m, a, b, .x r, k⟩
def vRedOp (f : Fields) : Option VRedOp := do
  let a ← xReg f.a; let b ← vReg f.b; unused f.c; let k ← maskOf f.imm; zeroBits f.imm 8 24; return ⟨f.m, a, b, k⟩
def mMM (f : Fields) : Option MMM := do
  let a ← mReg f.a; let b ← mReg f.b; let c ← mReg f.c; zeroBits f.imm 0 32; return ⟨f.m, a, b, c⟩
def mM (f : Fields) : Option MM := do
  let a ← mReg f.a; let b ← mReg f.b; unused f.c; zeroBits f.imm 0 32; return ⟨f.m, a, b⟩
def xM (f : Fields) : Option XM := do
  let a ← xReg f.a; let b ← mReg f.b; unused f.c; zeroBits f.imm 0 32; return ⟨f.m, a, b⟩
/-- The source of `mset`: register B, or imm32[15:0] when B is none (R212). -/
def mSetOp (f : Fields) : Option MSetOp := do
  let a ← mReg f.a; unused f.c
  if f.b = 0xFF then do
    zeroBits f.imm 16 16; return ⟨f.m, a, .imm (f.imm.extractLsb' 0 16)⟩
  else do
    zeroBits f.imm 0 32; let r ← xReg f.b; return ⟨f.m, a, .x r⟩
def pM (f : Fields) : Option PM := do
  let a ← pReg f.a; let b ← mReg f.b; unused f.c; zeroBits f.imm 0 32; return ⟨f.m, a, b⟩
def vCvtOp (f : Fields) (rm : BitVec 2) (dst src : BitVec 3) : Option VCvtOp := do
  let a ← vReg f.a; let b ← vReg f.b; unused f.c; let k ← maskOf f.imm; zeroBits f.imm 12 20
  let sp := f.imm.extractLsb' 8 2; let dp := f.imm.extractLsb' 10 2
  if partOk src sp && partOk dst dp then some ⟨f.m, rm, dst, src, a, b, k, sp, dp⟩ else none
def vMemOp (f : Fields) : Option VMemOp := do
  let a ← vReg f.a; let b ← xReg f.b; unused f.c; let k ← maskOf f.imm; return ⟨f.m, a, b, f.imm.extractLsb' 8 24, k⟩
def vStrOp (f : Fields) : Option VStrOp := do
  let a ← vReg f.a; let b ← xReg f.b; let c ← xReg f.c; let k ← maskOf f.imm; return ⟨f.m, a, b, c, f.imm.extractLsb' 8 24, k⟩
def vGsOp (f : Fields) : Option VGsOp := do
  let a ← vReg f.a; let b ← xReg f.b; let c ← vReg f.c; let k ← maskOf f.imm; zeroBits f.imm 10 22
  return ⟨f.m, a, b, c, f.imm.extractLsb' 8 2, k⟩
def vLf8Op (f : Fields) : Option VLf8Op := do
  let a ← vReg f.a; let b ← vReg f.b; unused f.c; let k ← maskOf f.imm; zeroBits f.imm 10 22
  return ⟨f.m, a, b, k, f.imm.extractLsb' 8 2⟩
def prefOp (f : Fields) : Option PrefOp := do
  unused f.a; let b ← xReg f.b; unused f.c; return ⟨f.m, b, f.imm⟩
def acqOp (f : Fields) (dev w64 : Bool) : Option AcqOp := do
  let a ← xReg f.a; let b ← xReg f.b; unused f.c; return ⟨f.m, dev, w64, a, b, f.imm⟩
def amoArgs (f : Fields) (dev : Bool) (ord : BitVec 2) (w64 : Bool) : Option AmoArgs := do
  let a ← xReg f.a; let b ← xReg f.b; let c ← xReg f.c; return ⟨f.m, dev, ord, w64, a, b, c, f.imm⟩
def amoFArgs (f : Fields) (dev : Bool) (ord : BitVec 2) : Option AmoFArgs := do
  let a ← xReg f.a; let b ← xReg f.b; let c ← xReg f.c; return ⟨f.m, dev, ord, a, b, c, f.imm⟩
def noneOp (f : Fields) : Option NoneOp := do
  unused f.a; unused f.b; unused f.c; zeroBits f.imm 0 32; return ⟨f.m⟩
/-- An instruction with no operand byte and one flag in imm32[0]. -/
def bitOp (f : Fields) : Option (Bool × NoneOp) := do
  unused f.a; unused f.b; unused f.c; zeroBits f.imm 1 31; return (f.imm.getLsbD 0, ⟨f.m⟩)
/-- An instruction with register A and one flag in imm32[0]. -/
def bitXOp (f : Fields) : Option (Bool × XOp) := do
  let a ← xReg f.a; unused f.b; unused f.c; zeroBits f.imm 1 31; return (f.imm.getLsbD 0, ⟨f.m, a⟩)
def barOp (f : Fields) : Option BarOp := do
  unused f.a; unused f.b; unused f.c; zeroBits f.imm 3 29; return ⟨f.m, f.imm.extractLsb' 0 3⟩
def barXOp (f : Fields) : Option BarXOp := do
  let a ← xReg f.a; unused f.b; unused f.c; zeroBits f.imm 3 29; return ⟨f.m, a, f.imm.extractLsb' 0 3⟩
def xN6 (f : Fields) : Option XN6 := do
  let a ← xReg f.a; unused f.b; unused f.c; zeroBits f.imm 6 26; return ⟨f.m, a, f.imm.extractLsb' 0 6⟩
def cpOp (f : Fields) : Option CpOp := do
  let a ← xReg f.a; let b ← xReg f.b; let c ← xReg f.c; zeroBits f.imm 6 26; return ⟨f.m, a, b, c, f.imm.extractLsb' 0 6⟩
def cpDecOp (f : Fields) : Option CpDecOp := do
  let a ← xReg f.a; let b ← xReg f.b; let c ← xReg f.c; zeroBits f.imm 7 1; zeroBits f.imm 16 16
  return ⟨f.m, a, b, c, f.imm.extractLsb' 0 6, f.imm.extractLsb' 8 8⟩
def fabOp (f : Fields) : Option FabOp := do
  let a ← xReg f.a; let b ← xReg f.b; let c ← xReg f.c; zeroBits f.imm 7 25
  return ⟨f.m, a, b, c, f.imm.extractLsb' 0 6, f.imm.getLsbD 6⟩
/-- Reduction codes 6 and 7 are refused (R241). -/
def fabRedOp (f : Fields) : Option FabRedOp := do
  let a ← xReg f.a; let b ← xReg f.b; let c ← xReg f.c; zeroBits f.imm 7 1; zeroBits f.imm 11 21
  let op := f.imm.extractLsb' 8 3
  if op.toNat < 6 then some ⟨f.m, a, b, c, f.imm.extractLsb' 0 6, f.imm.getLsbD 6, op⟩ else none
/-- The franking and tag fields of imm32[15:0] (R270). -/
def mxTail (f : Fields) : Option MxTail := do
  zeroBits f.imm 14 2
  let far ← if f.imm.getLsbD 6 then some (some (f.imm.extractLsb' 8 6)) else (zeroBits f.imm 8 6).map fun _ => none
  let tag ← if f.imm.getLsbD 7 then some (some (f.imm.extractLsb' 0 6)) else (zeroBits f.imm 0 6).map fun _ => none
  return ⟨far, tag⟩
def mxB (f : Fields) : Option MxB := do
  unused f.a; let b ← xReg f.b; unused f.c; zeroBits f.imm 16 16; let t ← f.mxTail; return ⟨f.m, b, t⟩
def mxCtxStOp (f : Fields) : Option MxCtxStOp := do
  unused f.a; let b ← xReg f.b; unused f.c; zeroBits f.imm 17 15; let t ← f.mxTail; return ⟨f.m, b, f.imm.getLsbD 16, t⟩
def mxT (f : Fields) : Option MxT := do
  let a ← tileName f.a; unused f.b; unused f.c; zeroBits f.imm 16 16; let t ← f.mxTail; return ⟨f.m, a, t⟩
def mxMm (f : Fields) : Option MxMm := do
  let a ← tileName f.a; let b ← xReg f.b; let c ← xReg f.c; let t ← f.mxTail; let k := f.imm.extractLsb' 16 16
  if k = 0 then none else some ⟨f.m, a, b, c, k, t⟩
/-- K of `mx.gmm` is 1 to 32,768 (R271). -/
def mxGmm (f : Fields) : Option MxMm := do
  let o ← f.mxMm; if o.k.toNat ≤ 32768 then some o else none
def mxConvOp (f : Fields) : Option MxConvOp := do
  let a ← tileName f.a; let b ← xReg f.b; let c ← xReg f.c; zeroBits f.imm 16 16; let t ← f.mxTail; return ⟨f.m, a, b, c, t⟩
/-- Format codes 0xB to 0xF are refused (R271). -/
def mxLdSt (f : Fields) : Option MxLdSt := do
  let a ← tileName f.a; let b ← xReg f.b; unused f.c; zeroBits f.imm 20 12; let t ← f.mxTail
  let fmt := f.imm.extractLsb' 16 4
  if fmt.toNat ≤ 0xA then some ⟨f.m, a, b, fmt, t⟩ else none
def mxPriOp (f : Fields) : Option MxPriOp := do
  unused f.a; unused f.b; unused f.c; zeroBits f.imm 18 14; zeroBits f.imm 0 16; return ⟨f.m, f.imm.extractLsb' 16 2⟩
/-- Mode 3 is refused (R248, R352). -/
def spawnOp (f : Fields) : Option SpawnOp := do
  let a ← xReg f.a; let b ← xReg f.b; let c ← xReg f.c; zeroBits f.imm 3 29; let mode := f.imm.extractLsb' 1 2
  if mode = 3 then none else some ⟨f.m, a, b, c, f.imm.getLsbD 0, mode⟩
def flagOp (f : Fields) : Option FlagOp := do
  unused f.a; unused f.b; unused f.c; zeroBits f.imm 1 31; return ⟨f.m, f.imm.getLsbD 0⟩
def n16 (f : Fields) : Option N16 := do
  unused f.a; unused f.b; unused f.c; zeroBits f.imm 16 16; return ⟨f.m, f.imm.extractLsb' 0 16⟩

end Fields

/-- The number of a system register (R253). -/
def SysReg.number (r : SysReg) : BitVec 12 :=
  match r with
  | .ver => 0x000
  | .feat => 0x001
  | .self => 0x010
  | .sender => 0x011
  | .postmark => 0x012
  | .gang => 0x013
  | .tile => 0x014
  | .group => 0x015
  | .clearance => 0x016
  | .ctx => 0x017
  | .region => 0x018
  | .fflags => 0x020
  | .cycle => 0x021
  | .epc => 0x030
  | .enpc => 0x031
  | .cause => 0x032
  | .badaddr => 0x033
  | .tags => 0x040
  | .tagerr => 0x041
  | .progress => 0x042

/-- The system register of a number (R253). -/
def sysRegOf (n : Nat) : Option SysReg :=
  match n with
  | 0x000 => some .ver
  | 0x001 => some .feat
  | 0x010 => some .self
  | 0x011 => some .sender
  | 0x012 => some .postmark
  | 0x013 => some .gang
  | 0x014 => some .tile
  | 0x015 => some .group
  | 0x016 => some .clearance
  | 0x017 => some .ctx
  | 0x018 => some .region
  | 0x020 => some .fflags
  | 0x021 => some .cycle
  | 0x030 => some .epc
  | 0x031 => some .enpc
  | 0x032 => some .cause
  | 0x033 => some .badaddr
  | 0x040 => some .tags
  | 0x041 => some .tagerr
  | 0x042 => some .progress
  | _ => none

/-- `rdsr`: every number of R253. -/
def Fields.srOp (f : Fields) : Option SrOp := do
  let a ← xReg f.a; unused f.b; unused f.c; zeroBits f.imm 12 20
  let r ← sysRegOf (f.imm.extractLsb' 0 12).toNat; return ⟨f.m, a, r⟩
/-- `wrsr`: the writable registers of R253; another is an operand it does not accept (R352). -/
def Fields.wrArgs (f : Fields) : Option SrOp := do
  let o ← f.srOp; if o.r.writable then some o else none

/-- `lea`: the function is log2 of the scale (R181). -/
def decodeLea (fn : Nat) (f : Fields) : Option (Option Instr) :=
  if fn < 4 then some ((f.leaOp (BitVec.ofNat 2 fn)).map .lea) else none
/-- Scalar converts: rounding mode, destination and source in the function; equal types are unassigned (R197). -/
def decodeCvt (fn : Nat) (f : Fields) : Option (Option Instr) :=
  let n := BitVec.ofNat 8 fn
  if n.extractLsb' 3 3 = n.extractLsb' 0 3 then none
  else some ((f.cvtOp (n.extractLsb' 6 2) (n.extractLsb' 3 3) (n.extractLsb' 0 3)).map .cvt)
/-- Vector converts (R213). -/
def decodeVcvt (fn : Nat) (f : Fields) : Option (Option Instr) :=
  let n := BitVec.ofNat 8 fn
  if n.extractLsb' 3 3 = n.extractLsb' 0 3 then none
  else some ((f.vCvtOp (n.extractLsb' 6 2) (n.extractLsb' 3 3) (n.extractLsb' 0 3)).map .vcvt)
/-- Acquire and release: bit 4 store, bit 1 device scope, bit 0 64 bits (R226). -/
def decodeAcq (fn : Nat) (f : Fields) : Option (Option Instr) :=
  let n := BitVec.ofNat 8 fn
  if n.extractLsb' 5 3 = 0 && n.extractLsb' 2 2 = 0 then
    let o := f.acqOp (n.getLsbD 1) (n.getLsbD 0)
    some (if n.getLsbD 4 then o.map .stRel else o.map .ldAcq)
  else none
/-- Atomics: scope, order, width and operation in the function; 0xB to 0xF, and 0xA at 64 bits, unassigned (R227). -/
def decodeAmo (fn : Nat) (f : Fields) : Option (Option Instr) :=
  let n := BitVec.ofNat 8 fn
  let o := f.amoArgs (n.getLsbD 7) (n.extractLsb' 5 2) (n.getLsbD 4)
  match (n.extractLsb' 0 4).toNat with
  | 0 => some (o.map .amoAdd)
  | 1 => some (o.map .amoAnd)
  | 2 => some (o.map .amoOr)
  | 3 => some (o.map .amoXor)
  | 4 => some (o.map .amoMin)
  | 5 => some (o.map .amoMax)
  | 6 => some (o.map .amoMinu)
  | 7 => some (o.map .amoMaxu)
  | 8 => some (o.map .amoSwap)
  | 9 => some (o.map .amoCas)
  | 10 => if n.getLsbD 4 then none else some ((f.amoFArgs (n.getLsbD 7) (n.extractLsb' 5 2)).map .amoFaddF32)
  | _ => none
/-- `cp`, with dec in imm32[6]; the key is zero when dec is 0 (R237). -/
def decodeCp (f : Fields) : Option Instr :=
  if f.imm.getLsbD 6 then f.cpDecOp.map .cpDec else f.cpOp.map .cp
/-- `txn.abort` and `txn.abort.drop` (R252). -/
def decodeAbort (f : Fields) : Option Instr :=
  f.bitOp.map fun (d, o) => if d then .txnAbortDrop o else .txnAbort o
/-- `eret` and `eret.re` (R255). -/
noncomputable def decodeEret (f : Fields) : Option Instr :=
  f.bitOp.map fun (d, o) => if d then .eretRe o else .eret o
/-- `icinv` and `tlbinv` with all in imm32[0] (R256). -/
noncomputable def decodeInv (fn : Nat) (f : Fields) : Option (Option Instr) :=
  match fn with
  | 0 => some (f.bitXOp.map fun (d, o) => if d then .icinvAll o else .icinv o)
  | 1 => some (f.bitXOp.map fun (d, o) => if d then .tlbinvAll o else .tlbinv o)
  | _ => none

/-- Major 0x01 (R156): outer none is an unassigned function, inner none an operand the instruction does not accept. -/
def decode01 (fn : Nat) (f : Fields) : Option (Option Instr) :=
  match fn with
  | 0 => some (f.xXX |>.map .add)
  | 1 => some (f.xXX |>.map .sub)
  | 2 => some (f.xXX |>.map .and)
  | 3 => some (f.xXX |>.map .or)
  | 4 => some (f.xXX |>.map .xor)
  | 5 => some (f.xXX |>.map .andn)
  | 6 => some (f.xXX |>.map .orn)
  | 7 => some (f.xXX |>.map .shl)
  | 8 => some (f.xXX |>.map .shr)
  | 9 => some (f.xXX |>.map .sra)
  | 10 => some (f.xXX |>.map .rol)
  | 11 => some (f.xXX |>.map .ror)
  | 12 => some (f.xXX |>.map .min)
  | 13 => some (f.xXX |>.map .max)
  | 14 => some (f.xXX |>.map .minu)
  | 15 => some (f.xXX |>.map .maxu)
  | 16 => some (f.selOp |>.map .sel)
  | 17 => some (f.xX |>.map .mov)
  | _ => none

/-- Major 0x02 (R156): outer none is an unassigned function, inner none an operand the instruction does not accept. -/
def decode02 (fn : Nat) (f : Fields) : Option (Option Instr) :=
  match fn with
  | 0 => some (f.xXX |>.map .mul)
  | 1 => some (f.xXX |>.map .mulh)
  | 2 => some (f.xXX |>.map .mulhu)
  | 3 => some (f.xXX |>.map .div)
  | 4 => some (f.xXX |>.map .divu)
  | 5 => some (f.xXX |>.map .rem)
  | 6 => some (f.xXX |>.map .remu)
  | _ => none

/-- Major 0x03 (R156): outer none is an unassigned function, inner none an operand the instruction does not accept. -/
def decode03 (fn : Nat) (f : Fields) : Option (Option Instr) :=
  match fn with
  | 0 => some (f.xX |>.map .clz)
  | 1 => some (f.xX |>.map .ctz)
  | 2 => some (f.xX |>.map .popc)
  | 3 => some (f.xX |>.map .bswap)
  | _ => none

/-- Major 0x04 (R156): outer none is an unassigned function, inner none an operand the instruction does not accept. -/
def decode04 (fn : Nat) (f : Fields) : Option (Option Instr) :=
  match fn with
  | 0 => some (f.pXX |>.map .cmpEq)
  | 1 => some (f.pXX |>.map .cmpNe)
  | 2 => some (f.pXX |>.map .cmpLt)
  | 3 => some (f.pXX |>.map .cmpLe)
  | 4 => some (f.pXX |>.map .cmpLtu)
  | 5 => some (f.pXX |>.map .cmpLeu)
  | _ => none

/-- Major 0x05 (R156): outer none is an unassigned function, inner none an operand the instruction does not accept. -/
def decode05 (fn : Nat) (f : Fields) : Option (Option Instr) :=
  match fn with
  | 0 => some (f.pPP |>.map .pand)
  | 1 => some (f.pPP |>.map .por)
  | 2 => some (f.pPP |>.map .pxor)
  | 3 => some (f.pP |>.map .pnot)
  | _ => none

/-- Major 0x10 (R156): outer none is an unassigned function, inner none an operand the instruction does not accept. -/
def decode10 (fn : Nat) (f : Fields) : Option (Option Instr) :=
  match fn with
  | 0 => some (f.xXImm |>.map .addi)
  | 2 => some (f.xXImm |>.map .andi)
  | 3 => some (f.xXImm |>.map .ori)
  | 4 => some (f.xXImm |>.map .xori)
  | 7 => some (f.xXSh |>.map .shli)
  | 8 => some (f.xXSh |>.map .shri)
  | 9 => some (f.xXSh |>.map .srai)
  | _ => none

/-- Major 0x11 (R156): outer none is an unassigned function, inner none an operand the instruction does not accept. -/
def decode11 (fn : Nat) (f : Fields) : Option (Option Instr) :=
  match fn with
  | 0 => some (f.xImm |>.map .li)
  | 1 => some (f.xImm |>.map .lih)
  | _ => none

/-- Major 0x12 (R156): outer none is an unassigned function, inner none an operand the instruction does not accept. -/
def decode12 (fn : Nat) (f : Fields) : Option (Option Instr) :=
  match fn with
  | 0 => some (f.pXImm |>.map .cmpEqImm)
  | 1 => some (f.pXImm |>.map .cmpNeImm)
  | 2 => some (f.pXImm |>.map .cmpLtImm)
  | 3 => some (f.pXImm |>.map .cmpLeImm)
  | 4 => some (f.pXImm |>.map .cmpLtuImm)
  | 5 => some (f.pXImm |>.map .cmpLeuImm)
  | _ => none

/-- Major 0x20 (R156): outer none is an unassigned function, inner none an operand the instruction does not accept. -/
def decode20 (fn : Nat) (f : Fields) : Option (Option Instr) :=
  match fn with
  | 0 => some (f.immOp |>.map .br)
  | 1 => some (f.xImm |>.map .jmp)
  | _ => none

/-- Major 0x21 (R156): outer none is an unassigned function, inner none an operand the instruction does not accept. -/
def decode21 (fn : Nat) (f : Fields) : Option (Option Instr) :=
  match fn with
  | 0 => some (f.xImm |>.map .call)
  | 1 => some (f.xXImm |>.map .callx)
  | 2 => some (f.xOp |>.map .ret)
  | _ => none

/-- Major 0x22 (R156): outer none is an unassigned function, inner none an operand the instruction does not accept. -/
def decode22 (fn : Nat) (f : Fields) : Option (Option Instr) :=
  match fn with
  | 0 => some (f.tagBr |>.map .brtagSet)
  | 1 => some (f.tagBr |>.map .brtagClr)
  | 2 => some (f.tagBr |>.map .brtagErr)
  | 3 => some (f.loopArgs |>.map .loop)
  | _ => none

/-- Major 0x30 (R156): outer none is an unassigned function, inner none an operand the instruction does not accept. -/
def decode30 (fn : Nat) (f : Fields) : Option (Option Instr) :=
  match fn with
  | 0 => some (f.xXX |>.map .faddF32)
  | 1 => some (f.xXX |>.map .fsubF32)
  | 2 => some (f.xXX |>.map .fmulF32)
  | 3 => some (f.xXX |>.map .fmaF32)
  | 4 => some (f.xXX |>.map .fmsF32)
  | 5 => some (f.xXX |>.map .fnmaF32)
  | 6 => some (f.xXX |>.map .fdivF32)
  | 7 => some (f.xX |>.map .fsqrtF32)
  | 8 => some (f.xXX |>.map .fminF32)
  | 9 => some (f.xXX |>.map .fmaxF32)
  | 10 => some (f.xX |>.map .fabsF32)
  | 11 => some (f.xX |>.map .fnegF32)
  | _ => none

/-- Major 0x31 (R156): outer none is an unassigned function, inner none an operand the instruction does not accept. -/
def decode31 (fn : Nat) (f : Fields) : Option (Option Instr) :=
  match fn with
  | 0 => some (f.pXX |>.map .fcmpEqF32)
  | 1 => some (f.pXX |>.map .fcmpLtF32)
  | 2 => some (f.pXX |>.map .fcmpLeF32)
  | 3 => some (f.pXX |>.map .fcmpUnF32)
  | 4 => some (f.xX |>.map .fclsF32)
  | _ => none

/-- Major 0x40 (R156): outer none is an unassigned function, inner none an operand the instruction does not accept. -/
def decode40 (fn : Nat) (f : Fields) : Option (Option Instr) :=
  match fn with
  | 0 => some (f.v3 |>.map .vaddI32)
  | 1 => some (f.v3 |>.map .vsubI32)
  | 2 => some (f.v3 |>.map .vmulI32)
  | 3 => some (f.v3 |>.map .vmulhI32)
  | 4 => some (f.v3 |>.map .vmulhUi32)
  | 5 => some (f.v3 |>.map .vminI32)
  | 6 => some (f.v3 |>.map .vmaxI32)
  | 7 => some (f.v3 |>.map .vminUi32)
  | 8 => some (f.v3 |>.map .vmaxUi32)
  | 9 => some (f.v2 |>.map .vabsI32)
  | 10 => some (f.v2 |>.map .vnegI32)
  | _ => none

/-- Major 0x41 (R156): outer none is an unassigned function, inner none an operand the instruction does not accept. -/
def decode41 (fn : Nat) (f : Fields) : Option (Option Instr) :=
  match fn with
  | 0 => some (f.v3 |>.map .vaddF32)
  | 1 => some (f.v3 |>.map .vsubF32)
  | 2 => some (f.v3 |>.map .vmulF32)
  | 3 => some (f.v3 |>.map .vfmaF32)
  | 4 => some (f.v3 |>.map .vfmsF32)
  | 5 => some (f.v3 |>.map .vminF32)
  | 6 => some (f.v3 |>.map .vmaxF32)
  | 7 => some (f.v2 |>.map .vabsF32)
  | 8 => some (f.v2 |>.map .vnegF32)
  | _ => none

/-- Major 0x42 (R156): outer none is an unassigned function, inner none an operand the instruction does not accept. -/
def decode42 (fn : Nat) (f : Fields) : Option (Option Instr) :=
  match fn with
  | 0 => some (f.v3 |>.map .vand)
  | 1 => some (f.v3 |>.map .vor)
  | 2 => some (f.v3 |>.map .vxor)
  | 3 => some (f.v3 |>.map .vandn)
  | 4 => some (f.vShOp |>.map .vshl)
  | 5 => some (f.vShOp |>.map .vshr)
  | 6 => some (f.vShOp |>.map .vsra)
  | _ => none

/-- Major 0x43 (R156): outer none is an unassigned function, inner none an operand the instruction does not accept. -/
def decode43 (fn : Nat) (f : Fields) : Option (Option Instr) :=
  match fn with
  | 0 => some (f.vCmpOp |>.map .vcmpEqI32)
  | 1 => some (f.vCmpOp |>.map .vcmpNeI32)
  | 2 => some (f.vCmpOp |>.map .vcmpLtI32)
  | 3 => some (f.vCmpOp |>.map .vcmpLeI32)
  | 4 => some (f.vCmpOp |>.map .vcmpLtUi32)
  | 5 => some (f.vCmpOp |>.map .vcmpLeUi32)
  | 8 => some (f.vCmpOp |>.map .vcmpEqF32)
  | 9 => some (f.vCmpOp |>.map .vcmpLtF32)
  | 10 => some (f.vCmpOp |>.map .vcmpLeF32)
  | 11 => some (f.vCmpOp |>.map .vcmpUnF32)
  | _ => none

/-- Major 0x44 (R156): outer none is an unassigned function, inner none an operand the instruction does not accept. -/
def decode44 (fn : Nat) (f : Fields) : Option (Option Instr) :=
  match fn with
  | 0 => some (f.vSelOp |>.map .vsel)
  | 1 => some (f.vSplatOp |>.map .vsplat)
  | 2 => some (f.vSplatI |>.map .vsplatI)
  | 3 => some (f.v2 |>.map .vmov)
  | 4 => some (f.vExtOp |>.map .vext)
  | 5 => some (f.vInsOp |>.map .vins)
  | 6 => some (f.vVV |>.map .vperm)
  | 7 => some (f.vShufOp |>.map .vshufl)
  | 8 => some (f.vRotOp |>.map .vrot)
  | _ => none

/-- Major 0x45 (R156): outer none is an unassigned function, inner none an operand the instruction does not accept. -/
def decode45 (fn : Nat) (f : Fields) : Option (Option Instr) :=
  match fn with
  | 0 => some (f.vRedOp |>.map .vredaddI32)
  | 1 => some (f.vRedOp |>.map .vredaddF32)
  | 2 => some (f.vRedOp |>.map .vredminI32)
  | 3 => some (f.vRedOp |>.map .vredminUi32)
  | 4 => some (f.vRedOp |>.map .vredminF32)
  | 5 => some (f.vRedOp |>.map .vredmaxI32)
  | 6 => some (f.vRedOp |>.map .vredmaxUi32)
  | 7 => some (f.vRedOp |>.map .vredmaxF32)
  | 16 => some (f.v2 |>.map .vscanAddI32)
  | 17 => some (f.v2 |>.map .vscanAddF32)
  | 18 => some (f.v2 |>.map .vscanMinI32)
  | 19 => some (f.v2 |>.map .vscanMinUi32)
  | 20 => some (f.v2 |>.map .vscanMinF32)
  | 21 => some (f.v2 |>.map .vscanMaxI32)
  | 22 => some (f.v2 |>.map .vscanMaxUi32)
  | 23 => some (f.v2 |>.map .vscanMaxF32)
  | _ => none

/-- Major 0x46 (R156): outer none is an unassigned function, inner none an operand the instruction does not accept. -/
def decode46 (fn : Nat) (f : Fields) : Option (Option Instr) :=
  match fn with
  | 0 => some (f.mMM |>.map .mand)
  | 1 => some (f.mMM |>.map .mor)
  | 2 => some (f.mMM |>.map .mxor)
  | 3 => some (f.mM |>.map .mnot)
  | 4 => some (f.xM |>.map .mpop)
  | 5 => some (f.xM |>.map .mfirst)
  | 6 => some (f.mSetOp |>.map .mset)
  | 7 => some (f.pM |>.map .m2pAny)
  | 8 => some (f.pM |>.map .m2pAll)
  | _ => none

/-- Major 0x48 (R156): outer none is an unassigned function, inner none an operand the instruction does not accept. -/
def decode48 (fn : Nat) (f : Fields) : Option (Option Instr) :=
  match fn with
  | 0 => some (f.vMemOp |>.map .vld)
  | 1 => some (f.vMemOp |>.map .vst)
  | 2 => some (f.vStrOp |>.map .vlds)
  | 3 => some (f.vStrOp |>.map .vsts)
  | _ => none

/-- Major 0x49 (R156): outer none is an unassigned function, inner none an operand the instruction does not accept. -/
def decode49 (fn : Nat) (f : Fields) : Option (Option Instr) :=
  match fn with
  | 0 => some (f.vGsOp |>.map .vgather)
  | 1 => some (f.vGsOp |>.map .vscatter)
  | _ => none

/-- Major 0x4A (R156): outer none is an unassigned function, inner none an operand the instruction does not accept. -/
def decode4A (fn : Nat) (f : Fields) : Option (Option Instr) :=
  match fn with
  | 0 => some (f.vMemOp |>.map .vldUnpTf6)
  | 1 => some (f.vMemOp |>.map .vldUnpI4)
  | 2 => some (f.vMemOp |>.map .vldUnpUi4)
  | 8 => some (f.vMemOp |>.map .vstPkTf6)
  | 9 => some (f.vMemOp |>.map .vstPkI4)
  | 10 => some (f.vMemOp |>.map .vstPkUi4)
  | _ => none

/-- Major 0x60 (R156): outer none is an unassigned function, inner none an operand the instruction does not accept. -/
def decode60 (fn : Nat) (f : Fields) : Option (Option Instr) :=
  match fn with
  | 0 => some (f.xXImm |>.map .ldI8)
  | 1 => some (f.xXImm |>.map .ldUi8)
  | 2 => some (f.xXImm |>.map .ldI16)
  | 3 => some (f.xXImm |>.map .ldUi16)
  | 4 => some (f.xXImm |>.map .ldI32)
  | 5 => some (f.xXImm |>.map .ldUi32)
  | 6 => some (f.xXImm |>.map .ld64)
  | _ => none

/-- Major 0x61 (R156): outer none is an unassigned function, inner none an operand the instruction does not accept. -/
def decode61 (fn : Nat) (f : Fields) : Option (Option Instr) :=
  match fn with
  | 0 => some (f.xXImm |>.map .st8)
  | 1 => some (f.xXImm |>.map .st16)
  | 2 => some (f.xXImm |>.map .st32)
  | 3 => some (f.xXImm |>.map .st64)
  | 8 => some (f.prefOp |>.map .pref)
  | _ => none

/-- Major 0x70 (R156): outer none is an unassigned function, inner none an operand the instruction does not accept. -/
def decode70 (fn : Nat) (f : Fields) : Option (Option Instr) :=
  match fn with
  | 0 => some (f.noneOp |>.map .fenceThr)
  | 1 => some (f.noneOp |>.map .fenceGang)
  | 2 => some (f.noneOp |>.map .fenceDev)
  | 3 => some (f.noneOp |>.map .fenceXd)
  | _ => none

/-- Major 0x71 (R156): outer none is an unassigned function, inner none an operand the instruction does not accept. -/
def decode71 (fn : Nat) (f : Fields) : Option (Option Instr) :=
  match fn with
  | 0 => some (f.barOp |>.map .barArrive)
  | 1 => some (f.barOp |>.map .barWait)
  | 2 => some (f.barOp |>.map .barSync)
  | 3 => some (f.barOp |>.map .barJoin)
  | 4 => some (f.barOp |>.map .barLeave)
  | 5 => some (f.barXOp |>.map .barMissing)
  | _ => none

/-- Major 0x72 (R156): outer none is an unassigned function, inner none an operand the instruction does not accept. -/
def decode72 (fn : Nat) (f : Fields) : Option (Option Instr) :=
  match fn with
  | 0 => some (f.xX |>.map .tagWaitAny)
  | 1 => some (f.xX |>.map .tagWaitAll)
  | 2 => some (f.xX |>.map .tagWaitAnyXd)
  | 3 => some (f.xX |>.map .tagWaitAllXd)
  | 4 => some (f.xX |>.map .tagFirst)
  | 5 => some (f.xN6 |>.map .tagTest)
  | 6 => some (f.xOp |>.map .tagClr)
  | _ => none

/-- Major 0x73 (R156): outer none is an unassigned function, inner none an operand the instruction does not accept. -/
def decode73 (fn : Nat) (f : Fields) : Option (Option Instr) :=
  match fn with
  | 0 => some (decodeCp f)
  | 1 => some (f.cpOp |>.map .cpFill)
  | _ => none

/-- Major 0x74 (R156): outer none is an unassigned function, inner none an operand the instruction does not accept. -/
def decode74 (fn : Nat) (f : Fields) : Option (Option Instr) :=
  match fn with
  | 0 => some (f.fabOp |>.map .cpFabRd)
  | 1 => some (f.fabOp |>.map .cpFabWr)
  | 2 => some (f.fabRedOp |>.map .cpFabRed)
  | 3 => some (f.fabOp |>.map .cpFabSig)
  | _ => none

/-- Major 0x75 (R156): outer none is an unassigned function, inner none an operand the instruction does not accept. -/
def decode75 (fn : Nat) (f : Fields) : Option (Option Instr) :=
  match fn with
  | 0 => some (f.xX |>.map .cpSub)
  | 1 => some (f.xN6 |>.map .cpSlot)
  | 2 => some (f.xN6 |>.map .cpUnsub)
  | _ => none

/-- Major 0x80 (R156): outer none is an unassigned function, inner none an operand the instruction does not accept. -/
def decode80 (fn : Nat) (f : Fields) : Option (Option Instr) :=
  match fn with
  | 0 => some (f.mxB |>.map .mxCtx)
  | 1 => some (f.mxCtxStOp |>.map .mxCtxSt)
  | 2 => some (f.mxT |>.map .mxZero)
  | 3 => some (f.mxMm |>.map .mxMm)
  | 4 => some (f.mxMm |>.map .mxMms)
  | 5 => some (f.mxConvOp |>.map .mxConv)
  | 6 => some (f.mxGmm |>.map .mxGmm)
  | 7 => some (f.mxLdSt |>.map .mxLd)
  | 8 => some (f.mxLdSt |>.map .mxSt)
  | 9 => some (f.mxPriOp |>.map .mxPri)
  | _ => none

/-- Major 0x90 (R156): outer none is an unassigned function, inner none an operand the instruction does not accept. -/
def decode90 (fn : Nat) (f : Fields) : Option (Option Instr) :=
  match fn with
  | 0 => some (f.xX |>.map .snd)
  | 1 => some (f.xX |>.map .sndp)
  | _ => none

/-- Major 0x91 (R156): outer none is an unassigned function, inner none an operand the instruction does not accept. -/
def decode91 (fn : Nat) (f : Fields) : Option (Option Instr) :=
  match fn with
  | 0 => some (f.spawnOp |>.map .spawn)
  | 1 => some (f.xOp |>.map .link)
  | 2 => some (f.xOp |>.map .unlink)
  | 3 => some (f.xOp |>.map .mon)
  | 4 => some (f.xOp |>.map .demon)
  | 5 => some (f.xOp |>.map .exit)
  | 6 => some (f.xOp |>.map .kill)
  | 7 => some (f.flagOp |>.map .exitmail)
  | _ => none

/-- Major 0x92 (R156): outer none is an unassigned function, inner none an operand the instruction does not accept. -/
def decode92 (fn : Nat) (f : Fields) : Option (Option Instr) :=
  match fn with
  | 0 => some (f.noneOp |>.map .retire)
  | _ => none

/-- Major 0x93 (R156): outer none is an unassigned function, inner none an operand the instruction does not accept. -/
def decode93 (fn : Nat) (f : Fields) : Option (Option Instr) :=
  match fn with
  | 0 => some (decodeAbort f)
  | 1 => some (f.noneOp |>.map .txnExcl)
  | _ => none

/-- Major 0xA0 (R156): outer none is an unassigned function, inner none an operand the instruction does not accept. -/
noncomputable def decodeA0 (fn : Nat) (f : Fields) : Option (Option Instr) :=
  match fn with
  | 0 => some (f.srOp |>.map .rdsr)
  | 1 => some (f.wrArgs |>.map .wrsr)
  | _ => none

/-- Major 0xA1 (R156): outer none is an unassigned function, inner none an operand the instruction does not accept. -/
noncomputable def decodeA1 (fn : Nat) (f : Fields) : Option (Option Instr) :=
  match fn with
  | 0 => some (f.n16 |>.map .trap)
  | 1 => some (decodeEret f)
  | 2 => some (f.noneOp |>.map .ebreak)
  | 3 => some (f.n16 |>.map .park)
  | _ => none

/-- Major 0xB0 (R156): outer none is an unassigned function, inner none an operand the instruction does not accept. -/
def decodeB0 (fn : Nat) (f : Fields) : Option (Option Instr) :=
  match fn with
  | 0 => some (f.vLf8Op |>.map .vcvtLf8)
  | 1 => some (f.vVV |>.map .vdotLf8)
  | _ => none

/-- The opcode map (R156, R157). -/
noncomputable def decodeMajor (maj fn : Nat) (f : Fields) : Option (Option Instr) :=
  match maj with
  | 1 => decode01 fn f
  | 2 => decode02 fn f
  | 3 => decode03 fn f
  | 4 => decode04 fn f
  | 5 => decode05 fn f
  | 6 => decodeLea fn f
  | 16 => decode10 fn f
  | 17 => decode11 fn f
  | 18 => decode12 fn f
  | 32 => decode20 fn f
  | 33 => decode21 fn f
  | 34 => decode22 fn f
  | 48 => decode30 fn f
  | 49 => decode31 fn f
  | 50 => decodeCvt fn f
  | 64 => decode40 fn f
  | 65 => decode41 fn f
  | 66 => decode42 fn f
  | 67 => decode43 fn f
  | 68 => decode44 fn f
  | 69 => decode45 fn f
  | 70 => decode46 fn f
  | 71 => decodeVcvt fn f
  | 72 => decode48 fn f
  | 73 => decode49 fn f
  | 74 => decode4A fn f
  | 96 => decode60 fn f
  | 97 => decode61 fn f
  | 98 => decodeAcq fn f
  | 99 => decodeAmo fn f
  | 112 => decode70 fn f
  | 113 => decode71 fn f
  | 114 => decode72 fn f
  | 115 => decode73 fn f
  | 116 => decode74 fn f
  | 117 => decode75 fn f
  | 128 => decode80 fn f
  | 144 => decode90 fn f
  | 145 => decode91 fn f
  | 146 => decode92 fn f
  | 147 => decode93 fn f
  | 160 => decodeA0 fn f
  | 161 => decodeA1 fn f
  | 162 => decodeInv fn f
  | 176 => decodeB0 fn f
  | _ => none

/-- The decoder, in the order of R150: hint space, assignment, escape, operands. -/
noncomputable def decode (w : BitVec 96) : Except DecodeError Instr :=
  let maj := (w.extractLsb' 88 8).toNat
  let fn := (w.extractLsb' 80 8).toNat
  if 0xF0 ≤ maj then
    if maj = 0xF0 ∧ fn = 0 then .ok (.nop ⟨w.extractLsb' 0 80⟩) else .ok (.hintSpaceWord ⟨w⟩)
  else
    match decodeMajor maj fn (fieldsOf w) with
    | none => .error .illegalInstruction
    | some r =>
      if w.getLsbD 48 then .error .illegalExtension
      else match r with
        | none => .error .illegalOperand
        | some i => .ok i

/-- A number's low bytes, least significant first. -/
def leBytes (n v : Nat) : List Byte :=
  match n with
  | 0 => []
  | k + 1 => BitVec.ofNat 8 v :: leBytes k (v / 256)

/-- The number that bytes spell, least significant first (R7). -/
def ofLeBytes (bs : List Byte) : Nat :=
  match bs with
  | [] => 0
  | b :: t => b.toNat + 256 * ofLeBytes t

/-- Decoding twelve bytes of memory in little-endian order (R143). -/
noncomputable def decodeBytes (bs : List Byte) : Except DecodeError Instr := decode (BitVec.ofNat 96 (ofLeBytes bs))

/-- The instruction the decoder reads from a word whose bits are w, the bits at and above nbits being zero. -/
noncomputable def decodeTableWord (nbits w : Nat) : Option Instr :=
  (decodeBytes (leBytes 12 (w % 2 ^ nbits))).toOption

/-- Operand bytes of R146. -/
def xByte (r : BitVec 6) : BitVec 8 := 0#2 ++ r
def vByte (r : BitVec 5) : BitVec 8 := 2#3 ++ r
def pByte (r : BitVec 4) : BitVec 8 := 8#4 ++ r
def mByte (r : BitVec 3) : BitVec 8 := 0x12#5 ++ r
def aByte (r : BitVec 1) : BitVec 8 := 0x50#7 ++ r
def noByte : BitVec 8 := 0xFF
def vxByte (c : VX) : BitVec 8 :=
  match c with
  | .v r => vByte r
  | .x r => xByte r

/-- The mask control byte (R200). -/
def VMask.enc (k : VMask) : BitVec 8 :=
  match k with
  | .all => 0
  | .on zi sel => 1#1 ++ BitVec.ofBool zi ++ 0#3 ++ sel

/-- A word from its fields (R144), the escape bit 0. -/
def word (maj fn a b c : BitVec 8) (m : Mods) (imm : BitVec 32) : BitVec 96 :=
  maj ++ fn ++ a ++ b ++ c ++ m.guard ++ BitVec.ofBool m.sense ++ BitVec.ofBool m.eaB ++ BitVec.ofBool m.eaC ++
    0#1 ++ imm ++ m.gap ++ BitVec.ofBool m.sw ++ m.hint

def XXX.enc (o : XXX) (maj fn : BitVec 8) : BitVec 96 := word maj fn (xByte o.a) (xByte o.b) (xByte o.c) o.m 0
def SelOp.enc (o : SelOp) : BitVec 96 := word 0x01 0x10 (xByte o.a) (xByte o.b) (xByte o.c) o.m (0#28 ++ o.p)
def XX.enc (o : XX) (maj fn : BitVec 8) : BitVec 96 := word maj fn (xByte o.a) (xByte o.b) noByte o.m 0
def XXImm.enc (o : XXImm) (maj fn : BitVec 8) : BitVec 96 := word maj fn (xByte o.a) (xByte o.b) noByte o.m o.imm
def XXSh.enc (o : XXSh) (maj fn : BitVec 8) : BitVec 96 := word maj fn (xByte o.a) (xByte o.b) noByte o.m (0#26 ++ o.n)
def XImm.enc (o : XImm) (maj fn : BitVec 8) : BitVec 96 := word maj fn (xByte o.a) noByte noByte o.m o.imm
def LeaOp.enc (o : LeaOp) : BitVec 96 := word 0x06 (0#6 ++ o.scale) (xByte o.a) (xByte o.b) (xByte o.c) o.m o.imm
def PXX.enc (o : PXX) (maj fn : BitVec 8) : BitVec 96 := word maj fn (pByte o.a) (xByte o.b) (xByte o.c) o.m 0
def PXImm.enc (o : PXImm) (maj fn : BitVec 8) : BitVec 96 := word maj fn (pByte o.a) (xByte o.b) noByte o.m o.imm
def PPP.enc (o : PPP) (maj fn : BitVec 8) : BitVec 96 := word maj fn (pByte o.a) (pByte o.b) (pByte o.c) o.m 0
def PP.enc (o : PP) : BitVec 96 := word 0x05 0x03 (pByte o.a) (pByte o.b) noByte o.m 0
def ImmOp.enc (o : ImmOp) : BitVec 96 := word 0x20 0x00 noByte noByte noByte o.m o.imm
def XOp.enc (o : XOp) (maj fn : BitVec 8) (imm : BitVec 32) : BitVec 96 := word maj fn (xByte o.a) noByte noByte o.m imm
def TagBr.enc (o : TagBr) (maj fn : BitVec 8) : BitVec 96 := word maj fn noByte noByte noByte o.m (o.t ++ o.d)
def CvtOp.enc (o : CvtOp) : BitVec 96 :=
  word 0x32 (o.rm ++ o.dst ++ o.src) (xByte o.a) (xByte o.b) noByte o.m 0
def V3.enc (o : V3) (maj fn : BitVec 8) : BitVec 96 := word maj fn (vByte o.a) (vByte o.b) (vxByte o.c) o.m (0#24 ++ o.k.enc)
def V2.enc (o : V2) (maj fn : BitVec 8) : BitVec 96 := word maj fn (vByte o.a) (vByte o.b) noByte o.m (0#24 ++ o.k.enc)
def VShOp.enc (o : VShOp) (maj fn : BitVec 8) : BitVec 96 :=
  match o.c with
  | .v r => word maj fn (vByte o.a) (vByte o.b) (vByte r) o.m (0#24 ++ o.k.enc)
  | .x r => word maj fn (vByte o.a) (vByte o.b) (xByte r) o.m (0#24 ++ o.k.enc)
  | .imm n => word maj fn (vByte o.a) (vByte o.b) noByte o.m (0#19 ++ n ++ o.k.enc)
def VCmpOp.enc (o : VCmpOp) (maj fn : BitVec 8) : BitVec 96 := word maj fn (mByte o.a) (vByte o.b) (vxByte o.c) o.m (0#24 ++ o.k.enc)
def VSelOp.enc (o : VSelOp) : BitVec 96 := word 0x44 0x00 (vByte o.a) (vByte o.b) (vByte o.c) o.m (0#29 ++ o.n)
def VSplatOp.enc (o : VSplatOp) : BitVec 96 := word 0x44 0x01 (vByte o.a) (xByte o.b) noByte o.m (0#24 ++ o.k.enc)
def VSplatI.enc (o : VSplatI) : BitVec 96 := word 0x44 0x02 (vByte o.a) noByte noByte o.m o.imm
def VExtOp.enc (o : VExtOp) : BitVec 96 :=
  match o.n with
  | .x r => word 0x44 0x04 (xByte o.a) (vByte o.b) (xByte r) o.m 0
  | .imm n => word 0x44 0x04 (xByte o.a) (vByte o.b) noByte o.m (0#28 ++ n)
def VInsOp.enc (o : VInsOp) : BitVec 96 :=
  match o.n with
  | .x r => word 0x44 0x05 (vByte o.a) (xByte o.b) (xByte r) o.m 0
  | .imm n => word 0x44 0x05 (vByte o.a) (xByte o.b) noByte o.m (0#28 ++ n)
def VVV.enc (o : VVV) (maj fn : BitVec 8) : BitVec 96 := word maj fn (vByte o.a) (vByte o.b) (vByte o.c) o.m (0#24 ++ o.k.enc)
def VShufOp.enc (o : VShufOp) : BitVec 96 := word 0x44 0x07 (vByte o.a) (vByte o.b) (vByte o.c) o.m (0#22 ++ o.pat ++ o.k.enc)
def VRotOp.enc (o : VRotOp) : BitVec 96 :=
  match o.n with
  | .x r => word 0x44 0x08 (vByte o.a) (vByte o.b) (xByte r) o.m (0#24 ++ o.k.enc)
  | .imm n => word 0x44 0x08 (vByte o.a) (vByte o.b) noByte o.m (0#20 ++ n ++ o.k.enc)
def VRedOp.enc (o : VRedOp) (maj fn : BitVec 8) : BitVec 96 := word maj fn (xByte o.a) (vByte o.b) noByte o.m (0#24 ++ o.k.enc)
def MMM.enc (o : MMM) (maj fn : BitVec 8) : BitVec 96 := word maj fn (mByte o.a) (mByte o.b) (mByte o.c) o.m 0
def MM.enc (o : MM) : BitVec 96 := word 0x46 0x03 (mByte o.a) (mByte o.b) noByte o.m 0
def XM.enc (o : XM) (maj fn : BitVec 8) : BitVec 96 := word maj fn (xByte o.a) (mByte o.b) noByte o.m 0
def MSetOp.enc (o : MSetOp) : BitVec 96 :=
  match o.s with
  | .x r => word 0x46 0x06 (mByte o.a) (xByte r) noByte o.m 0
  | .imm n => word 0x46 0x06 (mByte o.a) noByte noByte o.m (0#16 ++ n)
def PM.enc (o : PM) (maj fn : BitVec 8) : BitVec 96 := word maj fn (pByte o.a) (mByte o.b) noByte o.m 0
def VCvtOp.enc (o : VCvtOp) : BitVec 96 :=
  word 0x47 (o.rm ++ o.dst ++ o.src) (vByte o.a) (vByte o.b) noByte o.m (0#20 ++ o.dpart ++ o.spart ++ o.k.enc)
def VMemOp.enc (o : VMemOp) (maj fn : BitVec 8) : BitVec 96 := word maj fn (vByte o.a) (xByte o.b) noByte o.m (o.d ++ o.k.enc)
def VStrOp.enc (o : VStrOp) (maj fn : BitVec 8) : BitVec 96 := word maj fn (vByte o.a) (xByte o.b) (xByte o.c) o.m (o.d ++ o.k.enc)
def VGsOp.enc (o : VGsOp) (maj fn : BitVec 8) : BitVec 96 :=
  word maj fn (vByte o.a) (xByte o.b) (vByte o.c) o.m (0#22 ++ o.scale ++ o.k.enc)
def VLf8Op.enc (o : VLf8Op) : BitVec 96 := word 0xB0 0x00 (vByte o.a) (vByte o.b) noByte o.m (0#22 ++ o.spart ++ o.k.enc)
def PrefOp.enc (o : PrefOp) : BitVec 96 := word 0x61 0x08 noByte (xByte o.b) noByte o.m o.imm
def AcqOp.enc (o : AcqOp) (st : BitVec 1) : BitVec 96 :=
  word 0x62 (0#3 ++ st ++ 0#2 ++ BitVec.ofBool o.dev ++ BitVec.ofBool o.w64) (xByte o.a) (xByte o.b) noByte o.m o.imm
def AmoArgs.enc (o : AmoArgs) (op : BitVec 4) : BitVec 96 :=
  word 0x63 (BitVec.ofBool o.dev ++ o.ord ++ BitVec.ofBool o.w64 ++ op) (xByte o.a) (xByte o.b) (xByte o.c) o.m o.imm
def AmoFArgs.enc (o : AmoFArgs) : BitVec 96 :=
  word 0x63 (BitVec.ofBool o.dev ++ o.ord ++ 0#1 ++ 0xA#4) (xByte o.a) (xByte o.b) (xByte o.c) o.m o.imm
def NoneOp.enc (o : NoneOp) (maj fn : BitVec 8) (imm : BitVec 32) : BitVec 96 := word maj fn noByte noByte noByte o.m imm
def BarOp.enc (o : BarOp) (maj fn : BitVec 8) : BitVec 96 := word maj fn noByte noByte noByte o.m (0#29 ++ o.n)
def BarXOp.enc (o : BarXOp) : BitVec 96 := word 0x71 0x05 (xByte o.a) noByte noByte o.m (0#29 ++ o.n)
def XN6.enc (o : XN6) (maj fn : BitVec 8) : BitVec 96 := word maj fn (xByte o.a) noByte noByte o.m (0#26 ++ o.n)
def CpOp.enc (o : CpOp) (fn : BitVec 8) : BitVec 96 := word 0x73 fn (xByte o.a) (xByte o.b) (xByte o.c) o.m (0#26 ++ o.t)
def CpDecOp.enc (o : CpDecOp) : BitVec 96 :=
  word 0x73 0x00 (xByte o.a) (xByte o.b) (xByte o.c) o.m (0#16 ++ o.key ++ 1#2 ++ o.t)
def FabOp.enc (o : FabOp) (maj fn : BitVec 8) : BitVec 96 :=
  word maj fn (xByte o.a) (xByte o.b) (xByte o.c) o.m (0#25 ++ BitVec.ofBool o.rlx ++ o.t)
def FabRedOp.enc (o : FabRedOp) : BitVec 96 :=
  word 0x74 0x02 (xByte o.a) (xByte o.b) (xByte o.c) o.m (0#21 ++ o.op ++ 0#1 ++ BitVec.ofBool o.rlx ++ o.t)
/-- The low half of imm32 of a matrix instruction (R270). -/
def MxTail.enc (t : MxTail) : BitVec 16 :=
  0#2 ++ t.far.getD 0 ++ BitVec.ofBool t.tag.isSome ++ BitVec.ofBool t.far.isSome ++ t.tag.getD 0
def MxB.enc (o : MxB) : BitVec 96 := word 0x80 0x00 noByte (xByte o.b) noByte o.m (0#16 ++ o.tl.enc)
def MxCtxStOp.enc (o : MxCtxStOp) : BitVec 96 :=
  word 0x80 0x01 noByte (xByte o.b) noByte o.m (0#15 ++ BitVec.ofBool o.clr ++ o.tl.enc)
def MxT.enc (o : MxT) : BitVec 96 := word 0x80 0x02 (aByte o.tile) noByte noByte o.m (0#16 ++ o.tl.enc)
def MxMm.enc (o : MxMm) (maj fn : BitVec 8) : BitVec 96 :=
  word maj fn (aByte o.tile) (xByte o.b) (xByte o.c) o.m (o.k ++ o.tl.enc)
def MxConvOp.enc (o : MxConvOp) : BitVec 96 := word 0x80 0x05 (aByte o.tile) (xByte o.b) (xByte o.c) o.m (0#16 ++ o.tl.enc)
def MxLdSt.enc (o : MxLdSt) (maj fn : BitVec 8) : BitVec 96 :=
  word maj fn (aByte o.tile) (xByte o.b) noByte o.m (0#12 ++ o.fmt ++ o.tl.enc)
def MxPriOp.enc (o : MxPriOp) : BitVec 96 := word 0x80 0x09 noByte noByte noByte o.m (0#14 ++ o.n ++ 0#16)
def SpawnOp.enc (o : SpawnOp) : BitVec 96 :=
  word 0x91 0x00 (xByte o.a) (xByte o.b) (xByte o.c) o.m (0#29 ++ o.mode ++ BitVec.ofBool o.sup)
def FlagOp.enc (o : FlagOp) : BitVec 96 := word 0x91 0x07 noByte noByte noByte o.m (0#31 ++ BitVec.ofBool o.v)
def SrOp.enc (o : SrOp) (maj fn : BitVec 8) : BitVec 96 := word maj fn (xByte o.a) noByte noByte o.m (0#20 ++ o.r.number)
def N16.enc (o : N16) (maj fn : BitVec 8) : BitVec 96 := word maj fn noByte noByte noByte o.m (0#16 ++ o.n)
def NopRaw.enc (o : NopRaw) : BitVec 96 := 0xF000#16 ++ o.rest

/-- The word of a well-formed instruction, from the encoding tables (R144); an event row has no word and gives zeros. -/
def encode (i : Instr) : BitVec 96 :=
  match i with
  | .add o => o.enc 0x01 0x00
  | .sub o => o.enc 0x01 0x01
  | .and o => o.enc 0x01 0x02
  | .or o => o.enc 0x01 0x03
  | .xor o => o.enc 0x01 0x04
  | .andn o => o.enc 0x01 0x05
  | .orn o => o.enc 0x01 0x06
  | .shl o => o.enc 0x01 0x07
  | .shr o => o.enc 0x01 0x08
  | .sra o => o.enc 0x01 0x09
  | .rol o => o.enc 0x01 0x0A
  | .ror o => o.enc 0x01 0x0B
  | .min o => o.enc 0x01 0x0C
  | .max o => o.enc 0x01 0x0D
  | .minu o => o.enc 0x01 0x0E
  | .maxu o => o.enc 0x01 0x0F
  | .sel o => o.enc
  | .mov o => o.enc 0x01 0x11
  | .mul o => o.enc 0x02 0x00
  | .mulh o => o.enc 0x02 0x01
  | .mulhu o => o.enc 0x02 0x02
  | .div o => o.enc 0x02 0x03
  | .divu o => o.enc 0x02 0x04
  | .rem o => o.enc 0x02 0x05
  | .remu o => o.enc 0x02 0x06
  | .clz o => o.enc 0x03 0x00
  | .ctz o => o.enc 0x03 0x01
  | .popc o => o.enc 0x03 0x02
  | .bswap o => o.enc 0x03 0x03
  | .addi o => o.enc 0x10 0x00
  | .andi o => o.enc 0x10 0x02
  | .ori o => o.enc 0x10 0x03
  | .xori o => o.enc 0x10 0x04
  | .shli o => o.enc 0x10 0x07
  | .shri o => o.enc 0x10 0x08
  | .srai o => o.enc 0x10 0x09
  | .li o => o.enc 0x11 0x00
  | .lih o => o.enc 0x11 0x01
  | .lea o => o.enc
  | .cmpEq o => o.enc 0x04 0x00
  | .cmpNe o => o.enc 0x04 0x01
  | .cmpLt o => o.enc 0x04 0x02
  | .cmpLe o => o.enc 0x04 0x03
  | .cmpLtu o => o.enc 0x04 0x04
  | .cmpLeu o => o.enc 0x04 0x05
  | .cmpEqImm o => o.enc 0x12 0x00
  | .cmpNeImm o => o.enc 0x12 0x01
  | .cmpLtImm o => o.enc 0x12 0x02
  | .cmpLeImm o => o.enc 0x12 0x03
  | .cmpLtuImm o => o.enc 0x12 0x04
  | .cmpLeuImm o => o.enc 0x12 0x05
  | .pand o => o.enc 0x05 0x00
  | .por o => o.enc 0x05 0x01
  | .pxor o => o.enc 0x05 0x02
  | .pnot o => o.enc
  | .br o => o.enc
  | .jmp o => o.enc 0x20 0x01
  | .call o => o.enc 0x21 0x00
  | .callx o => o.enc 0x21 0x01
  | .ret o => o.enc 0x21 0x02 0
  | .brtagSet o => o.enc 0x22 0x00
  | .brtagClr o => o.enc 0x22 0x01
  | .brtagErr o => o.enc 0x22 0x02
  | .loop o => o.enc 0x22 0x03
  | .faddF32 o => o.enc 0x30 0x00
  | .fsubF32 o => o.enc 0x30 0x01
  | .fmulF32 o => o.enc 0x30 0x02
  | .fmaF32 o => o.enc 0x30 0x03
  | .fmsF32 o => o.enc 0x30 0x04
  | .fnmaF32 o => o.enc 0x30 0x05
  | .fdivF32 o => o.enc 0x30 0x06
  | .fsqrtF32 o => o.enc 0x30 0x07
  | .fminF32 o => o.enc 0x30 0x08
  | .fmaxF32 o => o.enc 0x30 0x09
  | .fabsF32 o => o.enc 0x30 0x0A
  | .fnegF32 o => o.enc 0x30 0x0B
  | .fcmpEqF32 o => o.enc 0x31 0x00
  | .fcmpLtF32 o => o.enc 0x31 0x01
  | .fcmpLeF32 o => o.enc 0x31 0x02
  | .fcmpUnF32 o => o.enc 0x31 0x03
  | .fclsF32 o => o.enc 0x31 0x04
  | .cvt o => o.enc
  | .vaddI32 o => o.enc 0x40 0x00
  | .vsubI32 o => o.enc 0x40 0x01
  | .vmulI32 o => o.enc 0x40 0x02
  | .vmulhI32 o => o.enc 0x40 0x03
  | .vmulhUi32 o => o.enc 0x40 0x04
  | .vminI32 o => o.enc 0x40 0x05
  | .vmaxI32 o => o.enc 0x40 0x06
  | .vminUi32 o => o.enc 0x40 0x07
  | .vmaxUi32 o => o.enc 0x40 0x08
  | .vabsI32 o => o.enc 0x40 0x09
  | .vnegI32 o => o.enc 0x40 0x0A
  | .vaddF32 o => o.enc 0x41 0x00
  | .vsubF32 o => o.enc 0x41 0x01
  | .vmulF32 o => o.enc 0x41 0x02
  | .vfmaF32 o => o.enc 0x41 0x03
  | .vfmsF32 o => o.enc 0x41 0x04
  | .vminF32 o => o.enc 0x41 0x05
  | .vmaxF32 o => o.enc 0x41 0x06
  | .vabsF32 o => o.enc 0x41 0x07
  | .vnegF32 o => o.enc 0x41 0x08
  | .vand o => o.enc 0x42 0x00
  | .vor o => o.enc 0x42 0x01
  | .vxor o => o.enc 0x42 0x02
  | .vandn o => o.enc 0x42 0x03
  | .vshl o => o.enc 0x42 0x04
  | .vshr o => o.enc 0x42 0x05
  | .vsra o => o.enc 0x42 0x06
  | .vcmpEqI32 o => o.enc 0x43 0x00
  | .vcmpNeI32 o => o.enc 0x43 0x01
  | .vcmpLtI32 o => o.enc 0x43 0x02
  | .vcmpLeI32 o => o.enc 0x43 0x03
  | .vcmpLtUi32 o => o.enc 0x43 0x04
  | .vcmpLeUi32 o => o.enc 0x43 0x05
  | .vcmpEqF32 o => o.enc 0x43 0x08
  | .vcmpLtF32 o => o.enc 0x43 0x09
  | .vcmpLeF32 o => o.enc 0x43 0x0A
  | .vcmpUnF32 o => o.enc 0x43 0x0B
  | .vsel o => o.enc
  | .vsplat o => o.enc
  | .vsplatI o => o.enc
  | .vmov o => o.enc 0x44 0x03
  | .vext o => o.enc
  | .vins o => o.enc
  | .vperm o => o.enc 0x44 0x06
  | .vshufl o => o.enc
  | .vrot o => o.enc
  | .vredaddI32 o => o.enc 0x45 0x00
  | .vredaddF32 o => o.enc 0x45 0x01
  | .vredminI32 o => o.enc 0x45 0x02
  | .vredminUi32 o => o.enc 0x45 0x03
  | .vredminF32 o => o.enc 0x45 0x04
  | .vredmaxI32 o => o.enc 0x45 0x05
  | .vredmaxUi32 o => o.enc 0x45 0x06
  | .vredmaxF32 o => o.enc 0x45 0x07
  | .vscanAddI32 o => o.enc 0x45 0x10
  | .vscanAddF32 o => o.enc 0x45 0x11
  | .vscanMinI32 o => o.enc 0x45 0x12
  | .vscanMinUi32 o => o.enc 0x45 0x13
  | .vscanMinF32 o => o.enc 0x45 0x14
  | .vscanMaxI32 o => o.enc 0x45 0x15
  | .vscanMaxUi32 o => o.enc 0x45 0x16
  | .vscanMaxF32 o => o.enc 0x45 0x17
  | .mand o => o.enc 0x46 0x00
  | .mor o => o.enc 0x46 0x01
  | .mxor o => o.enc 0x46 0x02
  | .mnot o => o.enc
  | .mpop o => o.enc 0x46 0x04
  | .mfirst o => o.enc 0x46 0x05
  | .mset o => o.enc
  | .m2pAny o => o.enc 0x46 0x07
  | .m2pAll o => o.enc 0x46 0x08
  | .vcvt o => o.enc
  | .vld o => o.enc 0x48 0x00
  | .vst o => o.enc 0x48 0x01
  | .vlds o => o.enc 0x48 0x02
  | .vsts o => o.enc 0x48 0x03
  | .vgather o => o.enc 0x49 0x00
  | .vscatter o => o.enc 0x49 0x01
  | .vldUnpTf6 o => o.enc 0x4A 0x00
  | .vldUnpI4 o => o.enc 0x4A 0x01
  | .vldUnpUi4 o => o.enc 0x4A 0x02
  | .vstPkTf6 o => o.enc 0x4A 0x08
  | .vstPkI4 o => o.enc 0x4A 0x09
  | .vstPkUi4 o => o.enc 0x4A 0x0A
  | .vcvtLf8 o => o.enc
  | .vdotLf8 o => o.enc 0xB0 0x01
  | .ldI8 o => o.enc 0x60 0x00
  | .ldUi8 o => o.enc 0x60 0x01
  | .ldI16 o => o.enc 0x60 0x02
  | .ldUi16 o => o.enc 0x60 0x03
  | .ldI32 o => o.enc 0x60 0x04
  | .ldUi32 o => o.enc 0x60 0x05
  | .ld64 o => o.enc 0x60 0x06
  | .st8 o => o.enc 0x61 0x00
  | .st16 o => o.enc 0x61 0x01
  | .st32 o => o.enc 0x61 0x02
  | .st64 o => o.enc 0x61 0x03
  | .pref o => o.enc
  | .ldAcq o => o.enc 0
  | .stRel o => o.enc 1
  | .amoAdd o => o.enc 0
  | .amoAnd o => o.enc 1
  | .amoOr o => o.enc 2
  | .amoXor o => o.enc 3
  | .amoMin o => o.enc 4
  | .amoMax o => o.enc 5
  | .amoMinu o => o.enc 6
  | .amoMaxu o => o.enc 7
  | .amoSwap o => o.enc 8
  | .amoCas o => o.enc 9
  | .amoFaddF32 o => o.enc
  | .fenceThr o => o.enc 0x70 0x00 0
  | .fenceGang o => o.enc 0x70 0x01 0
  | .fenceDev o => o.enc 0x70 0x02 0
  | .fenceXd o => o.enc 0x70 0x03 0
  | .barArrive o => o.enc 0x71 0x00
  | .barWait o => o.enc 0x71 0x01
  | .barSync o => o.enc 0x71 0x02
  | .barJoin o => o.enc 0x71 0x03
  | .barLeave o => o.enc 0x71 0x04
  | .barMissing o => o.enc
  | .tagWaitAny o => o.enc 0x72 0x00
  | .tagWaitAll o => o.enc 0x72 0x01
  | .tagWaitAnyXd o => o.enc 0x72 0x02
  | .tagWaitAllXd o => o.enc 0x72 0x03
  | .tagFirst o => o.enc 0x72 0x04
  | .tagTest o => o.enc 0x72 0x05
  | .tagClr o => o.enc 0x72 0x06 0
  | .cp o => o.enc 0x00
  | .cpDec o => o.enc
  | .cpFill o => o.enc 0x01
  | .cpFabRd o => o.enc 0x74 0x00
  | .cpFabWr o => o.enc 0x74 0x01
  | .cpFabRed o => o.enc
  | .cpFabSig o => o.enc 0x74 0x03
  | .cpSub o => o.enc 0x75 0x00
  | .cpSlot o => o.enc 0x75 0x01
  | .cpUnsub o => o.enc 0x75 0x02
  | .mxCtx o => o.enc
  | .mxCtxSt o => o.enc
  | .mxZero o => o.enc
  | .mxMm o => o.enc 0x80 0x03
  | .mxMms o => o.enc 0x80 0x04
  | .mxConv o => o.enc
  | .mxGmm o => o.enc 0x80 0x06
  | .mxLd o => o.enc 0x80 0x07
  | .mxSt o => o.enc 0x80 0x08
  | .mxPri o => o.enc
  | .snd o => o.enc 0x90 0x00
  | .sndp o => o.enc 0x90 0x01
  | .spawn o => o.enc
  | .link o => o.enc 0x91 0x01 0
  | .unlink o => o.enc 0x91 0x02 0
  | .mon o => o.enc 0x91 0x03 0
  | .demon o => o.enc 0x91 0x04 0
  | .exit o => o.enc 0x91 0x05 0
  | .kill o => o.enc 0x91 0x06 0
  | .exitmail o => o.enc
  | .retire o => o.enc 0x92 0x00 0
  | .txnAbort o => o.enc 0x93 0x00 0
  | .txnAbortDrop o => o.enc 0x93 0x00 1
  | .txnExcl o => o.enc 0x93 0x01 0
  | .rdsr o => o.enc 0xA0 0x00
  | .wrsr o => o.enc 0xA0 0x01
  | .trap o => o.enc 0xA1 0x00
  | .eret o => o.enc 0xA1 0x01 0
  | .eretRe o => o.enc 0xA1 0x01 1
  | .ebreak o => o.enc 0xA1 0x02 0
  | .park o => o.enc 0xA1 0x03
  | .icinv o => o.enc 0xA2 0x00 0
  | .icinvAll o => o.enc 0xA2 0x00 1
  | .tlbinv o => o.enc 0xA2 0x01 0
  | .tlbinvAll o => o.enc 0xA2 0x01 1
  | .nop o => o.enc
  | .hintSpaceWord o => o.word
  | .variableResultWrite .. => 0
  | .parkTimeout .. => 0
  | .issueGapExpiry .. => 0
  | .letterArrival .. => 0
  | .groupTimeout .. => 0
  | .place .. => 0
  | .gangSave .. => 0
  | .drainEnter .. => 0
  | .activationCommit .. => 0
  | .groupPrepare .. => 0
  | .groupCommitPoint .. => 0
  | .groupApply .. => 0
  | .groupWithdrawal .. => 0
  | .activationFail .. => 0
  | .budgetExpiry .. => 0
  | .killPoint .. => 0
  | .restartEvent .. => 0
  | .wholeRestartRebuild .. => 0
  | .remoteRebuildRequest .. => 0
  | .remoteCompletionReport .. => 0
  | .spawnReservationRequest .. => 0
  | .spawnReservationReply .. => 0
  | .reservationRelease .. => 0
  | .linkRequestArrival .. => 0
  | .courierCommandComplete .. => 0
  | .feederTile .. => 0
  | .mxDecision .. => 0
  | .mxCommandComplete .. => 0
  | .frankedCommandArrival .. => 0
  | .frankingEntryActivate .. => 0
  | .lwbell .. => 0
  | .serviceCoreLetter .. => 0
  | .apertureRead .. => 0
  | .apertureWrite .. => 0
  | .ntcons .. => 0
  | .cmncmdCreate .. => 0
  | .cmncmdDestroy .. => 0
  | .pdescSetUp .. => 0
  | .pdescTearDown .. => 0
  | .rprackRetry .. => 0
  | .rprackFail .. => 0
  | .pwrcap .. => 0
  | .powerAverageUpdate .. => 0
  | .dbgctlHalt .. => 0
  | .dbgctlResume .. => 0
  | .dbgctlStep .. => 0
  | .keyInstall .. => 0
  | .lostmaskClear .. => 0
  | .registerWrite .. => 0
  | .getVersion .. => 0
  | .getCapabilities .. => 0
  | .negotiateAlgorithms .. => 0
  | .getDigests .. => 0
  | .getCertificate .. => 0
  | .challenge .. => 0
  | .getMeasurements .. => 0
  | .keyExchange .. => 0
  | .finish .. => 0
  | .endSession .. => 0
  | .getTdispVersion .. => 0
  | .getTdispCapabilities .. => 0
  | .lockInterfaceRequest .. => 0
  | .getDeviceInterfaceReport .. => 0
  | .getDeviceInterfaceState .. => 0
  | .startInterfaceRequest .. => 0
  | .stopInterfaceRequest .. => 0
  | .ideIntegrityFailure .. => 0
  | .firmwareUpdate .. => 0
  | .reset .. => 0
  | .junctionTemperature .. => 0
  | .serviceCoreCheck .. => 0
  | .managementCoreCheck .. => 0
  | .flitArrival .. => 0
  | .meshPacketArrival .. => 0
  | .packetResendTimeout .. => 0
  | .refusedRequestRetry .. => 0
  | .reservationHoldExpiry .. => 0
  | .fabricOpportunity .. => 0
  | .fabricItemArrival .. => 0
  | .creditWordArrival .. => 0
  | .relaxedResendTimeout .. => 0
  | .fabricReadResponse .. => 0
  | .refusalResponseArrival .. => 0
  | .rotationEnd .. => 0
  | .uncorrectableError .. => 0
  | .scrubLine .. => 0
  | .exclusiveServiceStart .. => 0
  | .recordStallTimeout .. => 0
  | .linkGridWindow .. => 0
  | .fatalCondition .. => 0
  | .storeDrainDeadline .. => 0
  | .dumpWrite .. => 0
  | .dumpWriteTimeout .. => 0
  | .dlcons .. => 0
  | .die0ManagementCoreFailure .. => 0
  | .fabricCaptureComplete .. => 0

/-- The row of the opcode table that an event performs. -/
noncomputable def Event.toInstr (e : Event) : Instr :=
  match e with
  | .variableResultWrite ctx serial => .variableResultWrite ctx serial
  | .parkTimeout ctx => .parkTimeout ctx
  | .issueGapExpiry ctx => .issueGapExpiry ctx
  | .letterArrival p l host => .letterArrival p l host
  | .groupTimeout p gid => .groupTimeout p gid
  | .place cluster => .place cluster
  | .gangSave act => .gangSave act
  | .drainEnter cluster => .drainEnter cluster
  | .activationCommit act => .activationCommit act
  | .groupPrepare p gid => .groupPrepare p gid
  | .groupCommitPoint p gid => .groupCommitPoint p gid
  | .groupApply p gid => .groupApply p gid
  | .groupWithdrawal p gid target why => .groupWithdrawal p gid target why
  | .activationFail act => .activationFail act
  | .budgetExpiry act => .budgetExpiry act
  | .killPoint p target why => .killPoint p target why
  | .restartEvent p sup child reason bySup => .restartEvent p sup child reason bySup
  | .wholeRestartRebuild p sup => .wholeRestartRebuild p sup
  | .remoteRebuildRequest p src supervisor child img kill => .remoteRebuildRequest p src supervisor child img kill
  | .remoteCompletionReport p supervisor child result reason => .remoteCompletionReport p supervisor child result reason
  | .spawnReservationRequest p src serial img => .spawnReservationRequest p src serial img
  | .spawnReservationReply serial ok child => .spawnReservationReply serial ok child
  | .reservationRelease p child => .reservationRelease p child
  | .linkRequestArrival p src issuer target isLink => .linkRequestArrival p src issuer target isLink
  | .courierCommandComplete cluster serial => .courierCommandComplete cluster serial
  | .feederTile act member handle => .feederTile act member handle
  | .mxDecision cluster => .mxDecision cluster
  | .mxCommandComplete cluster => .mxCommandComplete cluster
  | .frankedCommandArrival cluster c => .frankedCommandArrival cluster c
  | .frankingEntryActivate cluster index => .frankingEntryActivate cluster index
  | .lwbell p v => .lwbell p v
  | .serviceCoreLetter p slot l die seq => .serviceCoreLetter p slot l die seq
  | .apertureRead p off len => .apertureRead p off len
  | .apertureWrite p off data => .apertureWrite p off data
  | .ntcons p v => .ntcons p v
  | .cmncmdCreate p id unordered => .cmncmdCreate p id unordered
  | .cmncmdDestroy p id => .cmncmdDestroy p id
  | .pdescSetUp p row0 nrows => .pdescSetUp p row0 nrows
  | .pdescTearDown p => .pdescTearDown p
  | .rprackRetry p serial => .rprackRetry p serial
  | .rprackFail p serial => .rprackFail p serial
  | .pwrcap cap => .pwrcap cap
  | .powerAverageUpdate watts => .powerAverageUpdate watts
  | .dbgctlHalt core => .dbgctlHalt core
  | .dbgctlResume core => .dbgctlResume core
  | .dbgctlStep core ctx => .dbgctlStep core ctx
  | .keyInstall p k key counter owner onIde => .keyInstall p k key counter owner onIde
  | .lostmaskClear bits => .lostmaskClear bits
  | .registerWrite space off v => .registerWrite space off v
  | .getVersion fn => .getVersion fn
  | .getCapabilities fn => .getCapabilities fn
  | .negotiateAlgorithms fn => .negotiateAlgorithms fn
  | .getDigests fn => .getDigests fn
  | .getCertificate fn => .getCertificate fn
  | .challenge fn nonce => .challenge fn nonce
  | .getMeasurements fn => .getMeasurements fn
  | .keyExchange fn => .keyExchange fn
  | .finish fin => .finish fin
  | .endSession fn => .endSession fn
  | .getTdispVersion p => .getTdispVersion p
  | .getTdispCapabilities p => .getTdispCapabilities p
  | .lockInterfaceRequest p => .lockInterfaceRequest p
  | .getDeviceInterfaceReport p => .getDeviceInterfaceReport p
  | .getDeviceInterfaceState p => .getDeviceInterfaceState p
  | .startInterfaceRequest p => .startInterfaceRequest p
  | .stopInterfaceRequest p => .stopInterfaceRequest p
  | .ideIntegrityFailure stream => .ideIntegrityFailure stream
  | .firmwareUpdate fw => .firmwareUpdate fw
  | .reset stage1 => .reset stage1
  | .junctionTemperature die celsius => .junctionTemperature die celsius
  | .serviceCoreCheck answered => .serviceCoreCheck answered
  | .managementCoreCheck answered => .managementCoreCheck answered
  | .flitArrival router upstream crcOk forwarding tail => .flitArrival router upstream crcOk forwarding tail
  | .meshPacketArrival src dst cls seq needsForward msg => .meshPacketArrival src dst cls seq needsForward msg
  | .packetResendTimeout src dst cls => .packetResendTimeout src dst cls
  | .refusedRequestRetry target requester => .refusedRequestRetry target requester
  | .reservationHoldExpiry target => .reservationHoldExpiry target
  | .fabricOpportunity port slot => .fabricOpportunity port slot
  | .fabricItemArrival src item crcOk => .fabricItemArrival src item crcOk
  | .creditWordArrival src credit ack relaxedBase relaxed lost => .creditWordArrival src credit ack relaxedBase relaxed lost
  | .relaxedResendTimeout dst seq => .relaxedResendTimeout dst seq
  | .fabricReadResponse src serial data denied cause => .fabricReadResponse src serial data denied cause
  | .refusalResponseArrival src seq relaxed cause lost => .refusalResponseArrival src seq relaxed cause lost
  | .rotationEnd rotation => .rotationEnd rotation
  | .uncorrectableError site => .uncorrectableError site
  | .scrubLine site found => .scrubLine site found
  | .exclusiveServiceStart die => .exclusiveServiceStart die
  | .recordStallTimeout p => .recordStallTimeout p
  | .linkGridWindow => .linkGridWindow 
  | .fatalCondition code p die pl wh => .fatalCondition code p die pl wh
  | .storeDrainDeadline p => .storeDrainDeadline p
  | .dumpWrite => .dumpWrite 
  | .dumpWriteTimeout sect => .dumpWriteTimeout sect
  | .dlcons p v => .dlcons p v
  | .die0ManagementCoreFailure => .die0ManagementCoreFailure 
  | .fabricCaptureComplete serial => .fabricCaptureComplete serial

end Sys2Proof
end

