-- ==== Sys2Proof/Machine/State.lean ====
section
/-! DEFINITION. The state of one GX4 as plain data, and its value after reset. -/

namespace Sys2Proof.Machine

/-- Why the machine stops with a fault. -/
inductive Fault where
  /-- Raised by `issue` (Machine/Ops.lean): exec of a core instruction while no context is issuing it (State.cur names
  no placed context). No fetch of step reaches it. Safe: the model stops where the hardware has no such case. -/
  | noIssuingContext
  deriving DecidableEq, Repr

/-- Why the machine refuses. -/
inductive Refusal where
  /-- Raised by an arm of Machine/Dispatch.lean whose instruction has no meaning in the model. Safe. -/
  | notModelled (mnemonic : String)
  deriving DecidableEq, Repr

/-- Memory: (address, byte) pairs, addresses strictly rising, no byte equal to what an unlisted address reads
as, which is 0 (log 1). -/
abbrev Mem := List Host.Cell

/-- The sixteen 32-bit lanes of a vector register (R7, R146). -/
abbrev Lanes := Vector Half32 16

/-! ## Thread contexts -/

/-- One register write of an instruction (R151, R152), and the updates of sr.fflags (R128). -/
inductive RegWrite where
  | x (r : BitVec 6) (v : Word)
  | v (r : BitVec 5) (l : Lanes)
  | m (r : BitVec 3) (b : BitVec 16)
  | p (r : BitVec 4) (b : Bool)
  /-- flags ORed into sr.fflags -/
  | orFlags (f : BitVec 7)
  /-- `wrsr` of sr.fflags, sr.epc, sr.enpc -/
  | fflags (f : BitVec 7)
  | epc (v : Word)
  | enpc (v : Word)
  deriving DecidableEq, Repr

/-- Fixed-latency writes that take effect at the end of cycle `due` (R151). -/
structure Flight where
  due : Nat
  ws : List RegWrite
  deriving DecidableEq, Repr

/-- What a variable-latency result comes from: the divide unit (R177), a `cp.sub`/`spawn` (R244, R249), an acquire, a
load, or the entry of `callx` (R187). -/
inductive VKind where
  | load
  | divide
  | state
  | spawn
  | callx (link : BitVec 6) (target : Word) (ret : Word)
  deriving DecidableEq, Repr

/-- A value read when the result is performed (R153): a system register (R254, R269), `tag.first` of a mask, `tag.test` of a
tag, `bar.missing` of a name (R233, R236). -/
inductive Probe where
  | sr (r : SysReg)
  | first (mask : Word)
  | test (t : Nat)
  | missing (n : Nat)
  deriving DecidableEq, Repr

/-- What a loaded value becomes in its register (R224, R217, R219): a scalar of w bits extended, a lane, a lane of elements of w bits
unpacked. -/
inductive Extend where
  | scalar (w : Nat) (signed : Bool)
  | word
  | unpack (w : Nat) (signed : Bool)
  deriving DecidableEq, Repr

/-- A part of a load that may still be performed later than it issued (R104; log 5): the lane it fills, none for a scalar; its units
(address, bytes); what its value becomes. -/
structure Reload where
  lane : Option Nat
  units : List (Nat × Nat)
  how : Extend
  deriving DecidableEq, Repr

/-- A result still outstanding (R153): its writes and flags take effect when its event is performed. `due` none: it waits for
another agent (a spawn reservation on another device, R249; the atomic of the same serial in the mesh, R229). `again`: the parts of a load that nothing
orders before a later moment. -/
structure VRes where
  serial : Nat
  due : Option Nat
  kind : VKind
  ws : List RegWrite
  /-- the scalar destination of a value read when the result is performed -/
  rd : Option (BitVec 6 × Probe) := none
  again : List Reload := []
  deriving DecidableEq, Repr

/-- The wait condition of a context in WAIT (R70, R74). -/
inductive WaitFor where
  | bar (n : BitVec 3) (phase : Nat)
  | tag (all xd : Bool) (mask : Word) (dest : BitVec 6)
  | park (left : Nat)
  deriving DecidableEq, Repr

/-- Why a context in RUN issues nothing: a repair of R377, a record that waits for room in its ring (R351), the entry read
of `callx` (R187), or both of these. -/
inductive Pause where
  | repair
  | record
  | callx
  | callxRecord
  deriving DecidableEq, Repr

/-- What a fence holds back (R231). -/
inductive FenceKind where
  | thr | gang | dev | xd
  deriving DecidableEq, Repr

/-- A byte before a write (R107): not written by it; written, and in committed state before it, so a reader that does not see the write
reads what is committed at the moment of its read; or written, and an earlier byte of the activation's own before it. -/
inductive Before where
  | untouched
  | committed
  | byte (b : Byte)
  deriving DecidableEq, Repr

/-- A value written by a release at an address of an activation, with the release's number (R105). -/
structure Release where
  act : Nat
  va : Nat
  size : Nat
  tok : Nat
  deriving DecidableEq, Repr

/-- A write that other agents of its activation may not see yet (R104, R117, R118; log 5): the bytes before it; member and
tag of the command for an engine's write; the agents that performed, saw or acquired it (Agent.viewer); the releases it stands before;
whether `fence.xd` made it visible to the engine domain; the releases whose values it replaced, which a reader that does not see it still
reads (R105 a). A write of a matrix command of tag t stands under 128 + t, one of an untagged command under 192. -/
structure Stale where
  act : Nat
  va : Nat
  old : List Before
  engine : Option (Nat × Nat)
  seen : List Nat
  toks : List Nat := []
  pub : Bool := false
  rels : List Release := []
  deriving DecidableEq, Repr

/-- A thread context that holds a member (R70, R74). A FREE context has no entry in State.ctxs. -/
structure Ctx where
  act : Nat
  member : Nat
  /-- the first cycle in which the context may issue (R68) -/
  start : Nat := 0
  x : Vector Word 64 := Vector.replicate 64 0
  v : Vector Lanes 32 := Vector.replicate 32 (Vector.replicate 16 0)
  m : Vector (BitVec 16) 8 := Vector.replicate 8 0
  /-- p1–p15 in bits 1 to 15; bit 0 is not read -/
  p : BitVec 16 := 0
  /-- full bits of x0–x63 and of v0–v31 (R153) -/
  fullX : BitVec 64 := BitVec.allOnes 64
  fullV : BitVec 32 := BitVec.allOnes 32
  pc : Word := 0
  /-- the continuation when the PC stands in a delay slot (R74, R154) -/
  slot : Option Word := none
  wait : Option WaitFor := none
  pause : Option Pause := none
  /-- gap count left (R77), and the first cycle after its microcoded sequence (R220) -/
  gap : Nat := 0
  busy : Nat := 0
  pend : List Flight := []
  vres : List VRes := []
  /-- serials whose performance an acquire (R226) or a fence (R231) awaits -/
  acqHold : List Nat := []
  fenceHold : List Nat := []
  cycleHold : List Nat := []
  /-- releases whose values plain loads have read, and the release number of the last gang or device fence (R115) -/
  heard : List Nat := []
  fenceTok : Option Nat := none
  fflags : BitVec 7 := 0
  epc : Word := 0
  enpc : Word := 0
  cause : Word := 0
  badaddr : Word := 0
  vlane : Nat := 0
  /-- denials of the lanes performed before an interruption: lane mask, lowest address and its label (R94, R216) -/
  denials : Option (Nat × Nat × BitVec 16) := none
  ustep : BitVec 16 := 0
  mxstep : BitVec 16 := 0
  tcm : Mem := []
  /-- critical-path sampling (R324): cycles waited on a register or tag, pending entries -/
  sampleWait : Nat := 0
  samples : List (BitVec 256) := []
  deriving DecidableEq, Repr

/-! ## Cores and clusters -/

/-- A core: issue selector (R77), debug module (R317, R319, R322), counters (R321), TCM save tail (R81). -/
structure Core where
  cur : Nat := 0
  chosen : Option Nat := none
  /-- wait count and switch-away mark of each context (R77) -/
  waits : List Nat := List.replicate 8 0
  marks : BitVec 8 := 0
  dbgctl : Word := 0
  bp : List Word := [0, 0, 0, 0]
  bpctx : Word := 0
  pmctl : Word := 0
  pmc : List (BitVec 48) := [0, 0, 0, 0]
  issued : Nat := 0
  /-- some context was eligible in this cycle (R321) -/
  able : Bool := false
  /-- contexts whose instruction in progress a store watch has matched (R319); the context a stop is due to (R320); the stepped instruction has
  issued and its sequence still runs (R317, R318) -/
  watched : List Nat := []
  stopCtx : Option Nat := none
  stepped : Bool := false
  /-- the context, and its activation, that stopped at a breakpoint and may pass it once it goes on (R319) -/
  passed : Option (Nat × Nat) := none
  /-- saved context records not yet streamed out (R75): context number in the core to (activation, member) -/
  tail : Tbl (Nat × Nat) := []
  deriving DecidableEq, Repr

/-- A leaf of the page table as the TLB holds it (R90, R91): page bytes, physical base, attributes, owner, label. -/
structure Leaf where
  size : Nat
  addr : Nat
  (atomic cow x w r cmn : Bool)
  owner : BitVec 16
  label : BitVec 16
  /-- physical address of the entry itself -/
  entry : Nat
  deriving DecidableEq, Repr

/-- Owner tags of the lines lo to hi (exclusive), by line number (R85, R88). -/
structure TagRange where
  lo : Nat
  hi : Nat
  owner : BitVec 16
  deriving DecidableEq, Repr

/-- A TLB entry: page base and leaf (R91). -/
structure TlbEntry where
  va : Nat
  leaf : Leaf
  deriving DecidableEq, Repr

/-- An entry of the placement queue (R67): a candidate letter of an actor slot, or a saved activation, with the cycle it
entered and the mailbox place of the letter. -/
inductive QEntry where
  | candidate (p slot place : Nat) (since : Nat)
  | saved (act : Nat) (since : Nat)
  deriving DecidableEq, Repr

/-- A barrier object (R232, R233): membership and arrival of each member, phase number, pending phase of each member; release
numbers of the phases, and of the last phase that completed for each member (R116). -/
structure Barrier where
  members : BitVec 16 := 0
  arrived : BitVec 16 := 0
  phase : Nat := 0
  pending : Tbl Nat := []
  toks : Tbl Nat := []
  last : Tbl Nat := []
  deriving DecidableEq, Repr

/-- What a cluster-courier command does (R237); a decryption holds the key entry as accepted (R296). -/
inductive CpOpKind where
  | copy
  | fill
  | dec (k : BitVec 8) (key : BitVec 256) (nonce : BitVec 96)
  deriving DecidableEq, Repr

/-- Denied lines of an engine command: their numbers, the first denied address and its label (R94, R379). -/
structure DeniedLines where
  lines : List Nat
  addr : Nat
  label : BitVec 16
  deriving DecidableEq, Repr

/-- A command held by an engine on behalf of an activation: courier copies (R237), fabric commands (R240). `ctx` is sr.ctx at
issue, `start` the unit its order begins with, `got` the source pieces read and `put` the pieces written so far (R238, R374). -/
structure Cmd where
  serial : Nat
  act : Nat
  member : Nat
  ctx : Nat
  cluster : Nat
  tag : Nat
  fn : BitVec 16
  kind : CpOpKind := .copy
  dst : Word
  src : Word
  len : Nat
  start : Option Nat := none
  got : List Nat := []
  put : Nat := 0
  promoted : Bool := false
  denied : Option DeniedLines := none
  /-- the cause and address of the unit that failed, while what was read before it is still being written (R238, R400) -/
  failed : Option (Nat × Nat) := none
  /-- failed, its record made: only the tag is still to be set (R351, R356) -/
  reported : Bool := false
  deriving DecidableEq, Repr

/-- A format context of a matrix unit (R258, R261, R263, R266, R268). -/
structure Fctx where
  rcd : FmtRec := ⟨0, 0, 0⟩
  mxstat : Word := 0
  pri : Nat := 1
  /-- the thread context holding it, as (activation, member) -/
  holder : Option (Nat × Nat) := none
  queue : List MxCmd := []
  /-- wait w of the head, and the next k-step of an overtaken head (R268, R269) -/
  w : Nat := 0
  step : Nat := 0
  /-- scales or row counts the head read before its first k-step (R276, R278) -/
  pre : List Byte := []
  franked : Bool := false
  deriving DecidableEq, Repr

/-- The command the matrix unit runs: format context, running priority, next k-step, cycle of the next decision point
(R268). -/
structure MxRun where
  fctx : Nat
  prun : Nat
  step : Nat
  due : Nat
  /-- scratchpad words its step has still to be granted (R83) -/
  words : List Nat := []
  /-- the cause it failed with before its first write (R285) -/
  failed : Option Nat := none
  deriving DecidableEq, Repr

/-- A scratchpad bank (R83): the clock after the last cycle it served in, whom it served (cores 0 to 15, matrix unit 16, courier 17, feeder
port 18) and at which row; requesters refused, with the cycles of their refusals. -/
structure Bank where
  busy : Nat := 0
  last : Nat := 18
  row : Nat := 0
  refused : List (Nat × Nat) := []
  deriving DecidableEq, Repr

/-- A cluster. -/
structure Cluster where
  queue : List QEntry := []
  /-- the entry drain mode holds for (R71) -/
  drain : Option QEntry := none
  courier : List Cmd := []
  fctxs : Tbl Fctx := []
  /-- tile elements: 4096 × tile + 64 × row + column (R257); an unlisted element is 0 -/
  tiles : Tbl Half32 := []
  /-- poisoned scratchpad lines of parcelled tiles, by number (R383) -/
  poison : List Nat := []
  mxrun : Option MxRun := none
  /-- franking table, 128 bits an entry (R281) -/
  frank : Tbl (BitVec 128) := []
  tlb : List TlbEntry := []
  /-- fetched and cached lines (R145): virtual line address, bytes -/
  icache : Tbl (List Byte) := []
  /-- scratchpad owner tags by line (R85, R88); 0xFFFF for a line nothing has written (log 7) -/
  tags : List TagRange := []
  /-- scratchpad banks (R83), and the bank requests of this cycle's cores -/
  banks : Tbl Bank := []
  asks : List (Nat × Nat) := []
  deriving DecidableEq, Repr

/-- An access unit of an engine. -/
structure Piece where
  va : Nat
  n : Nat
  deriving DecidableEq, Repr

/-! ## Activations and actors -/

/-- A feeder subscription (R97, R98): record fields and progress. -/
structure Sub where
  base : Word
  esize : Nat
  store : Bool
  rank : Nat
  shape : List Nat
  stride : List Int
  tile : List Nat
  ring : Nat
  tagbase : Nat
  nslots : Nat
  /-- the stack of `base`, whose feeder serves the stream (R97) -/
  stack : Option Nat := none
  /-- next tile to move -/
  next : Nat := 0
  ctx : Nat
  /-- tag of a `cp.unsub` in progress, or 64 for an end by `retire` (R109, R244) -/
  ending : Option Nat := none
  failed : Bool := false
  /-- a unit waits for the answer of its repair (R374) -/
  asked : Bool := false
  /-- units of the tile in hand that have been read, and how many have been written, while it waits for a bank or a line (R83, R110) -/
  got : List (Piece × Nat) := []
  put : Nat := 0
  /-- denied lines of a tile that waits (R94, R374) -/
  denied : Option DeniedLines := none
  /-- the record of the failed tile has been made; its tag is still to be set (R351, R356) -/
  reported : Option Nat := none
  deriving DecidableEq, Repr

/-- The format-context image of a member: where it stands in the row save area (R75, R259), else its contents, set aside before the image of
another member took its place (log 90). -/
structure SavedImage where
  place : Option Nat
  fctx : Fctx := {}
  tiles : Tbl Half32 := []
  deriving DecidableEq, Repr

/-- The context record of a saved member (R74), with its TCM slice (R82) and format-context image (R75, R259). -/
structure Saved where
  ctx : Ctx
  /-- where the record lies: its TCM save-tail slot, or its address in the row save area and that of its TCM slice (R75, R82); else it was set
  aside (log 90) -/
  inTail : Option Nat
  row : Option (Nat × Nat) := none
  fctx : Option SavedImage := none
  /-- what it waits for happened while it was saved -/
  woke : Bool := false
  /-- the context it was saved from -/
  home : Nat
  deriving DecidableEq, Repr

/-- One member of an activation: its context, or its saved record; tag file entry (R73, R234, R235); subscriptions. -/
structure Member where
  ctx : Option Nat
  saved : Option Saved := none
  retired : Bool := false
  tags : BitVec 64 := 0
  tagerr : BitVec 64 := 0
  held : BitVec 64 := 0
  subs : Tbl Sub := []
  /-- pending format-context image of a restored member (R259) -/
  image : Option SavedImage := none
  /-- stopped for a save, waiting for its outstanding results (R73) -/
  saving : Bool := false
  /-- pending entries of a member that has retired (R324) -/
  samples : List (BitVec 256) := []
  deriving DecidableEq, Repr

/-- A line entry of the scaffold (R106): bytes written by offset, physical line, leaf at creation. -/
structure LineEntry where
  bytes : Tbl Byte
  pa : Nat
  leaf : Leaf
  deriving DecidableEq, Repr

/-- The owner change of a parcelled global tile in the scaffold (R36, R106): the tile, its destination, and the leaves its pages had when it
entered, by virtual address. -/
structure OwnerChange where
  tile : Parcel
  dest : Word
  leaves : List (Nat × Leaf)
  deriving DecidableEq, Repr

/-- A scaffold page (R106): frame drawn from the pool, leaf in force at the copy. -/
structure ScaffPage where
  frame : Nat
  leaf : Leaf
  written : Tbl Byte
  deriving DecidableEq, Repr

/-- An entry of the outbox (R246, R248, R242, R256). -/
inductive OutEntry where
  | letter (l : Letter) (stamp : Bool)
  | spawn (child : Word) (img : Nat) (sup : Option RestartMode) (void : Bool) (serial : Nat)
  | link (target : Word)
  | unlink (target : Word)
  | mon (target : Word)
  | demon (target : Word)
  | exit (reason : BitVec 8)
  | kill (target : Word)
  | exitmail (v : Bool)
  | icinv (a : Word) (all : Bool)
  | tlbinv (a : Word) (all : Bool)
  /-- captured fabric work; none until the capture is complete -/
  | posted (device : Nat) (rlx : Bool) (fn : BitVec 8) (serial : Nat) (w : Option FabWork)
  deriving DecidableEq, Repr

/-- A failure recorded at the first trap of an activation (R348, R357). -/
structure Failure where
  cause : BitVec 8
  info : BitVec 16
  ctx : BitVec 16
  flags : BitVec 8
  epc : Word
  enpc : Word
  badaddr : Word
  progress : Word
  deriving DecidableEq, Repr

/-- Whether the activation runs, waits for its turn after a failure, is being saved, is ready or locked (R65, R114, R348). -/
inductive Phase where
  | running
  /-- a failed activation waiting for its turn; `recorded` once its kind-1 record has been made -/
  | failed (f : Failure) (recorded : Bool)
  | locked
  deriving DecidableEq, Repr

/-- An activation in flight (R37 to R42, R100 to R112). -/
structure Act where
  p : Nat
  slot : Nat
  self : Word
  letter : Letter
  img : Image
  cluster : Nat
  areaBase : Nat
  areaSize : Nat
  members : List Member
  /-- the eight barrier objects, by name -/
  bars : Tbl Barrier := []
  /-- place in the actor's activation order (R29, R44) -/
  order : Nat
  place : Nat
  phase : Phase := .running
  /-- lines of its scaffold found uncorrectable after the fatal point (R406, R415) -/
  bad : List Nat := []
  /-- the postmark clock at the commit point: the stamp of letter 0 of the outbox (R26, R110) -/
  base : Nat := 0
  /-- the cycle in which the keystone takes up a ready activation (R109; log 4) -/
  commitAt : Option Nat := none
  /-- clearance set and sr.clearance (R92, R93) -/
  labels : List (BitVec 16) := []
  clearance : Word := 0
  lines : Tbl LineEntry := []
  pages : Tbl ScaffPage := []
  owners : List OwnerChange := []
  rsig : BitVec 1024 := 0
  wsig : BitVec 1024 := 0
  outbox : List OutEntry := []
  /-- tiles given away by `sndp` in this run (R36) and owned by parcel -/
  gave : List Parcel := []
  owns : List Parcel := []
  exclusive : Bool := false
  /-- its commit has aborted no other activation of its actor, so that it counts (R66) -/
  clean : Bool := true
  /-- earliest kind-4 record of the activation (R357): cause, ctx, address -/
  firstErr : Option (BitVec 8 × BitVec 16 × Word) := none
  /-- budget count in µs, cycle of first placement, cycle of the last placement or restore (R360, R72) -/
  count : Nat := 0
  placedAt : Nat
  ranSince : Nat
  /-- the contexts its members have been placed on (R320, R321) -/
  ranOn : List Nat := []
  /-- critical-path token (R324) -/
  token : Bool := false
  holder : Option Nat := none
  deriving DecidableEq, Repr

/-- State of a letter in a mailbox (R65); DONE is an ACTIVE letter whose members have all retired. -/
inductive LetterState where
  | held
  | candidate
  | active (act : Nat)
  deriving DecidableEq, Repr

/-- A letter in a mailbox: its place number, state, whether it uses the reserve (R30), exclusive mark (R389), count of
successive uncorrectable aborts (R382), its token and the cycle it joined (R324). -/
structure Held where
  place : Nat
  letter : Letter
  state : LetterState := .held
  reserve : Bool := false
  exclusive : Bool := false
  eccAborts : Nat := 0
  token : Bool := false
  arrived : Nat := 0
  /-- place in the activation order of the aborted activation a requeued letter had: it is released again before every letter of no lower
  key (R44, R63) -/
  requeued : Option Nat := none
  owns : List Parcel := []
  deriving DecidableEq, Repr

/-- A sender refused by a mailbox (R31): postcode, seq of the most recent refused host submission (R290). -/
structure Refused where
  sender : Word
  seq : Nat
  deriving DecidableEq, Repr

/-- What an exit says besides who (R364). -/
structure ExitRec where
  reason : Nat
  cause : Nat := 0
  info : Nat := 0
  pc : Word := 0
  badaddr : Word := 0
  postmark : Word := 0
  origin : Word := 0
  deriving DecidableEq, Repr

/-- An exit in progress (R62, R370): its activations are gone and its children killed, whose exits it awaits; whether its own supervisor
killed it (R367); the mailbox places of letters of groups that its exit abandoned (R362). -/
structure Leaving where
  exit : ExitRec
  bySup : Bool
  abandoned : List Nat
  deriving DecidableEq, Repr

/-- One child-list entry (R58, R59, R61). -/
structure Child where
  code : Word
  img : Nat
  mode : RestartMode
  /-- killed by an event or escalation in progress, not yet exited (R369) -/
  killing : Bool := false
  /-- exited and not yet rebuilt; its rebuild asked of another device; the time of its event (R61, R368) -/
  dead : Bool := false
  asked : Bool := false
  event : Nat := 0
  deriving DecidableEq, Repr

/-- A whole restart in progress (R369, R371): the event's time, and whether a child has been rebuilt. -/
structure WholeEvent where
  time : Nat
  rebuilt : Bool := false
  deriving DecidableEq, Repr

/-- An actor (R20 to R62). -/
structure Actor where
  code : Word
  img : Image
  imgIndex : Nat := 0
  cluster : Nat
  box : List Held := []
  pending : List Letter := []
  refused : List Refused := []
  nextPlace : Nat := 0
  nextOrder : Nat := 0
  links : List Word := []
  monitors : List Word := []
  /-- notes of outgoing monitors on other devices (R54) -/
  watches : List Word := []
  exitMail : Bool
  depth : Nat := 4
  commits : Nat := 0
  children : List Child := []
  history : List Nat := []
  whole : Option WholeEvent := none
  /-- it escalates, once the record of that has entered its ring (R351, R370); its exit in progress -/
  escalated : Bool := false
  leaving : Option Leaving := none
  supervisor : Option Word := none
  /-- a child of a supervisor on another device whose slot stays kept for its rebuild when it exits (R61; log 80) -/
  kept : Bool := false
  frames : List Nat := []
  /-- global tiles in DRAM received by parcel (R36, R62) -/
  tiles : List Parcel := []
  /-- token and cycle of the actor's last commit (R324) -/
  lastToken : Bool := false
  lastCommit : Nat := 0
  deriving DecidableEq, Repr

/-! ## Partitions -/

/-- A letter that has joined an open launch group: actor slot, place, member number (R49). -/
structure GroupLetter where
  slot : Nat
  place : Nat
  member : Nat
  deriving DecidableEq, Repr

/-- An open launch group (R49, R114). -/
structure Group where
  gsize : Nat
  sender : Word
  postmark : Word
  opened : Nat
  joined : List GroupLetter := []
  /-- dies whose keystone has reported locked; the commit point entered; a withdrawal entered (R114, R361) -/
  locked : Bool := false
  committed : Bool := false
  withdrawn : Bool := false
  deriving DecidableEq, Repr

/-- A repair waiting for its answer (R376, R377): who waits. -/
inductive Waiter where
  | context (c : Nat)
  | courier (cluster serial : Nat)
  | feeder (act member handle : Nat)
  | fabric (serial : Nat)
  deriving DecidableEq, Repr

/-- A repair outstanding, with the cause and address of its record. -/
structure Repair where
  who : Waiter
  act : Nat
  cause : BitVec 8
  va : Word
  deriving DecidableEq, Repr

/-- A record that found the dead-letter ring full (R351): when, the context that waits on it, the events held back by it; the repair that a
kind-16 record requests. -/
structure StalledRecord where
  bits : BitVec 512
  since : Nat
  ctx : Option Nat := none
  cont : List Event := []
  repair : Option Repair := none
  deriving DecidableEq, Repr

/-- A staging slot of the letter window after its doorbell (R288). -/
structure WinSlot where
  image : List Byte := []
  stat : Word := 0
  deriving DecidableEq, Repr

/-- TDISP states (R294). -/
inductive Tdisp where
  | unlocked | configLocked | run | error
  deriving DecidableEq, Repr

/-- Life of a partition (R331, R408). -/
inductive PState where
  | free | settingUp | ready | tearingDown
  deriving DecidableEq, Repr

/-- A key-table entry (R295): the key installed, and the key dwords as last written. -/
structure Key where
  key : BitVec 256 := 0
  wkey : BitVec 256 := 0
  counter : BitVec 96 := 0
  owner : BitVec 16 := 0
  exhausted : Bool := false
  valid : Bool := false
  deriving DecidableEq, Repr

/-- A partition: descriptor, control block, tables. `ctl` is the control block's plain words by offset (R332). -/
structure Part where
  state : PState := .free
  row0 : Nat := 0
  nrows : Nat := 0
  /-- the cycle of its set-up -/
  setAt : Nat := 0
  err : Bool := false
  pool : Nat := 0
  share : Nat := 0
  /-- GiB units of DRAM of the share, and the first of the twelve-stack frames they take (log 15) -/
  units : List Nat := []
  /-- scaffold page pool (R106): frames of the initial pool drawn from each stack, and frames that have come back -/
  poolTaken : Tbl Nat := []
  poolBack : List Nat := []
  ctl : Tbl Word := []
  /-- quanta written: the cycle from which each is in force, and its cycles, latest first (R64) -/
  quanta : List (Nat × Nat) := []
  tdisp : Tdisp := .unlocked
  actors : Tbl Actor := []
  /-- last incarnation of each slot (R22) and reservations not yet committed: slot to (postcode, image) (R52) -/
  last : Tbl (BitVec 24) := []
  reserved : Tbl (Word × Nat) := []
  /-- slots kept for the rebuild of an exited child of a supervisor on another device: slot to (child, supervisor) (R61; log 80) -/
  kept : Tbl (Word × Word) := []
  /-- frames of the range rgnpool that a commit's flip gave to the scaffold page pool, and frames outside it that exits returned to the
  region pool (R106, R110, R424) -/
  rgnOut : List Nat := []
  rgnIn : List Nat := []
  /-- home cluster of the last actor of each slot (R61) -/
  homes : Tbl Nat := []
  images : Tbl Image := []
  /-- commons: unordered or not (R46) -/
  commons : Tbl Bool := []
  groups : Tbl Group := []
  /-- groups past their commit point, closed and not yet applied (R49, R114) -/
  closing : Tbl Group := []
  stalled : List StalledRecord := []
  repairs : Tbl Repair := []
  win : Tbl WinSlot := []
  bells : Nat := 0
  /-- notices owed while the ring is full (R290), and the mask bits of MSI-X vectors 0 and 1 (log 28) -/
  owed : List (Word × Nat) := []
  msixMask : BitVec 2 := 3
  keys : Tbl Key := []
  /-- letters held because sysentry is 0 are in the mailbox; measurement 6 fixed at the lock (R294) -/
  measure6 : Option (List Byte) := none
  /-- fatal code and clock (R405, R406), commit log of the last 4,096 commit points (R414) -/
  fatal : Option (BitVec 8 × Nat) := none
  log : List (BitVec 512) := []
  lastRecords : List (BitVec 512) := []
  deriving DecidableEq, Repr

/-- A letter of a committed outbox that waits at the sender's cluster: its scratchpad tile for room at the destination, or a letter that
must not overtake one (R36; log 23); with the entry of its commit in the keystone's log, which has departed whole once none waits. -/
structure Moving where
  entry : BitVec 512
  cluster : Nat
  letter : Letter
  token : Bool
  tile : Bool
  deriving DecidableEq, Repr

/-! ## Fabric, mesh, management -/

/-- What a fabric command does (R240, R241). -/
inductive FabOpKind where
  | rd
  | wr
  | red (op : BitVec 3)
  deriving DecidableEq, Repr

/-- A command of the die's fabric couriers (R240, R242): for a read, the data once it has come. -/
structure FabCmd where
  cmd : Cmd
  die : Nat
  op : FabOpKind
  device : Nat
  rlx : Bool
  data : Option (List Byte) := none
  deriving DecidableEq, Repr

/-- An item of a fabric queue with its acknowledgement state (R299, R394). -/
structure Queued where
  item : FabItem
  size : Nat
  fn : BitVec 8
  /-- number of the posted command it is a part of, or 0 -/
  cmd : Nat := 0
  /-- slot in which it was last sent whole, and whether it is sent again -/
  sentAt : Option Nat := none
  again : Bool := false
  deriving DecidableEq, Repr

/-- What this device keeps for another device of the pod (R299 to R302, R394, R396). -/
structure Peer where
  ordered : List Queued := []
  relaxed : List Queued := []
  nextOrdered : Nat := 0
  nextRelaxed : Nat := 0
  expectOrdered : Nat := 0
  gotRelaxed : List (BitVec 32) := []
  /-- ordered items received and not yet performed whole; pieces received of ordered items that are not yet complete, by sequence (R300, R339);
  relaxed items received and not yet performed whole -/
  early : List FabItem := []
  partials : List (BitVec 32 × List FabItem) := []
  waiting : List FabItem := []
  /-- items held in the relay pool for this destination -/
  relay : List FabItem := []
  /-- items acknowledged by the peer, whose refusal may still come (R400) -/
  sent : List Queued := []
  /-- relay credit this peer has granted us, and credit we have granted it that is in use -/
  credit : Nat := 0
  used : Nat := 0
  missed : Nat := 0
  heard : Bool := false
  deriving DecidableEq, Repr

/-- A spawn reservation outstanding on another device (R249): issuer, its destination and where its `spawn` stands. -/
structure RemoteSpawn where
  serial : Nat
  device : Nat
  ctx : Nat
  act : Nat
  member : Nat
  img : Nat
  dest : BitVec 6
  epc : Word
  enpc : Word
  slot : Bool
  deriving DecidableEq, Repr

/-- The slot a port is in (R298, R340, R395): its number, the peer, the bytes sent, whether a valid frame has come; the time at which the last
byte given to the lanes has left, in twelfths of a byte time since the data time began, the frames still leaving, each with its own, and the whole
relaxed items given to the lanes, which have not moved if the opportunity is silent. -/
structure PortSlot where
  number : Nat
  peer : Nat
  used : Nat
  heard : Bool
  cursor : Nat := 0
  out : List (Nat × FabItem) := []
  given : List FabItem := []
  deriving DecidableEq, Repr

/-- What die 0's service core forwards to the service core of a die (R120, R288, R291): a host letter, or a line of a memory request. -/
inductive SvcWork where
  | letter (p slot seq : Nat) (l : Letter)
  | line (req : Nat)
  deriving DecidableEq, Repr

/-- Work held by a service core, and the cycle in which it arrives there. -/
structure SvcItem where
  due : Nat
  work : SvcWork
  deriving DecidableEq, Repr

/-- A line of a memory request: the die whose service core handles it, its virtual address and its bytes. -/
structure SvcLine where
  die : Nat
  va : Nat
  n : Nat
  deriving DecidableEq, Repr

/-- A host memory request in progress (R289): its lines still to perform; the data of a write not yet written; the bytes read. -/
structure HostReq where
  serial : Nat
  p : Nat
  off : Nat
  lines : List SvcLine
  write : Option (List Byte) := none
  got : List Byte := []
  deriving DecidableEq, Repr

/-- A packet known to wait in its source's replay store (R392). -/
structure Packet where
  seq : BitVec 12
  needsForward : Bool
  msg : MeshMsg
  sentAt : Nat
  resends : Nat
  deriving DecidableEq, Repr

/-- A pair of mesh interfaces and a class (R392): the sequence the destination expects, the packets not acknowledged. -/
structure MeshPair where
  src : Nat
  dst : Nat
  cls : Nat
  expect : BitVec 12 := 0
  replay : List Packet := []
  deriving DecidableEq, Repr

/-- A refused request (R393): its requester, its count of refusals, when it was first refused, whether it stands in the target's
reservation queue, what it asks, and when it comes again. -/
structure Refusing where
  requester : Nat
  count : Nat
  first : Nat
  queued : Bool
  msg : MeshMsg
  retryAt : Nat := 0
  deriving DecidableEq, Repr

/-- A target that has refused requests (R393). -/
structure Forward where
  target : Nat
  waiting : List Refusing := []
  /-- the cycle until which a freed entry is held for the head of the queue -/
  heldUntil : Option Nat := none
  deriving DecidableEq, Repr

/-- A section of a dump: type, priority, records (R414). -/
structure DumpSect where
  type : Nat
  prio : Nat
  records : List (List Byte)
  deriving DecidableEq, Repr

/-- A dump being written (R410 to R417): scope (none for the device), registers read at the fatal point, section reached. -/
structure Dump where
  part : Option Nat
  base : Nat
  size : Nat
  ranges : List (Nat × Nat)
  code : BitVec 8
  time : Nat
  secondary : List (BitVec 512) := []
  /-- poisoned lines among the memory dumped, which the summary lists (R415) -/
  poisoned : List Nat := []
  place : Word := 0
  array : BitVec 4 := 0
  die : Nat := 0
  lastCommit : Nat := 0
  /-- the stores of R407 have drained and the contents are collected; next thing to write; bad sections; lines drained after the
  fatal point -/
  ready : Bool := false
  body : List DumpSect := []
  sect : Nat := 0
  bad : List Nat := []
  drained : List Nat := []
  endTime : Nat := 0
  deriving DecidableEq, Repr

/-- A store buffered at a fatal point and lost or drained (R407, R415). -/
structure LostStore where
  va : Word
  size : Nat
  data : Word
  actor : Word
  postmark : Word
  ctx : Nat
  reason : Nat
  deriving DecidableEq, Repr

/-- What the device sends out of itself (R121, R290, R293, R294, R300, R401, R410). -/
inductive Output where
  /-- a write to host memory on behalf of a partition, or of the device -/
  | hostWrite (part : Option Nat) (addr : Nat) (data : List Byte)
  | msi (p vector : Nat)
  | readCompletion (p : Nat) (data : List Byte) (poisoned : Bool)
  /-- Unsupported Request by a function, with AER or not -/
  | unsupported (fn : Nat) (aer : Bool)
  | frame (port dst : Nat) (item : FabItem)
  | credit (port dst : Nat) (credit : Nat) (ack : BitVec 32) (base : BitVec 32) (relaxed : BitVec 64) (lost : BitVec 512)
  | spdm (fn : Nat) (code : Nat) (data : List Byte)
  | tdisp (p : Nat) (code : Nat) (data : List Byte)
  | replay (router flit : Nat)
  | stomp (router : Nat)
  | meshAck (src dst cls : Nat) (seq : BitVec 12)
  | refusal (target requester : Nat)
  deriving DecidableEq, Repr

/-- An atomic on its way to its home slice (R119). -/
structure InTransit where
  /-- the serials of the requests merged in it, and the activations and members that issued them -/
  serials : List Nat
  op : AmoOp
  size : Nat
  pa : Nat
  v : Word
  /-- the expected value of `cas` (R227) -/
  e : Nat := 0
  issuers : List (Nat × Nat)
  /-- releases it stands before (R105 b); releases that write their value when it is applied, and members that then acquire: activation,
  member, address (R115) -/
  toks : List Nat := []
  rels : List Release := []
  acqs : List (Nat × Nat × Nat) := []
  /-- who receives the value before its update, in a result of its serial: activation, member, address; it never merges -/
  reader : Option (Nat × Nat × Nat) := none
  due : Nat
  deriving DecidableEq, Repr

/-- SPDM responder state of a function (R293). -/
structure Spdm where
  version : Bool := false
  caps : Bool := false
  algs : Bool := false
  session : Bool := false
  finished : Bool := false
  deriving DecidableEq, Repr

/-- A letter an agent of the device owes, to be stamped at the agent's turn: the SPACE letters of a sorting frame, the NOCONNECT letters of a
receiver's keystone (R26, R31, R398). -/
structure Owed where
  turn : Nat
  dest : Word
  sender : Word
  kind : BitVec 8
  body : BitVec 1664
  /-- what is due when the letter has arrived (R367) -/
  after : Option Event
  deriving DecidableEq, Repr

/-- The state of one device. -/
structure State where
  /-- cycles since reset; the device postmark clock (R26), which is also sr.cycle, stands `skew` ahead of it by the stamps taken;
  `stamps` counts the values taken in this cycle, `turn` is the turn of the last agent that took one -/
  clock : Nat
  skew : Nat
  stamps : Nat
  turn : Nat
  owed : List Owed
  /-- the model's own: counter of free values (log 4), next serial of commands, results and activations -/
  free : Nat
  serial : Nat
  /-- the model's own: events due and inputs from outside; events due at a later cycle; cores still to select in this cycle; the context that issues -/
  agenda : List Event
  /-- letters on their way in the device that carry the critical-path token (R324) -/
  carry : List Letter
  moving : List Moving
  timers : List (Nat × Event)
  todo : List Nat
  cur : Option Nat
  ctxs : Tbl Ctx
  cores : Tbl Core
  clusters : Tbl Cluster
  /-- cluster scratchpads: byte key 4,194,304 × cluster + offset (R79, R83) -/
  scratch : Mem
  /-- shared SRAM and DRAM by physical address (R86) -/
  dram : Mem
  /-- owner tags of shared SRAM lines, by line number (R88); an unlisted line is owned by 0xFFFF (log 7) -/
  sramTags : List TagRange
  /-- poisoned lines, by physical line number (R383) -/
  poison : List Nat
  /-- writes some agents may not see yet, newest first, and the releases in force (R104, R105, R117, R118) -/
  stale : List Stale
  releases : List Release
  acts : Tbl Act
  parts : Tbl Part
  /-- atomics in the mesh (R119) -/
  transit : List InTransit
  fab : List FabCmd
  peers : Tbl Peer
  ports : Tbl PortSlot
  remote : List RemoteSpawn
  /-- function 0: plain registers by BAR 0 offset (R297, R326, R330, R323, R387, R395, R410) -/
  fn0 : Tbl Word
  lostmask : BitVec 512
  /-- 0 GX4-P576, 1 GX4-M576, 2 GX4-M576T (R1; log 13) -/
  code : Nat
  bootStage : Nat
  bootReason : Nat
  power : BitVec 16
  gating : BitVec 4
  hot : BitVec 4
  /-- dies whose issue is withheld in this cycle (R328) -/
  withheld : BitVec 4
  /-- updates verified and not yet applied, in order; firmware in the module flash in place of what was shipped (R326, R327) -/
  updates : List Firmware
  flash : Tbl Firmware
  minVersion : BitVec 16
  /-- digests entered into the measurement blocks at the last reset (R293, R326); a part that has not been reset has those it was shipped with -/
  measures : Tbl (BitVec 384)
  /-- junction temperature of each die (R329, R333) -/
  temps : List Nat
  /-- what the service cores hold, by die; host memory requests in progress (R120, R289, R291) -/
  svc : Tbl (List SvcItem)
  requests : List HostReq
  /-- flits sent in this window: 16 × router + 3 × port + class (R323) -/
  flits : Tbl Nat
  /-- link replay buffers, newest flit first, by 384 × upstream router + router; packets, by router, upstream router and class, of which a flit
  behind the first was damaged and whose tail is still to be stomped (R391) -/
  linkFlits : Tbl (List Nat)
  stomping : List (Nat × Nat × Nat)
  spdm : Tbl Spdm
  fn0Session : Bool
  /-- keys of the link IDE stream, and of the selective stream of each partition function (R292) -/
  ideOn : Bool
  ide : BitVec 16
  /-- exclusive letter served on each die: partition, slot, place (R389) -/
  served : Tbl (Nat × Nat × Nat)
  mesh : List MeshPair
  forwards : List Forward
  outputs : List Output
  /-- misses of the service cores and management cores in a row; failed service cores (R403, R405) -/
  scMissed : List Nat
  scFailed : BitVec 4
  mcMissed : List Nat
  dumps : List Dump
  lost : List LostStore
  fatal : Option (BitVec 8 × Nat)
  stopped : Bool
  snapshots : Option (List Byte)
  deriving DecidableEq, Repr

/-- The device right after reset (R325, stage 5): no partition, every context free, the registers of function 0 as their
maps give. Values the spec does not give stand as log 9 and 13 say. -/
def State.reset : State where
  clock := 0
  skew := 0
  stamps := 0
  turn := 0
  owed := []
  free := 0
  serial := 0
  agenda := []
  carry := []
  moving := []
  timers := []
  todo := []
  cur := none
  ctxs := []
  cores := []
  clusters := []
  scratch := []
  dram := []
  sramTags := []
  poison := []
  stale := []
  releases := []
  acts := []
  parts := []
  transit := []
  fab := []
  peers := []
  ports := []
  remote := []
  fn0 := []
  lostmask := 0
  code := 0
  bootStage := 5
  bootReason := 0
  power := 0
  gating := 0
  hot := 0
  withheld := 0
  updates := []
  flash := []
  minVersion := 0
  measures := []
  temps := [0, 0, 0, 0]
  svc := []
  requests := []
  flits := []
  linkFlits := []
  stomping := []
  spdm := []
  fn0Session := true
  ideOn := true
  ide := 0
  served := []
  mesh := []
  forwards := []
  outputs := []
  scMissed := [0, 0, 0, 0]
  scFailed := 0
  mcMissed := [0, 0, 0, 0]
  dumps := []
  lost := []
  fatal := none
  stopped := false
  snapshots := none

end Sys2Proof.Machine
end

