-- ==== Sys2Proof/Machine/Tables.lean ====
section
/-! DEFINITION. Tables keyed by number, the canonical memory, and numbers as bytes. -/

namespace Sys2Proof

/-- The value at a key. -/
def Tbl.find? {α : Type} (t : Tbl α) (k : Nat) : Option α :=
  match t with
  | [] => none
  | (k', v) :: r => if k' = k then some v else Tbl.find? r k

/-- The value at a key, or a default. -/
def Tbl.get {α : Type} (t : Tbl α) (k : Nat) (d : α) : α := (t.find? k).getD d

/-- Writes a key, keeping the order. -/
def Tbl.set {α : Type} (t : Tbl α) (k : Nat) (v : α) : Tbl α :=
  match t with
  | [] => [(k, v)]
  | (k', v') :: r =>
    if k < k' then (k, v) :: (k', v') :: r
    else if k = k' then (k, v) :: r
    else (k', v') :: Tbl.set r k v

/-- Removes a key. -/
def Tbl.erase {α : Type} (t : Tbl α) (k : Nat) : Tbl α :=
  match t with
  | [] => []
  | (k', v') :: r => if k' = k then r else (k', v') :: Tbl.erase r k

/-- Applies a function to the value at a key, if there is one. -/
def Tbl.modify {α : Type} (t : Tbl α) (k : Nat) (f : α → α) : Tbl α :=
  match t with
  | [] => []
  | (k', v') :: r => if k' = k then (k', f v') :: r else (k', v') :: Tbl.modify r k f

/-- Applies a function to every value. -/
def Tbl.mapVals {α β : Type} (t : Tbl α) (f : Nat → α → β) : Tbl β := t.map fun kv => (kv.1, f kv.1 kv.2)

/-- The keys are strictly rising. -/
def Tbl.sorted {α : Type} (t : Tbl α) : Bool :=
  match t with
  | [] => true
  | [_] => true
  | (a, _) :: (b, w) :: r => a < b && Tbl.sorted ((b, w) :: r)

namespace Machine

/-- What a byte that memory does not list reads as (log 1). -/
def unlisted : Byte := 0

/-- One byte of memory. -/
def Mem.get (m : Mem) (a : Nat) : Byte :=
  match m with
  | [] => unlisted
  | (a', b) :: r => if a' = a then b else Mem.get r a

/-- Writes one byte, keeping the canonical form: an entry equal to what an unlisted address reads as is dropped. -/
def Mem.set (m : Mem) (a : Nat) (b : Byte) : Mem :=
  match m with
  | [] => if b = unlisted then [] else [(a, b)]
  | (a', b') :: r =>
    if a < a' then (if b = unlisted then (a', b') :: r else (a, b) :: (a', b') :: r)
    else if a = a' then (if b = unlisted then r else (a, b) :: r)
    else (a', b') :: Mem.set r a b

/-- Every address of a memory is above `lo`, strictly rising, and no byte is listed that an unlisted address reads as. -/
def Mem.above (lo : Option Nat) (m : Mem) : Bool :=
  match m with
  | [] => true
  | (a, b) :: r =>
    (match lo with
     | none => true
     | some l => decide (l < a)) && decide (b ≠ unlisted) && Mem.above (some a) r

/-- The canonical form of a memory. -/
def Mem.wf (m : Mem) : Bool := Mem.above none m

/-- n bytes from an address, lowest first. -/
def Mem.read (m : Mem) (a n : Nat) : List Byte :=
  match n with
  | 0 => []
  | k + 1 => m.get a :: Mem.read m (a + 1) k

/-- Writes bytes from an address. -/
def Mem.write (m : Mem) (a : Nat) (bs : List Byte) : Mem :=
  match bs with
  | [] => m
  | b :: r => Mem.write (m.set a b) (a + 1) r

/-- Zeroes the bytes of [a, a + n). -/
def Mem.clear (m : Mem) (a n : Nat) : Mem := m.filter fun c => !(a ≤ c.1 && c.1 < a + n)

/-- Moves the bytes of [src, src + n) of a memory to [dst, dst + n), as if the whole source were read first. -/
def Mem.copy (m : Mem) (dst src n : Nat) : Mem :=
  let cells := (m.filter fun c => src ≤ c.1 && c.1 < src + n).map fun c => (c.1 - src + dst, c.2)
  cells.foldl (fun acc c => acc.set c.1 c.2) (m.clear dst n)

/-- An unsigned number from n bytes, little-endian (R7). -/
def Mem.num (m : Mem) (a n : Nat) : Nat :=
  match n with
  | 0 => 0
  | k + 1 => (m.get a).toNat + 256 * Mem.num m (a + 1) k

/-- A dword from memory. -/
def Mem.word (m : Mem) (a : Nat) : Word := BitVec.ofNat 64 (m.num a 8)

/-- The n low bytes of a number, little-endian. -/
def bytesOf (n v : Nat) : List Byte :=
  match n with
  | 0 => []
  | k + 1 => BitVec.ofNat 8 v :: bytesOf k (v / 256)

/-- The number little-endian bytes spell. -/
def numOf (bs : List Byte) : Nat :=
  match bs with
  | [] => 0
  | b :: r => b.toNat + 256 * numOf r

/-- Writes an n-byte number. -/
def Mem.setNum (m : Mem) (a n v : Nat) : Mem := m.write a (bytesOf n v)

/-- Bits [lo+len-1:lo] of a dword, as a number. -/
def bits (w : Word) (lo len : Nat) : Nat := (w.extractLsb' lo len).toNat

/-- A dword with bits [lo+len-1:lo] replaced. -/
def setBits (w : Word) (lo len v : Nat) : Word :=
  let mask := BitVec.ofNat 64 (2 ^ len - 1) <<< lo
  (w &&& ~~~mask) ||| ((BitVec.ofNat 64 v <<< lo) &&& mask)

/-- Bit i of a 256-bit set, set or cleared. -/
def setBit {n : Nat} (w : BitVec n) (i : Nat) (b : Bool) : BitVec n :=
  if b then w ||| (1#n <<< i) else w &&& ~~~(1#n <<< i)

/-- Takes the first value of a list that a test accepts, with the rest. -/
def takeFirst {α : Type} (l : List α) (f : α → Bool) : Option (α × List α) :=
  match l with
  | [] => none
  | a :: r => if f a then some (a, r) else (takeFirst r f).map fun (b, r') => (b, a :: r')

/-- Replaces element i of a list. -/
def setAt {α : Type} (l : List α) (i : Nat) (v : α) : List α :=
  match l, i with
  | [], _ => []
  | _ :: r, 0 => v :: r
  | a :: r, k + 1 => a :: setAt r k v

end Machine

end Sys2Proof
end

