-- ==== Sys2Proof/Machine/Flags.lean ====
section
/-! DEFINITION. Number formats, exact values, every rounding and every flag of sr.fflags and mxstat (R122 to R142). -/

namespace Sys2Proof.Machine

/-- Flags in the layout of sr.fflags (R127). -/
abbrev FFlags := BitVec 7

def fInexact : FFlags := 0x01
def fUnderflow : FFlags := 0x02
def fOverflow : FFlags := 0x04
def fDivzero : FFlags := 0x08
def fInvalid : FFlags := 0x10
def fNarp : FFlags := 0x20
def fSat : FFlags := 0x40

/-- f if the condition holds. -/
def flagIf (c : Bool) (f : FFlags) : FFlags := if c then f else 0

/-- Rounding modes of R126. -/
inductive Rm where
  | rne | rz | rd | ru
  deriving DecidableEq, Repr

/-- The rounding field of a function byte (R126). -/
def rmOf (b : BitVec 2) : Rm :=
  match b.toNat with
  | 0 => .rne
  | 1 => .rz
  | 2 => .rd
  | _ => .ru

/-- A value read from any format: the special codes, or (-1)^neg × m × 2^e exactly (R124, R129). -/
inductive XVal where
  | nan (signalling : Bool)
  | nar
  | inf (neg : Bool)
  | fin (neg : Bool) (m : Nat) (e : Int)
  deriving DecidableEq, Repr

/-- An IEEE binary format: fraction bits, exponent bits (R124). -/
structure Ieee where
  frac : Nat
  ebits : Nat
  deriving DecidableEq, Repr

def fp32 : Ieee := ⟨23, 8⟩
def fp16 : Ieee := ⟨10, 5⟩
def bf16 : Ieee := ⟨7, 8⟩

def Ieee.bias (f : Ieee) : Nat := 2 ^ (f.ebits - 1) - 1
def Ieee.emin (f : Ieee) : Int := 1 - (f.bias : Int)
def Ieee.width (f : Ieee) : Nat := f.frac + f.ebits + 1
/-- Canonical quiet NaN (R125). -/
def Ieee.cnan (f : Ieee) : Nat := (2 ^ (f.ebits + 1) - 1) * 2 ^ (f.frac - 1)
def Ieee.infBits (f : Ieee) : Nat := (2 ^ f.ebits - 1) * 2 ^ f.frac
def Ieee.maxFinite (f : Ieee) : Nat := f.infBits - 1
def Ieee.signBit (f : Ieee) (neg : Bool) : Nat := if neg then 2 ^ (f.frac + f.ebits) else 0

/-- The value of an IEEE word (R124, R125). -/
def Ieee.value (f : Ieee) (b : Nat) : XVal :=
  let neg := b / 2 ^ (f.frac + f.ebits) % 2 = 1
  let ex := b / 2 ^ f.frac % 2 ^ f.ebits
  let fr := b % 2 ^ f.frac
  if ex = 2 ^ f.ebits - 1 then
    if fr = 0 then .inf neg else .nan (fr < 2 ^ (f.frac - 1))
  else if ex = 0 then .fin neg fr (f.emin - f.frac)
  else .fin neg (2 ^ f.frac + fr) ((ex : Int) - f.bias - f.frac)

/-- Bits in a number. -/
def bitLen (m : Nat) : Nat := if m = 0 then 0 else Nat.log2 m + 1

/-- m × 2^(-sh) rounded to an integer under a mode and a sign; whether anything was lost. -/
def roundShift (rm : Rm) (neg : Bool) (m sh : Nat) : Nat × Bool :=
  let q := m / 2 ^ sh
  let r := m % 2 ^ sh
  if r = 0 then (q, false)
  else
    let up :=
      match rm with
      | .rne => 2 ^ sh < 2 * r || (2 ^ sh = 2 * r && q % 2 = 1)
      | .rz => false
      | .rd => neg
      | .ru => !neg
    (if up then q + 1 else q, true)

/-- Left shift by a signed amount that is not negative. -/
def shlInt (m : Nat) (k : Int) : Nat := m * 2 ^ k.toNat

/-- (-1)^neg × m × 2^e for m > 0 rounded once into an IEEE format, with the flags of IEEE and R125: tininess after
rounding, underflow only when tiny and inexact, overflow as the table of R126. -/
def Ieee.round (f : Ieee) (rm : Rm) (neg : Bool) (m : Nat) (e : Int) : Nat × FFlags :=
  let top := e + bitLen m - 1
  let q := max (top - f.frac) (f.emin - f.frac)
  let (r, lost) := if q ≤ e then (shlInt m (e - q), false) else roundShift rm neg m (q - e).toNat
  let q' := top - f.frac
  let r' := if q' ≤ e then shlInt m (e - q') else (roundShift rm neg m (q' - e).toNat).1
  let tiny := top < f.emin && !(top = f.emin - 1 && r' = 2 ^ (f.frac + 1))
  let bits := if r < 2 ^ f.frac then r else (q - (f.emin - f.frac)).toNat * 2 ^ f.frac + r
  if f.infBits ≤ bits then
    let toInf :=
      match rm with
      | .rne => true
      | .rz => false
      | .rd => neg
      | .ru => !neg
    (f.signBit neg + (if toInf then f.infBits else f.maxFinite), fOverflow ||| fInexact)
  else (f.signBit neg + bits, flagIf lost fInexact ||| flagIf (tiny && lost) fUnderflow)

/-- A finite value into an IEEE format; a zero keeps its sign. -/
def Ieee.ofFin (f : Ieee) (rm : Rm) (neg : Bool) (m : Nat) (e : Int) : Nat × FFlags :=
  if m = 0 then (f.signBit neg, 0) else f.round rm neg m e

/-! ## FP32 arithmetic (R125, R191 to R196) -/

/-- A term of an exact sum: sign, magnitude, exponent. -/
structure Term where
  neg : Bool
  m : Nat
  e : Int
  deriving DecidableEq, Repr

/-- The least exponent of the terms. -/
def minExp (ts : List Term) (d : Int) : Int := ts.foldl (fun a t => min a t.e) d

/-- The exact sum of terms: an integer and its exponent. -/
def exactSum (ts : List Term) : Int × Int :=
  match ts with
  | [] => (0, 0)
  | t :: _ =>
    let q := minExp ts t.e
    (ts.foldl (fun (a : Int) t => a + (if t.neg then -1 else 1) * (shlInt t.m (t.e - q) : Int)) 0, q)

/-- One rounding to nearest even of an exact sum; a zero sum is −0 only if every term is −0 (R125). -/
def sumRne (f : Ieee) (ts : List Term) : Nat × FFlags :=
  let (s, q) := exactSum ts
  if s = 0 then (f.signBit (ts.all fun t => t.neg && t.m = 0), 0)
  else f.round .rne (s < 0) s.natAbs q

def isSnan (v : XVal) : Bool :=
  match v with
  | .nan s => s
  | _ => false

def isNan (v : XVal) : Bool :=
  match v with
  | .nan _ => true
  | .nar => true
  | _ => false

/-- A canonical NaN with the invalid flag if a signalling operand asks for it. -/
def nan32 (inv : Bool) : Nat × FFlags := (fp32.cnan, flagIf inv fInvalid)

/-- Sum of two values rounded once to FP32 (add32 of R140). -/
def addVal (a b : XVal) : Nat × FFlags :=
  match a, b with
  | .fin na ma ea, .fin nb mb eb => sumRne fp32 [⟨na, ma, ea⟩, ⟨nb, mb, eb⟩]
  | .inf na, .fin _ _ _ => (fp32.signBit na + fp32.infBits, 0)
  | .fin _ _ _, .inf nb => (fp32.signBit nb + fp32.infBits, 0)
  | .inf na, .inf nb => if na = nb then (fp32.signBit na + fp32.infBits, 0) else nan32 true
  | a, b => nan32 (isSnan a || isSnan b)

def negVal (a : XVal) : XVal :=
  match a with
  | .inf n => .inf !n
  | .fin n m e => .fin (!n) m e
  | v => v

/-- FP32 operand of a register word (R123). -/
def f32v (w : BitVec 32) : XVal := fp32.value w.toNat

def w32 (r : Nat × FFlags) : BitVec 32 × FFlags := (BitVec.ofNat 32 r.1, r.2)

def fadd (a b : BitVec 32) : BitVec 32 × FFlags := w32 (addVal (f32v a) (f32v b))
def fsub (a b : BitVec 32) : BitVec 32 × FFlags := w32 (addVal (f32v a) (negVal (f32v b)))

/-- A product of two values rounded once to FP32. -/
def mulVal (a b : XVal) : Nat × FFlags :=
  match a, b with
  | .fin na ma ea, .fin nb mb eb => fp32.ofFin .rne (na != nb) (ma * mb) (ea + eb)
  | .inf na, .fin nb mb _ => if mb = 0 then nan32 true else (fp32.signBit (na != nb) + fp32.infBits, 0)
  | .fin na ma _, .inf nb => if ma = 0 then nan32 true else (fp32.signBit (na != nb) + fp32.infBits, 0)
  | .inf na, .inf nb => (fp32.signBit (na != nb) + fp32.infBits, 0)
  | a, b => nan32 (isSnan a || isSnan b)
def fmul (a b : BitVec 32) : BitVec 32 × FFlags := w32 (mulVal (f32v a) (f32v b))

/-- b × c + a with one rounding (R192): ∞ × 0 is invalid even beside a quiet NaN addend. -/
def fmaVal (b c a : XVal) : Nat × FFlags :=
  let zeroInf : Bool :=
    match b, c with
    | .inf _, .fin _ m _ => m = 0
    | .fin _ m _, .inf _ => m = 0
    | _, _ => false
  if zeroInf then nan32 true
  else if isNan b || isNan c || isNan a then nan32 (isSnan b || isSnan c || isSnan a)
  else
    match b, c, a with
    | .fin nb mb eb, .fin nc mc ec, .fin na ma ea => sumRne fp32 [⟨nb != nc, mb * mc, eb + ec⟩, ⟨na, ma, ea⟩]
    | .fin _ _ _, .fin _ _ _, .inf na => (fp32.signBit na + fp32.infBits, 0)
    | b, c, a =>
      let sgn (v : XVal) : Bool :=
        match v with
        | .inf n => n
        | .fin n _ _ => n
        | _ => false
      let np := sgn b != sgn c
      match a with
      | .inf na => if na = np then (fp32.signBit np + fp32.infBits, 0) else nan32 true
      | _ => (fp32.signBit np + fp32.infBits, 0)
def ffma (b c a : BitVec 32) : BitVec 32 × FFlags := w32 (fmaVal (f32v b) (f32v c) (f32v a))
def ffms (b c a : BitVec 32) : BitVec 32 × FFlags := w32 (fmaVal (f32v b) (f32v c) (negVal (f32v a)))
def ffnma (b c a : BitVec 32) : BitVec 32 × FFlags := w32 (fmaVal (negVal (f32v b)) (f32v c) (f32v a))

/-- b ÷ c (R194): the exact quotient with a sticky bit, rounded once. -/
def divVal (a b : XVal) : Nat × FFlags :=
  match a, b with
  | .fin na ma ea, .fin nb mb eb =>
    if mb = 0 then
      if ma = 0 then nan32 true else (fp32.signBit (na != nb) + fp32.infBits, fDivzero)
    else if ma = 0 then (fp32.signBit (na != nb), 0)
    else
      let n := ma * 2 ^ 64
      fp32.round .rne (na != nb) (2 * (n / mb) + (if n % mb = 0 then 0 else 1)) (ea - eb - 65)
  | .inf na, .fin nb _ _ => (fp32.signBit (na != nb) + fp32.infBits, 0)
  | .fin na _ _, .inf nb => (fp32.signBit (na != nb), 0)
  | .inf _, .inf _ => nan32 true
  | a, b => nan32 (isSnan a || isSnan b)
def fdiv (a b : BitVec 32) : BitVec 32 × FFlags := w32 (divVal (f32v a) (f32v b))

/-- The integer square root, found bit by bit from 2^k. -/
def isqrtFrom (n k r : Nat) : Nat :=
  match k with
  | 0 => if (r + 1) * (r + 1) ≤ n then r + 1 else r
  | j + 1 => isqrtFrom n j (if (r + 2 ^ (j + 1)) * (r + 2 ^ (j + 1)) ≤ n then r + 2 ^ (j + 1) else r)

/-- √b (R194). -/
def sqrtVal (a : XVal) : Nat × FFlags :=
  match a with
  | .fin n m e =>
    if m = 0 then (fp32.signBit n, 0)
    else if n then nan32 true
    else
      let m' := if e % 2 = 0 then m else 2 * m
      let e' := if e % 2 = 0 then e else e - 1
      let v := m' * 2 ^ 64
      let r := isqrtFrom v 48 0
      fp32.round .rne false (2 * r + (if r * r = v then 0 else 1)) (e' / 2 - 33)
  | .inf n => if n then nan32 true else (fp32.infBits, 0)
  | v => nan32 (isSnan v)
def fsqrt (a : BitVec 32) : BitVec 32 × FFlags := w32 (sqrtVal (f32v a))

/-- The order of FP32 words that are not NaN, −0 below +0 (R193). -/
def f32key (w : BitVec 32) : Int :=
  if w.msb then -((w.toNat % 2 ^ 31 : Nat) : Int) - 1 else w.toNat
/-- The order of values, −0 equal to +0 (R195). -/
def f32ord (w : BitVec 32) : Int :=
  if w.msb then -((w.toNat % 2 ^ 31 : Nat) : Int) else w.toNat

/-- minimumNumber and maximumNumber (R193). -/
def fminmax (mx : Bool) (a b : BitVec 32) : BitVec 32 × FFlags :=
  let inv := flagIf (isSnan (f32v a) || isSnan (f32v b)) fInvalid
  match isNan (f32v a), isNan (f32v b) with
  | true, true => (BitVec.ofNat 32 fp32.cnan, inv)
  | true, false => (b, inv)
  | false, true => (a, inv)
  | false, false => (if mx then (if f32key a < f32key b then b else a) else (if f32key b < f32key a then b else a), inv)
def fmin (a b : BitVec 32) : BitVec 32 × FFlags := fminmax false a b
def fmax (a b : BitVec 32) : BitVec 32 × FFlags := fminmax true a b

/-- The four comparisons of R195. -/
inductive FCmp where
  | eq | lt | le | un
  deriving DecidableEq, Repr

def fcmp (k : FCmp) (a b : BitVec 32) : Bool × FFlags :=
  let nan := isNan (f32v a) || isNan (f32v b)
  let snan := isSnan (f32v a) || isSnan (f32v b)
  match k with
  | .eq => (!nan && decide (f32ord a = f32ord b), flagIf snan fInvalid)
  | .lt => (!nan && decide (f32ord a < f32ord b), flagIf nan fInvalid)
  | .le => (!nan && decide (f32ord a ≤ f32ord b), flagIf nan fInvalid)
  | .un => (nan, flagIf snan fInvalid)

/-- `fcls` (R196): the one class bit. -/
def fclass (w : BitVec 32) : Nat :=
  match f32v w with
  | .inf n => if n then 0 else 7
  | .nan s => if s then 8 else 9
  | .nar => 9
  | .fin n m _ =>
    if m = 0 then (if n then 3 else 4)
    else if m < 2 ^ 23 then (if n then 2 else 5)
    else (if n then 1 else 6)

/-! ## Tapered formats (R129 to R134) -/

/-- Length of the regime run from bit n − 2 down, at least 1. -/
def regimeRun (w n : Nat) (fuel m : Nat) : Nat :=
  match fuel with
  | 0 => m
  | k + 1 => if m < n - 1 && w / 2 ^ (n - 2 - m) % 2 = w / 2 ^ (n - 2) % 2 then regimeRun w n k (m + 1) else m

/-- tf_expand of R130: value (-1)^s × sig × 2^(2k+e−12). -/
def tfValue (w n : Nat) : XVal :=
  if w = 0 then .fin false 0 0
  else if w = 2 ^ (n - 1) then .nar
  else
    let s := decide (2 ^ (n - 1) ≤ w)
    let u := if s then 2 ^ n - w else w
    let m := regimeRun u n n 1
    let k : Int := if u / 2 ^ (n - 2) % 2 = 1 then (m : Int) - 1 else -(m : Int)
    let i : Int := (n : Int) - 3 - m
    let nf := i.toNat
    let e : Nat := if 0 ≤ i then u / 2 ^ nf % 2 else 0
    let f := u % 2 ^ nf
    .fin s (2 ^ 12 + f * 2 ^ (12 - nf)) (2 * k + e - 12)

/-- Order of two magnitudes. -/
def magLe (m1 : Nat) (e1 : Int) (m2 : Nat) (e2 : Int) : Bool :=
  let q := min e1 e2
  shlInt m1 (e1 - q) ≤ shlInt m2 (e2 - q)

/-- Magnitude of a positive tapered pattern. -/
def tfMag (p n : Nat) : Nat × Int :=
  match tfValue p n with
  | .fin _ m e => (m, e)
  | _ => (0, 0)

/-- The greatest pattern whose value is at most a magnitude, bit by bit. -/
def tfFloor (n m : Nat) (e : Int) (k p : Nat) : Nat :=
  match k with
  | 0 => p
  | j + 1 =>
    let c := p + 2 ^ j
    let v := tfMag c n
    tfFloor n m e j (if magLe v.1 v.2 m e then c else p)

/-- tf_round of R131 with the flags of R132 for a finite value. -/
def tfRoundFin (n : Nat) (rm : Rm) (neg : Bool) (m : Nat) (e : Int) : Nat × FFlags :=
  if m = 0 then (0, 0)
  else
    let sgn (p : Nat) : Nat := if neg then 2 ^ n - p else p
    let lim : Int := 2 * n - 4
    if magLe 1 lim m e && !magLe m e 1 lim then (sgn (2 ^ (n - 1) - 1), fSat ||| fInexact)
    else if magLe m e 1 (-lim) && !magLe 1 (-lim) m e then (sgn 1, fSat ||| fInexact)
    else
      let lo := tfFloor n m e (n - 1) 0
      let vlo := tfMag lo n
      if magLe m e vlo.1 vlo.2 then (sgn lo, 0)
      else
        let hi := lo + 1
        let vhi := tfMag hi n
        let q := min e (min vlo.2 vhi.2)
        let a := shlInt m (e - q)
        let l := shlInt vlo.1 (vlo.2 - q)
        let h := shlInt vhi.1 (vhi.2 - q)
        let p :=
          match rm with
          | .rz => lo
          | .rd => if neg then hi else lo
          | .ru => if neg then lo else hi
          | .rne => if a - l < h - a then lo else if h - a < a - l then hi else if lo % 2 = 0 then lo else hi
        (sgn p, fInexact)

/-- tf_round of any value (R131, R132, R137). -/
def tfRound (n : Nat) (rm : Rm) (v : XVal) : Nat × FFlags :=
  match v with
  | .fin neg m e => tfRoundFin n rm neg m e
  | .nar => (2 ^ (n - 1), 0)
  | .inf _ => (2 ^ (n - 1), fNarp)
  | .nan s => (2 ^ (n - 1), fNarp ||| flagIf s fInvalid)

/-! ## Conversions (R137, R138) -/

/-- A number type of a convert. -/
inductive NType where
  | sint (w : Nat)
  | uint (w : Nat)
  | ieee (f : Ieee)
  | taper (n : Nat)
  deriving DecidableEq, Repr

def NType.width (t : NType) : Nat :=
  match t with
  | .sint w => w
  | .uint w => w
  | .ieee f => f.width
  | .taper n => n

/-- A two's-complement number. -/
def toSigned (w v : Nat) : Int := if v % 2 ^ w < 2 ^ (w - 1) then (v % 2 ^ w : Nat) else ((v % 2 ^ w : Nat) : Int) - 2 ^ w

/-- The value of the low bits of a word in a type (R123, R163). -/
def NType.value (t : NType) (b : Nat) : XVal :=
  match t with
  | .sint w => let i := toSigned w b; .fin (i < 0) i.natAbs 0
  | .uint w => .fin false (b % 2 ^ w) 0
  | .ieee f => f.value (b % 2 ^ f.width)
  | .taper n => tfValue (b % 2 ^ n) n

/-- A finite value rounded to an integer (R138). -/
def toInt (rm : Rm) (neg : Bool) (m : Nat) (e : Int) : Int × Bool :=
  let (r, lost) := if 0 ≤ e then (shlInt m e, false) else roundShift rm neg m (-e).toNat
  (if neg then -(r : Int) else r, lost)

/-- A value into an integer type with bounds (R137, R138): the word and its flags. -/
def intOf (lo hi : Int) (w : Nat) (rm : Rm) (v : XVal) : Nat × FFlags :=
  let enc (i : Int) : Nat := (i % 2 ^ w).toNat
  match v with
  | .fin neg m e =>
    let (i, lost) := toInt rm neg m e
    if i < lo then (enc lo, fInvalid)
    else if hi < i then (enc hi, fInvalid)
    else (enc i, flagIf lost fInexact)
  | .inf neg => (enc (if neg then lo else hi), fInvalid)
  | .nan _ => (enc lo, fInvalid)
  | .nar => (enc lo, fInvalid)

/-- A value into an IEEE format (R137, R138). -/
def ieeeOf (f : Ieee) (rm : Rm) (v : XVal) : Nat × FFlags :=
  match v with
  | .fin neg m e => f.ofFin rm neg m e
  | .inf neg => (f.signBit neg + f.infBits, 0)
  | .nan s => (f.cnan, flagIf s fInvalid)
  | .nar => (f.cnan, 0)

/-- A convert from one type to another (R137, R138): the destination word, low bits, and the flags. -/
def convert (dst src : NType) (rm : Rm) (b : Nat) : Nat × FFlags :=
  match dst, src with
  | .taper n, .taper k =>
    if k < n then (b % 2 ^ k * 2 ^ (n - k), 0) else tfRound n rm (tfValue (b % 2 ^ k) k)
  | .taper n, s => tfRound n rm (s.value b)
  | .ieee f, s => ieeeOf f rm (s.value b)
  | .sint w, s => intOf (-(2 ^ (w - 1))) (2 ^ (w - 1) - 1) w rm (s.value b)
  | .uint w, s => intOf 0 (2 ^ w - 1) w rm (s.value b)

/-- Scalar type codes (R197). -/
def scalarType (c : BitVec 3) : NType :=
  match c.toNat with
  | 0 => .sint 32
  | 1 => .uint 32
  | 2 => .ieee fp32
  | 3 => .ieee bf16
  | 4 => .ieee fp16
  | 5 => .taper 6
  | 6 => .taper 8
  | _ => .taper 16

/-- Vector type codes (R213). -/
def vectorType (c : BitVec 3) : NType :=
  match c.toNat with
  | 0 => .sint 32
  | 1 => .ieee fp32
  | 2 => .ieee bf16
  | 3 => .ieee fp16
  | 4 => .taper 16
  | 5 => .taper 8
  | 6 => .taper 6
  | _ => .sint 8

/-! ## LF8 (R139, R220) -/

/-- The value of an LF8 code (R139); a NaN code is quiet. -/
def lf8Value (b : Nat) : XVal :=
  let neg := b / 128 % 2 = 1
  let ex := b / 8 % 16
  let fr := b % 8
  if b % 128 = 127 then .nan false
  else if ex = 0 then .fin neg fr (-8)
  else .fin neg (8 + fr) ((ex : Int) - 9)

def lf8ToF32 (b : Nat) : BitVec 32 := BitVec.ofNat 32 (ieeeOf fp32 .rne (lf8Value b)).1

/-- One lane of `vdot.lf8` (R220): addend and four pairs of LF8 codes. -/
def lf8Dot (a : BitVec 32) (ps : List (Nat × Nat)) : BitVec 32 × FFlags :=
  let vs := ps.map fun p => (lf8Value p.1, lf8Value p.2)
  if isNan (f32v a) || vs.any (fun p => isNan p.1 || isNan p.2) then
    (BitVec.ofNat 32 fp32.cnan, flagIf (isSnan (f32v a)) fInvalid)
  else
    match f32v a with
    | .fin na ma ea =>
      w32 (sumRne fp32 (⟨na, ma, ea⟩ :: vs.map fun p =>
        match p.1, p.2 with
        | .fin n1 m1 e1, .fin n2 m2 e2 => ⟨n1 != n2, m1 * m2, e1 + e2⟩
        | _, _ => ⟨false, 0, 0⟩))
    | _ => (a, 0)

/-! ## Group sums of the matrix unit (R140, R141) -/

/-- Is a value NaN-like (NaN or NaR), infinite, zero? -/
def isInf (v : XVal) : Bool :=
  match v with
  | .inf _ => true
  | _ => false
def isZero (v : XVal) : Bool :=
  match v with
  | .fin _ m _ => m = 0
  | _ => false
def signOf (v : XVal) : Bool :=
  match v with
  | .inf n => n
  | .fin n _ _ => n
  | _ => false

/-- The exact group sum of products (R141), rounded to FP32 (rne32): the word and the flags of R263. -/
def groupSum (ps : List (XVal × XVal)) : Nat × FFlags :=
  let snan := ps.any fun p => isSnan p.1 || isSnan p.2
  let anyNan := ps.any fun p => isNan p.1 || isNan p.2
  let zeroInf := ps.any fun p => (isInf p.1 && isZero p.2) || (isZero p.1 && isInf p.2)
  let prodInf (p : XVal × XVal) : Bool := (isInf p.1 || isInf p.2) && !isNan p.1 && !isNan p.2
  let posInf := ps.any fun p => prodInf p && !(signOf p.1 != signOf p.2)
  let negInf := ps.any fun p => prodInf p && (signOf p.1 != signOf p.2)
  if anyNan then (fp32.cnan, flagIf (snan || zeroInf || (posInf && negInf)) fInvalid)
  else if zeroInf || (posInf && negInf) then (fp32.cnan, fInvalid)
  else if posInf then (fp32.infBits, 0)
  else if negInf then (fp32.signBit true + fp32.infBits, 0)
  else
    let (s, q) := exactSum (ps.map fun p =>
      match p.1, p.2 with
      | .fin n1 m1 e1, .fin n2 m2 e2 => ⟨n1 != n2, m1 * m2, e1 + e2⟩
      | _, _ => ⟨false, 0, 0⟩)
    if s = 0 then (0, 0) else fp32.round .rne (s < 0) s.natAbs q

/-- The exact integer sum of products of an integer group (R140). -/
def intGroup (ps : List (Int × Int)) : Int := ps.foldl (fun a p => a + p.1 * p.2) 0

/-- The value scaled by 2^s (R136). -/
def scaleVal (v : XVal) (s : Int) : XVal :=
  match v with
  | .fin n m e => .fin n m (e + s)
  | v => v

end Sys2Proof.Machine
end

