-- ==== Sys2Proof/Machine/Ops.lean ====
section
/-! DEFINITION. The named operations over the state: contexts and registers, results and their latency, records, stopping and
aborting an activation, taking an exception and returning from one. -/

namespace Sys2Proof.Machine

/-- The outcome of an instruction or a step. -/
abbrev Out := Host.Outcome State Fault Refusal

/-! ## Parts of the state by number -/

/-- Numbers of the cluster, core and die of a context, from sr.ctx (R12, R69). -/
def clusterOf (c : Nat) : Nat := c / 128
def coreOf (c : Nat) : Nat := c / 8
def dieOfCluster (n : Nat) : Nat := (if 8 ≤ n % 16 then 1 else 0) + (if 12 ≤ n / 16 then 2 else 0)

def State.cluster (s : State) (n : Nat) : Cluster := s.clusters.get n default0
where default0 : Cluster := {}
def State.setCluster (s : State) (n : Nat) (k : Cluster) : State := { s with clusters := s.clusters.set n k }
def State.modCluster (s : State) (n : Nat) (f : Cluster → Cluster) : State := s.setCluster n (f (s.cluster n))
/-- A core nothing has touched since its partition was set up, `age` cycles ago: its counters have counted cycles (R321). -/
def freshCore (age : Nat) : Core :=
  { pmc := List.replicate 4 (BitVec.ofNat 48 age), pmctl := if 2 ^ 48 ≤ age then 0xF00000000 else 0 }
def State.coreAge (s : State) (n : Nat) : Nat :=
  match s.parts.filter fun k => k.2.state != .free && k.2.row0 ≤ n / 256 && n / 256 < k.2.row0 + k.2.nrows with
  | k :: _ => s.clock - k.2.setAt
  | [] => s.clock
def State.core (s : State) (n : Nat) : Core := s.cores.get n (freshCore (s.coreAge n))
def State.setCore (s : State) (n : Nat) (k : Core) : State := { s with cores := s.cores.set n k }
def State.modCore (s : State) (n : Nat) (f : Core → Core) : State := s.setCore n (f (s.core n))
def State.part (s : State) (n : Nat) : Part := s.parts.get n {}
def State.setPart (s : State) (n : Nat) (k : Part) : State := { s with parts := s.parts.set n k }
def State.modPart (s : State) (n : Nat) (f : Part → Part) : State := s.setPart n (f (s.part n))
def State.modCtx (s : State) (c : Nat) (f : Ctx → Ctx) : State := { s with ctxs := s.ctxs.modify c f }
def State.modAct (s : State) (a : Nat) (f : Act → Act) : State := { s with acts := s.acts.modify a f }
def State.modActor (s : State) (p slot : Nat) (f : Actor → Actor) : State :=
  s.modPart p fun k => { k with actors := k.actors.modify slot f }
def State.actor? (s : State) (p slot : Nat) : Option Actor := (s.part p).actors.find? slot
/-- A write acts before anything else that is due. -/
def State.postNow (s : State) (e : Event) : State := { s with agenda := e :: s.agenda }
/-- An event becomes due. -/
def State.post (s : State) (e : Event) : State := { s with agenda := s.agenda ++ [e] }
def State.posts (s : State) (es : List Event) : State := { s with agenda := s.agenda ++ es }
/-- An event becomes due after a free number of cycles, fewer than n (log 4). -/
def State.postWithin (s : State) (n : Nat) (e : Event) : State :=
  { s with timers := s.timers ++ [(s.clock + 1 + Config.delay s.free % n, e)], free := s.free + 1 }
/-- An event becomes due after a free number of cycles (log 4). -/
def State.postIn (s : State) (e : Event) : State :=
  { s with timers := s.timers ++ [(s.clock + 1 + Config.delay s.free, e)], free := s.free + 1 }
/-- An event becomes due n cycles from now. -/
def State.postAt (s : State) (n : Nat) (e : Event) : State := { s with timers := s.timers ++ [(s.clock + n, e)] }
def State.emit (s : State) (o : Output) : State := { s with outputs := s.outputs ++ [o] }

/-- A free number of cycles (log 4): the value of Config and the state with its counter advanced. -/
def State.delay (s : State) : Nat × State := (Config.delay s.free, { s with free := s.free + 1 })
def State.choose (s : State) : Bool × State := (Config.choice s.free, { s with free := s.free + 1 })
def State.anyWord (s : State) : Word × State := (Config.word s.free, { s with free := s.free + 1 })
def State.pickN (s : State) : Nat × State := (Config.pick s.free, { s with free := s.free + 1 })
/-- The device postmark clock (R26), also sr.cycle. -/
def State.now (s : State) : Nat := s.clock + s.skew
/-- The agents of a die that stamp, in the order in which they take the values of one cycle (R26; log 94). -/
inductive Stamper where
  | keystone | serviceCore | sortingFrame | restartEngine
  deriving DecidableEq, Repr
/-- The turn of an agent in a cycle: ascending die, then the order of the agents of a die. -/
def Stamper.turn (a : Stamper) (die : Nat) : Nat :=
  4 * die + match a with
    | .keystone => 0
    | .serviceCore => 1
    | .sortingFrame => 2
    | .restartEngine => 3
/-- A stamp, taken at a turn: the clock hands out each value once (R26). -/
def State.stamp (s : State) (turn : Nat) : Word × State :=
  (BitVec.ofNat 64 (s.now + s.stamps), { s with stamps := s.stamps + 1, turn := max s.turn turn })
def State.fresh (s : State) : Nat × State := (s.serial, { s with serial := s.serial + 1 })

/-- Counters of a core count one occurrence of an event (R321). -/
def Core.bump (k : Core) (event n : Nat) : Core :=
  let one (i : Nat) (c : BitVec 48) : BitVec 48 := if bits k.pmctl (8 * i) 8 == event then c + BitVec.ofNat 48 n else c
  let wraps (i : Nat) (c : BitVec 48) : Bool := bits k.pmctl (8 * i) 8 == event && 2 ^ 48 ≤ c.toNat + n
  { k with
    pmc := k.pmc.mapIdx one
    pmctl := k.pmc.zipIdx.foldl (fun w c => if wraps c.2 c.1 then w ||| (1#64 <<< (32 + c.2)) else w) k.pmctl }
/-- An event of the core of a context. -/
def State.bump (s : State) (c event : Nat) : State := s.modCore (coreOf c) fun k => k.bump event 1

/-- A member of an activation. -/
def Act.member? (a : Act) (i : Nat) : Option Member := a.members[i]?
def Act.modMember (a : Act) (i : Nat) (f : Member → Member) : Act :=
  match a.members[i]? with
  | none => a
  | some m => { a with members := setAt a.members i (f m) }
def State.modMember (s : State) (a i : Nat) (f : Member → Member) : State := s.modAct a fun k => k.modMember i f

/-! ## Registers of a context -/

/-- x0 reads zero (R147). -/
def Ctx.xr (k : Ctx) (r : BitVec 6) : Word := if r = 0 then 0 else k.x[r.toNat]
def Ctx.vr (k : Ctx) (r : BitVec 5) : Lanes := k.v[r.toNat]
def Ctx.mr (k : Ctx) (r : BitVec 3) : BitVec 16 := k.m[r.toNat]
/-- p0 reads true (R147). -/
def Ctx.pr (k : Ctx) (r : BitVec 4) : Bool := if r = 0 then true else k.p.getLsbD r.toNat

/-- One register write (R147, R162): x0 and p0 discarded; a scalar or vector register becomes full. -/
def Ctx.put (k : Ctx) (w : RegWrite) : Ctx :=
  match w with
  | .x r v =>
    if r = 0 then k else { k with x := k.x.set r.toNat v, fullX := setBit k.fullX r.toNat true }
  | .v r l => { k with v := k.v.set r.toNat l, fullV := setBit k.fullV r.toNat true }
  | .m r b => { k with m := k.m.set r.toNat b }
  | .p r b => if r = 0 then k else { k with p := setBit k.p r.toNat b }
  | .orFlags f => { k with fflags := k.fflags ||| f }
  | .fflags f => { k with fflags := f }
  | .epc v => { k with epc := v }
  | .enpc v => { k with enpc := v }

def Ctx.puts (k : Ctx) (ws : List RegWrite) : Ctx := ws.foldl Ctx.put k

/-- Whether a write is a flag update, which lands after the writes of the same cycle (R128). -/
def RegWrite.isOr (w : RegWrite) : Bool :=
  match w with
  | .orFlags _ => true
  | _ => false

/-- The fixed-latency writes that take effect at the end of a cycle (R151, R152), in issue order, a flag update after a `wrsr`
of the same cycle (R128). -/
def Ctx.land (k : Ctx) (t : Nat) : Ctx :=
  let ws := (k.pend.filter fun f => f.due ≤ t).flatMap fun f => f.ws
  let k' := (k.puts (ws.filter fun w => !w.isOr)).puts (ws.filter fun w => w.isOr)
  { k' with pend := k.pend.filter fun f => !(f.due ≤ t) }

/-- A result of latency L from an instruction issued now (R151). -/
def State.result (s : State) (c L : Nat) (ws : List RegWrite) : State :=
  s.modCtx c fun k => { k with pend := k.pend ++ [⟨s.clock + L - 1, ws⟩] }

/-- Marks the destination of a variable-latency instruction empty; x0 is never empty (R153). -/
def Ctx.emptyX (k : Ctx) (r : BitVec 6) : Ctx := if r = 0 then k else { k with fullX := setBit k.fullX r.toNat false }
def Ctx.emptyV (k : Ctx) (r : BitVec 5) : Ctx := { k with fullV := setBit k.fullV r.toNat false }

/-- A variable-latency result (R153): its registers become empty, and it is written after a free number of cycles. -/
def State.later (s : State) (c : Nat) (kind : VKind) (ws : List RegWrite) (rd : Option (BitVec 6 × Probe)) (again : List Reload := []) :
    State × Nat :=
  let (d, s1) := s.delay
  let (n, s2) := s1.fresh
  let mark (k : Ctx) (w : RegWrite) : Ctx :=
    match w with
    | .x r _ => k.emptyX r
    | .v r _ => k.emptyV r
    | _ => k
  let markRd (k : Ctx) : Ctx :=
    match rd with
    | some (r, _) => k.emptyX r
    | none => k
  (s2.modCtx c fun k =>
    { markRd (ws.foldl mark k) with
      vres := k.vres ++ [{ serial := n, due := some (s.clock + 1 + d), kind := kind, ws := ws, rd := rd, again := again }] }, n)

/-- The result is known now and fills its register when its event comes. -/
def State.fill (s : State) (c : Nat) (kind : VKind) (ws : List RegWrite) : State := (s.later c kind ws none).1

/-! ## Where an instruction stands -/

/-- The address at which execution continues after the instruction at the PC: R143, or the continuation of R154 in a slot. -/
def Ctx.nextPc (k : Ctx) : Word := k.slot.getD (k.pc + 12)

/-- The PC moves past an instruction that is no taken transfer. -/
def Ctx.advance (k : Ctx) : Ctx := { k with pc := k.nextPc, slot := none }

/-- A control transfer: the slot at PC + 12 comes next, then the target (R154). -/
def Ctx.transfer (k : Ctx) (next : Word) : Ctx := { k with pc := k.pc + 12, slot := some next }

def State.advance (s : State) (c : Nat) : State := s.modCtx c Ctx.advance

/-! ## Dead-letter ring and trace ring -/

/-- A 64-byte record (R350). -/
def mkRecord (time kind cause info ctx flags tag : Nat) (w0 w1 w2 w3 w4 w5 : Word) : BitVec 512 :=
  w5 ++ w4 ++ w3 ++ w2 ++ w1 ++ w0 ++ BitVec.ofNat 8 tag ++ BitVec.ofNat 8 flags ++ BitVec.ofNat 16 ctx ++
    BitVec.ofNat 16 info ++ BitVec.ofNat 8 cause ++ BitVec.ofNat 8 kind ++ BitVec.ofNat 64 time

/-- A word of a control block by offset (R332); psched has its reset value of R64. -/
def Part.word (k : Part) (off : Nat) : Word := k.ctl.get off (if off = 0x40 then 0x08023 <<< 28 ||| 1000 else 0)
def Part.setWord (k : Part) (off : Nat) (v : Word) : Part := { k with ctl := k.ctl.set off v }

/-- Is n a power of two in a range? -/
def powIn (n lo hi : Nat) : Bool := 2 ^ lo ≤ n && n ≤ 2 ^ hi && n == 2 ^ Nat.log2 n

/-- The ring takes records (R349). -/
def Part.ringOn (k : Part) : Bool :=
  (k.word 0x428).getLsbD 0 && powIn (k.word 0x408).toNat 6 20 && bits (k.word 0x400) 0 16 == 0
def Part.ringFull (k : Part) : Bool := (k.word 0x410 - k.word 0x418) == k.word 0x408
/-- lostcnt rises by one, saturating (R349, R351). -/
def Part.loseRecord (k : Part) : Part :=
  let w := k.word 0x420
  k.setWord 0x420 (setBits w 32 32 (min (bits w 32 32 + 1) (2 ^ 32 - 1)))

/-- A record as it is placed: a kind-16 record holds the number of the record in its ring (R376). -/
def placedRecord (r : BitVec 512) (dlprod : Word) : BitVec 512 :=
  if r.extractLsb' 64 8 = 16 then dlprod ++ r.extractLsb' 0 448 else r
/-- A record enters the ring (R349, R350), with its interrupt; the repair it requests waits under its number (R376). -/
def State.enterRecord (s : State) (p : Nat) (r0 : BitVec 512) (repair : Option Repair := none) : State :=
  let k := s.part p
  let r := placedRecord r0 (k.word 0x410)
  let at_ := (k.word 0x400).toNat + 64 * ((k.word 0x410).toNat % (k.word 0x408).toNat)
  let s1 := { s with dram := s.dram.write at_ (bytesOf 64 r.toNat) }
  let s2 := s1.modPart p fun k =>
    { k.setWord 0x410 (k.word 0x410 + 1) with
      lastRecords := (k.lastRecords ++ [r]).drop ((k.lastRecords.length + 1) - 256)
      repairs := match repair with
        | some q => k.repairs.set ((k.word 0x410).toNat % 2 ^ 32) q
        | none => k.repairs }
  if (k.word 0x428).getLsbD 1 then s2.emit (.msi p 1) else s2

/-- A producer makes a record (R349, R351): discarded while the ring is off, stalled while it is full. Answers whether the
producer may go on at once. -/
def State.record (s : State) (p : Nat) (r : BitVec 512) (ctx : Option Nat) (cont : List Event) (repair : Option Repair := none) :
    State × Bool :=
  let k := s.part p
  if !k.ringOn then (s.modPart p Part.loseRecord, true)
  else if k.ringFull then
    (s.modPart p fun k =>
      { k.setWord 0x420 (k.word 0x420 ||| 3) with stalled := k.stalled ++ [⟨r, s.clock, ctx, cont, repair⟩] }, false)
  else (s.enterRecord p r repair, true)

/-- A record whose producer does not wait. -/
def State.note (s : State) (p : Nat) (r : BitVec 512) : State := (s.record p r none []).1

/-- A record enters the trace ring, or is counted as dropped (R320). -/
def State.traceRaw (s : State) (p : Nat) (r : BitVec 256) : State :=
  let k := s.part p
  let n := (k.word 0x208).toNat
  if k.word 0x210 - k.word 0x218 == k.word 0x208 || !powIn n 10 24 then
    s.modPart p fun k => k.setWord 0x220 (k.word 0x220 + 1)
  else
    let s1 := { s with dram := s.dram.write ((k.word 0x200).toNat + 32 * ((k.word 0x210).toNat % n)) (bytesOf 32 r.toNat) }
    s1.modPart p fun k => k.setWord 0x210 (k.word 0x210 + 1)

/-- A 32-byte trace record (R320). -/
def mkTrace (time pc postmark : Word) (slot ctx kind : Nat) (crit : Bool) (arg : Nat) : BitVec 256 :=
  time ++ pc ++ postmark ++ BitVec.ofNat 16 slot ++ BitVec.ofNat 16 ctx ++ BitVec.ofNat 8 kind ++ BitVec.ofBool crit ++
    BitVec.ofNat 23 (min arg (2 ^ 23 - 1))

/-- A trace record (R320); kinds 1 to 5 and 9 need the enable bit of the partition. -/
def State.trace (s : State) (p kind : Nat) (pc postmark : Word) (slot ctx arg : Nat) (crit : Bool) : State :=
  if (kind ≤ 5 || kind == 9) && !((s.part p).word 0x228).getLsbD 0 then s
  else s.traceRaw p (mkTrace (BitVec.ofNat 64 s.now) pc postmark slot ctx kind crit arg)

/-! ## Denials (R94, R379) -/

/-- The one denial record and count of an instruction (R94, R379). -/
def State.denyRecord (s : State) (a c : Nat) (pc : Word) (addr which : Nat) (label : BitVec 16) (lines : Nat) (engine remote : Bool)
    (tag : Nat) : State × Bool :=
  match s.acts.find? a with
  | none => (s, true)
  | some k =>
    let s1 := s.modPart k.p fun q =>
      q.setWord 0x88 (if q.word 0x88 = BitVec.allOnes 64 then q.word 0x88 else q.word 0x88 + 1)
    s1.record k.p (mkRecord s.now 2 0 0 c (if engine then 4 else 0) tag k.self k.letter.postmark pc (BitVec.ofNat 64 addr)
      (BitVec.ofNat 64 (which + label.toNat * 2 ^ 16 + lines * 2 ^ 32))
      (BitVec.ofNat 64 (k.letter.principal.toNat + (if remote then 2 ^ 16 else 0)))) (if engine then none else some c) []

/-- The one denial record of a command (R94, R379). -/
def State.denyEngine (s : State) (a ctx tag : Nat) (d : Option DeniedLines) (remote : Bool) : State :=
  match d with
  | none => s
  | some d => (s.denyRecord a ctx 0 d.addr 0 d.label d.lines.length true remote tag).1

/-- The denials an activation's instructions and commands have met so far are counted and recorded when it stops: they survive an abort
(R94, R112). -/
def State.flushDenials (s : State) (a : Nat) : State :=
  let ofCtx (st : State) (x : Nat × Ctx) : State :=
    match x.2.denials with
    | some (lanes, addr, label) => if x.2.act = a then (st.denyRecord a x.1 x.2.pc addr lanes label 0 false false 0).1 else st
    | none => st
  let ofCmd (st : State) (c : Cmd) : State := if c.act = a then st.denyEngine a c.ctx c.tag c.denied false else st
  let ofSub (st : State) (u : Nat × Sub) : State := st.denyEngine a u.2.ctx (u.2.tagbase + u.2.next % u.2.nslots) u.2.denied false
  let members : List Member := match s.acts.find? a with
    | some k => k.members
    | none => []
  let subs : Tbl Sub := members.flatMap Member.subs
  let s1 := (s.ctxs ++ members.filterMap fun m => m.saved.map fun v => (v.home, v.ctx)).foldl ofCtx s
  let s2 := (s.clusters.flatMap fun k => k.2.courier).foldl ofCmd s1
  subs.foldl ofSub ((s.fab.map FabCmd.cmd).foldl ofCmd s2)

/-! ## Stopping an activation -/

/-- Contexts of an activation. -/
def Act.contexts (a : Act) : List Nat := a.members.filterMap fun m => m.ctx

/-- The commands an activation has with the engines are cancelled (R112, R258, R282). -/
def State.cancelEngines (s : State) (a : Nat) : State :=
  let cl (k : Cluster) : Cluster :=
    let dropQ (f : Fctx) : Fctx :=
      let headGone := match f.queue with
        | c :: _ => c.act == a
        | [] => false
      let f := { f with queue := f.queue.filter fun c => c.act != a }
      let f := if headGone then { f with w := 0, step := 0, pre := [] } else f
      match f.holder with
      | some (h, _) => if h = a then { f with holder := none } else f
      | none => f
    let running := match k.mxrun with
      | some r => match (k.fctxs.get r.fctx {}).queue with
        | c :: _ => c.act == a
        | [] => false
      | none => false
    { k with
      courier := k.courier.filter fun c => c.act != a
      fctxs := k.fctxs.mapVals fun _ f => dropQ f
      mxrun := if running then none else k.mxrun }
  let reps (k : Part) : Part := { k with
    repairs := k.repairs.filter fun r => r.2.act != a
    stalled := k.stalled.map fun r => { r with repair := r.repair.filter fun q => q.act != a } }
  let touched (k : Cluster) : Bool := k.fctxs.any fun f => f.2.queue.any fun c => c.act == a
  { s with
    agenda := (s.clusters.filter fun k => touched k.2).map (fun k => .mxDecision k.1) ++ s.agenda
    clusters := s.clusters.mapVals fun _ k => cl k
    fab := s.fab.filter fun c => c.cmd.act != a
    parts := s.parts.mapVals fun _ k => reps k }

/-- Contexts become FREE (R70, R112); a store watch that matched an instruction of theirs in progress is over with it (R319). -/
def State.freeContexts (s : State) (a : Nat) : State :=
  let gone (c : Nat) : Bool := (s.ctxs.find? c).any fun k => k.act == a
  { s with
    ctxs := s.ctxs.filter fun c => c.2.act != a
    cores := s.cores.mapVals fun _ q => { q with watched := q.watched.filter fun c => !gone c } }

/-- Reservations of an activation's spawns lapse (R52): local slots are freed, other devices get a release message. A reservation another
device has not answered holds the null postcode, and its answer is released when it comes. -/
def State.lapse (s : State) (a : Nat) : State :=
  match s.acts.find? a with
  | none => s
  | some k =>
    let dev := bits (s.fn0.get 0x10000 0) 48 9
    let one (st : State) (o : OutEntry) : State :=
      match o with
      | .spawn child _ _ void _ =>
        if void || child = 0 then st
        else if bits child 48 16 = dev then
          st.modPart k.p fun q => { q with reserved := q.reserved.erase (bits child 24 20) }
        else if st.lostmask.getLsbD (bits child 48 16) then st
        else
          let d := bits child 48 16
          let pr := st.peers.get d {}
          let item : FabItem :=
            { src := dev, dst := d, seq := BitVec.ofNat 32 pr.nextOrdered, relaxed := false, part := k.p, poster := k.self, postmark := k.letter.postmark
              work := .remote (.release child), sent := 0 }
          { st with peers := st.peers.set d { pr with
              ordered := pr.ordered ++ [{ item := item, size := 64, fn := 0 }], nextOrdered := pr.nextOrdered + 1 } }
      | _ => st
    let s1 := k.outbox.foldl one s
    { s1 with remote := s1.remote.filter fun r => r.act != a }

/-- The frames of an activation's scaffold pages return to the pool (R106). -/
def State.freeFrames (s : State) (a : Nat) : State :=
  match s.acts.find? a with
  | none => s
  | some k => s.modPart k.p fun q => { q with poolBack := q.poolBack ++ k.pages.map fun g => g.2.frame }

/-! ## Critical-path samples (R324) -/

/-- Pending entries of a context are written out; those of the holder of a token with crit = 1. -/
def State.flushSamples (s : State) (p : Nat) (only crit : Bool) (rs : List (BitVec 256)) : State :=
  if only && !crit then s
  else rs.foldl (fun st r => st.traceRaw p (if crit then r ||| (1#256 <<< 23) else r)) s

/-- At a barrier completion or an activation end the entries of every member go out (R324). -/
def State.flushAct (s : State) (a : Nat) : State :=
  match s.acts.find? a with
  | none => s
  | some k =>
    let only := ((s.part k.p).word 0x228).getLsbD 6
    let mine := (s.ctxs.filter fun c => c.2.act == a).map fun c => (c.2.member, c.2.samples)
    let gone := k.members.zipIdx.map fun m => (m.2, ((m.1.saved.map fun v => v.ctx.samples).getD []) ++ m.1.samples)
    let s1 := (mine ++ gone).foldl (fun st c => st.flushSamples k.p only (k.token && k.holder == some c.1) c.2) s
    let bare (m : Member) : Member :=
      { m with samples := [], saved := m.saved.map fun v => { v with ctx := { v.ctx with samples := [] } } }
    let s2 := s1.modAct a fun k => { k with members := k.members.map bare }
    { s2 with ctxs := s2.ctxs.mapVals fun _ c => if c.act == a then { c with samples := [] } else c }

/-- Everything an activation has outside its record stops: members, engines, barriers, saved queue entries. -/
def State.stopAct (s : State) (a : Nat) : State :=
  let isQ (q : QEntry) : Bool :=
    match q with
    | .saved b _ => b != a
    | _ => true
  let s1 := ((((s.flushDenials a).flushAct a).lapse a).freeFrames a).freeContexts a
  let s2 := s1.cancelEngines a
  { s2 with
    stale := s2.stale.filter fun e => e.act != a
    releases := s2.releases.filter fun e => e.act != a
    clusters := s2.clusters.mapVals fun _ k =>
      { k with
        queue := k.queue.filter isQ
        drain := k.drain.filter isQ } }

/-- A failed activation keeps its signatures and its letter's place, and nothing else (R348). -/
def Act.discard (a : Act) (f : Failure) : Act :=
  { a with
    phase := .failed f false
    lines := []
    pages := []
    owners := []
    outbox := []
    areaSize := 0
    gave := []
    members := a.members.map fun m => { m with ctx := none, saved := none, subs := [], image := none, retired := true, saving := false, samples := [] } }

/-- An activation fails (R348): the first failure in time stands. -/
def State.failAct (s : State) (a : Nat) (f : Failure) : State :=
  match s.acts.find? a with
  | none => s
  | some k =>
    match k.phase with
    | .failed _ _ => s
    | _ => (s.stopAct a).modAct a fun k => k.discard f

/-- What becomes of the letter of an aborted activation. -/
structure Requeue where
  /-- requeued as exclusive (R252, R389) -/
  exclusive : Bool := false
  /-- a conflict abort in the sense of R66 -/
  conflict : Bool := false
  /-- an uncorrectable error (R382) -/
  ecc : Bool := false
  /-- the activations behind it need not wait for its next run: it gave way to another group (R51), or to the service of an exclusive
  letter (R389; log 17) -/
  passed : Bool := false
  deriving DecidableEq, Repr

/-- The maximum speculation depth of a partition (R64). -/
def Part.specMax (k : Part) : Nat := bits (k.word 0x40) 28 2 + 1

/-- The letter of an aborted activation returns to HELD with replay set and keeps its place (R44, R65, R112). -/
def Held.requeue (h : Held) (a : Nat) (order : Nat) (q : Requeue) (owns : List Parcel) : Held :=
  if h.state = .active a then
    { h with
      state := .held
      letter := { h.letter with replay := true }
      requeued := if q.passed then none else some order
      exclusive := h.exclusive || q.exclusive
      eccAborts := if q.ecc then h.eccAborts + 1 else 0
      owns := owns }
  else h

/-- The cores an activation has been placed on (R321). -/
def Act.ranCores (a : Act) : List Nat := a.ranOn.foldl (fun l c => if l.contains (coreOf c) then l else l ++ [coreOf c]) []
/-- An activation is gone, with the service its exclusive letter had (R389), the abort trace of its members' contexts (R320) and, unless it had
failed, the count of its cores (R321). -/
def State.removeAct (s : State) (a : Nat) : State :=
  match s.acts.find? a with
  | none => s
  | some k =>
    let failed := match k.phase with
      | .failed _ _ => true
      | _ => false
    let s1 := (if failed then [] else k.ranCores).foldl (fun st n => st.modCore n fun q => q.bump 7 1) (s.stopAct a)
    let s2 := { s1 with
      acts := s1.acts.erase a
      served := s1.served.filter fun e => !(e.2.1 == k.p && e.2.2.1 == k.slot && e.2.2.2 == k.place) }
    (if k.contexts.isEmpty then k.ranOn.take 1 else k.contexts).foldl (fun st c => st.trace k.p 4 0 k.letter.postmark k.slot c 0 false) s2

/-- An abort (R112): the activation is gone, its letter back in the mailbox, atomic-class effects and records stay. -/
def State.abortAct (s : State) (a : Nat) (q : Requeue) : State :=
  match s.acts.find? a with
  | none => s
  | some k =>
    (s.removeAct a).modActor k.p k.slot fun w =>
      { w with
        box := w.box.map fun h => h.requeue a k.order q k.owns
        depth := if q.conflict then max 1 (w.depth - 1) else w.depth
        commits := if q.conflict then 0 else w.commits }

/-! ## Exceptions (R165, R343 to R348) -/

/-- Trap causes (R344). -/
def cIllegalInstruction : Nat := 0x01
def cIllegalOperand : Nat := 0x02
def cIllegalExtension : Nat := 0x03
def cIllegalSlot : Nat := 0x04
def cMisaligned : Nat := 0x05
def cNotPresent : Nat := 0x06
def cWriteProtect : Nat := 0x07
def cExecuteProtect : Nat := 0x08
def cEmptyRead : Nat := 0x09
def cReservedFormat : Nat := 0x0A
def cGroupBounds : Nat := 0x0B
def cFrankingRefused : Nat := 0x0C
def cNonCanonical : Nat := 0x0D
def cEbreak : Nat := 0x10
def cSoftTrap : Nat := 0x12
def cUncorrectable : Nat := 0x20
def cBudget : Nat := 0x30
def cParcelNotOwned : Nat := 0x31
def cBadPostcode : Nat := 0x32
def cResourceLimit : Nat := 0x33
def cStreamState : Nat := 0x34
def cNoImage : Nat := 0x35
def cFmtctxState : Nat := 0x36
def cDeviceLost : Nat := 0x37
def cAuthFailed : Nat := 0x38
def cKeyRefused : Nat := 0x39

/-- The three courses of R347. -/
inductive Course where
  | continue_
  | repair (write cow : Bool)
  | fail
  deriving DecidableEq, Repr

/-- A trap of an instruction: cause, info, address, whether a micro-step raised it, its course. -/
structure Trap where
  code : Nat
  info : Nat := 0
  badaddr : Option Word := none
  micro : Bool := false
  course : Course := .fail
  deriving DecidableEq, Repr

/-- sr.progress of a context (R254). -/
def Ctx.progress (k : Ctx) : Word :=
  0#16 ++ k.mxstep ++ k.ustep ++ 0#11 ++ BitVec.ofNat 5 k.vlane

/-- raise of R165: the registers an exception saves into (R343, R346). -/
def Ctx.take (k : Ctx) (t : Trap) : Ctx :=
  { k with
    epc := k.pc
    enpc := k.nextPc
    cause := 0#32 ++ BitVec.ofNat 16 t.info ++ 0#6 ++ BitVec.ofBool k.slot.isSome ++ BitVec.ofBool t.micro ++ BitVec.ofNat 8 t.code
    badaddr := t.badaddr.getD k.badaddr }

/-- Flags of a trap record from sr.cause (R350). -/
def recFlags (k : Ctx) (continued : Bool) : Nat :=
  bits k.cause 9 1 + 2 * bits k.cause 8 1 + 4 * bits k.cause 10 1 + (if continued then 8 else 0)

/-- The kind-1 record of a context's trap (R350). -/
def trapRecord (time c : Nat) (self postmark : Word) (k : Ctx) (continued : Bool) : BitVec 512 :=
  mkRecord time 1 (bits k.cause 0 8) (bits k.cause 16 16) c (recFlags k continued) 0 self postmark k.epc k.enpc k.badaddr k.progress

/-- The failure a context's trap makes of its activation (R348). -/
def Ctx.failure (k : Ctx) (c : Nat) : Failure where
  cause := BitVec.ofNat 8 (bits k.cause 0 8)
  info := BitVec.ofNat 16 (bits k.cause 16 16)
  ctx := BitVec.ofNat 16 c
  flags := BitVec.ofNat 8 (recFlags k false)
  epc := k.epc
  enpc := k.enpc
  badaddr := k.badaddr
  progress := k.progress

/-- Return as by `eret`: PC = sr.enpc (R255). -/
def Ctx.eret (k : Ctx) : Ctx := { k with pc := k.enpc, slot := none }

/-- Return as by `eret.re`: PC = sr.epc, in its slot when sr.cause.slot is 1 (R255). -/
def Ctx.eretRe (k : Ctx) : Ctx := { k with pc := k.epc, slot := if k.cause.getLsbD 9 then some k.enpc else none }

/-- A kind-16 record, with the flags of R350, requests a repair and the waiter waits (R376, R377). -/
def State.askRepair (s : State) (w : Waiter) (a : Nat) (cause : Nat) (va wher : Word) (write cow : Bool) (flags c : Nat) : State :=
  match s.acts.find? a with
  | none => s
  | some k =>
    (s.record k.p (mkRecord s.now 16 cause 0 c flags 0 k.self k.letter.postmark va wher
      (BitVec.ofNat 64 ((if write then 1 else 0) + (if cow then 2 else 0))) 0) none [] (some ⟨w, a, BitVec.ofNat 8 cause, va⟩)).1

/-- Taking an exception: the one operation for every trap of an instruction or a fetch (R165, R344 to R348). -/
def State.raise (s : State) (c : Nat) (t : Trap) : State :=
  match s.ctxs.find? c with
  | none => s
  | some k0 =>
    let k := k0.take t
    match s.acts.find? k.act with
    | none => s.modCtx c fun _ => k
    | some a =>
      let s1 := (s.modCtx c fun _ => k).trace a.p 5 k.epc a.letter.postmark a.slot c t.code false
      match t.course with
      | .continue_ =>
        let (s2, ok) := s1.record a.p (trapRecord s.now c a.self a.letter.postmark k true) (some c) []
        s2.modCtx c fun k => { k.eret with pause := if ok then none else some .record }
      | .repair write cow =>
        (s1.askRepair (.context c) k.act t.code (t.badaddr.getD 0) k.epc write cow (recFlags k false) c).modCtx c fun k =>
          { k with pause := some .repair }
      | .fail => s1.failAct k.act (k.failure c)

end Sys2Proof.Machine
end

