-- ==== Sys2Proof/Machine/Translate.lean ====
section
/-! DEFINITION. Address windows, the page walk and TLB, owner, label and attribute checks, signatures, and the scaffold
(R79 to R96, R106 to R108, R164, R372, R373, R388). -/

namespace Sys2Proof.Machine

/-! ## Physical map (R86) -/

def sramTop : Nat := 0x0A000000
/-- Stack of a DRAM address and its offset in the stack's window. -/
def stackOf (pa : Nat) : Option (Nat × Nat) :=
  let s := pa / 0x1000000000
  if 1 ≤ s && s ≤ 12 then some (s - 1, pa % 0x1000000000) else none
/-- A page of this size at this physical base has storage (R86). -/
def hasStorage (pa size : Nat) : Bool :=
  if pa < sramTop then pa + size ≤ sramTop
  else
    match stackOf pa with
    | none => false
    | some (_, o) =>
      let top := if size = 0x40000000 then 0xB00000000 else if size = 0x200000 then 0xB2D000000 else 0xB2D050000
      o + size ≤ top
/-- Where a line of shared SRAM or DRAM lies (R87): slice and line index in the slice; stack and pseudo-channel. -/
inductive LineHome where
  | slice (n index : Nat)
  | stack (n channel : Nat)
  deriving DecidableEq, Repr
def sliceOf (pa : Nat) : Nat := (pa / 64 % 256) ^^^ (pa / 16384 % 256)
def lineHome (pa : Nat) : Option LineHome :=
  if pa < sramTop then some (.slice (sliceOf pa) (pa / 16384 % 16384))
  else (stackOf pa).map fun x => .stack x.1 ((x.2 / 64 * 64 / 1024 % 512) ^^^ (x.2 / 524288 % 512))
/-- The die of a physical line (R87). -/
def dieOfPa (pa : Nat) : Nat :=
  if pa < sramTop then sliceOf pa / 64
  else
    match stackOf pa with
    | some (s, _) => s / 3
    | none => 0

/-! ## Page walk (R89, R90, R373) -/

/-- What a walk finds. -/
inductive Walk where
  | leaf (l : Leaf)
  | absent
  /-- a table error: level, error code of R373, address of the entry -/
  | error (level code entry : Nat)
  deriving DecidableEq, Repr

/-- Level, page bytes and the bytes of the next table of a level (R89). -/
def pageBytes (level : Nat) : Nat :=
  match level with
  | 0 => 0x10000
  | 1 => 0x200000
  | _ => 0x40000000
def tableBytes (level : Nat) : Nat :=
  match level with
  | 0 => 512
  | _ => 8192
def vaIndex (va level : Nat) : Nat :=
  match level with
  | 0 => va / 2 ^ 16 % 32
  | 1 => va / 2 ^ 21 % 512
  | 2 => va / 2 ^ 30 % 512
  | _ => va / 2 ^ 39 % 8192

/-- The error code of a valid entry, the least that holds (R373; log 14). -/
def entryError (level : Nat) (d0 d1 : Word) : Option Nat :=
  let isLeaf := d0.getLsbD 3
  let atomic := d0.getLsbD 8
  let cow := d0.getLsbD 7
  let w := d0.getLsbD 5
  let addr := bits d0 9 39 * 512
  if (isLeaf && level == 3) || (!isLeaf && level == 0) then some 1
  else if addr % (if isLeaf then pageBytes level else tableBytes (level - 1)) != 0 then some 2
  else if isLeaf && ((cow && w) || (atomic && w) || (cow && atomic)) then some 3
  else if isLeaf && !hasStorage addr (pageBytes level) then some 4
  else if bits d0 48 16 != 0 || d0.getLsbD 1 || bits d1 32 32 != 0 ||
      (!isLeaf && (bits d0 4 5 != 0 || d0.getLsbD 2 || d1 != 0)) then some 5
  else if isLeaf && atomic && (level == 2 || sramTop ≤ addr) then some 6
  else none

/-- One entry of the table, then the next level. -/
def walkFrom (m : Mem) (table va level : Nat) : Walk :=
  let e := table + 16 * vaIndex va level
  let d0 := m.word e
  let d1 := m.word (e + 8)
  if !d0.getLsbD 0 then .absent
  else
    match entryError level d0 d1 with
    | some c => .error level c e
    | none =>
      let addr := bits d0 9 39 * 512
      if d0.getLsbD 3 then
        .leaf { size := pageBytes level, addr := addr, atomic := d0.getLsbD 8, cow := d0.getLsbD 7, x := d0.getLsbD 6
                w := d0.getLsbD 5, r := d0.getLsbD 4, cmn := d0.getLsbD 2, owner := d1.extractLsb' 16 16
                label := d1.extractLsb' 0 16, entry := e }
      else
        match level with
        | 0 => .absent
        | l + 1 => walkFrom m addr va l

/-- A walk of a partition's table from committed state (R89). -/
def State.walk (s : State) (p va : Nat) : Walk := walkFrom s.dram (bits ((s.part p).word 0x80) 17 31 * 2 ^ 17) va 3

/-- The leaves of a table, with their virtual addresses (R89). -/
def leavesIn (m : Mem) (table va level : Nat) : List (Nat × Leaf) :=
  let leaf (v : Nat) : List (Nat × Leaf) := match walkFrom m table v level with
    | .leaf l => [(v, l)]
    | _ => []
  match level with
  | 0 => (List.range 32).flatMap fun i => leaf (va + 2 ^ 16 * i)
  | k + 1 =>
    (List.range (if k = 2 then 8192 else 512)).flatMap fun i =>
      let v := va + 2 ^ (21 + 9 * k) * i
      let d0 := m.word (table + 16 * i)
      if !d0.getLsbD 0 || (entryError (k + 1) d0 (m.word (table + 16 * i + 8))).isSome then []
      else if d0.getLsbD 3 then leaf v
      else leavesIn m (bits d0 9 39 * 512) v k
/-- The tables of a page table, as (base, bytes) (R89). -/
def tablesIn (m : Mem) (table level : Nat) : List (Nat × Nat) :=
  (table, tableBytes level) :: match level with
    | 0 => []
    | k + 1 =>
      (List.range (if k = 2 then 8192 else 512)).flatMap fun i =>
        let d0 := m.word (table + 16 * i)
        if !d0.getLsbD 0 || d0.getLsbD 3 || (entryError (k + 1) d0 (m.word (table + 16 * i + 8))).isSome then []
        else tablesIn m (bits d0 9 39 * 512) k
/-- A physical address lies in a partition's page table. -/
def State.inTable (s : State) (p pa : Nat) : Bool :=
  (tablesIn s.dram (bits ((s.part p).word 0x80) 17 31 * 2 ^ 17) 3).any fun t => t.1 ≤ pa && pa < t.1 + t.2
/-- Every page of a partition. -/
def State.leaves (s : State) (p : Nat) : List (Nat × Leaf) := leavesIn s.dram (bits ((s.part p).word 0x80) 17 31 * 2 ^ 17) 0 3

/-- The TLB entry that covers an address. -/
def Cluster.tlbHit (k : Cluster) (va : Nat) : Option TlbEntry := k.tlb.find? fun e => e.va ≤ va && va < e.va + e.leaf.size

/-- Translation at a cluster (R91): an entry still held may be used in place of the present one, whole. The TLB keeps 2,048
leaves, and which one it drops is not specified (log 6). -/
def State.translate (s : State) (cluster p va : Nat) : Walk × State :=
  let w := s.walk p va
  let keep (l : Leaf) (s : State) : State := s.modCluster cluster fun k =>
    { k with tlb := (⟨va / l.size * l.size, l⟩ :: k.tlb.filter fun e => !(e.va ≤ va && va < e.va + e.leaf.size)).take 2048 }
  match (s.cluster cluster).tlbHit va with
  | some e =>
    if w = .leaf e.leaf then (w, s)
    else
      let (old, s1) := s.choose
      if old then (.leaf e.leaf, s1)
      else
        match w with
        | .leaf l => (w, keep l s1)
        | _ => (w, s1)
  | none =>
    match w with
    | .leaf l => (w, keep l s)
    | _ => (w, s)

/-! ## Owners and labels (R85, R88, R94) -/

/-- The owner tag of a line, or a default. -/
def tagOf (ts : List TagRange) (line : Nat) (d : BitVec 16) : BitVec 16 :=
  match ts with
  | [] => d
  | t :: r => if t.lo ≤ line && line < t.hi then t.owner else tagOf r line d
/-- Writes the owner tags of lines lo to hi. -/
def setTags (ts : List TagRange) (lo hi : Nat) (o : BitVec 16) : List TagRange :=
  ⟨lo, hi, o⟩ :: ts.filter fun t => !(lo ≤ t.lo && t.hi ≤ hi)

/-- Does an actor belong to a commons that exists? -/
def State.inCommons (s : State) (p : Nat) (a : Act) (id : Nat) : Bool :=
  a.img.commons == some id && ((s.part p).commons.find? id).isSome

/-- The owner comparison of R88 for a physical line. -/
def State.owns (s : State) (a : Act) (l : Leaf) (pa : Nat) : Bool :=
  if l.cmn then s.inCommons a.p a l.owner.toNat
  else if pa < sramTop then tagOf s.sramTags (pa / 64) 0xFFFF == BitVec.ofNat 16 a.slot
  else l.owner == BitVec.ofNat 16 a.slot

/-- Whether an element under a label is denied (R94). -/
def Act.denied (a : Act) (label : BitVec 16) : Bool := label != 0 && !a.labels.contains label

/-- Does a range of virtual addresses touch a tile? -/
def tileTouches (t : Parcel) (va n : Nat) : Bool := va < t.base.toNat + t.len && t.base.toNat < va + n
/-- Does a tile hold a range? -/
def tileHolds (t : Parcel) (va n : Nat) : Bool := t.base.toNat ≤ va && va + n ≤ t.base.toNat + t.len

/-! ## Checks (R164, R222, R372) -/

/-- Who accesses for an activation, at a cluster: the context of a member, or an engine for a member's command and tag; the scratchpad
requester that asks the banks, none for an access they have granted (R83). -/
structure Agent where
  act : Nat
  ctx : Option Nat
  cluster : Nat
  member : Nat
  tag : Nat := 64
  port : Option Nat := none
  /-- which engine, for an engine, and the sr.ctx its command was issued with (R350) -/
  engine : Nat := 0
  sr : Nat := 0
  deriving DecidableEq, Repr

/-- The engines as agents of R100, each with a program order of its own: the courier and the matrix unit of a cluster, the fabric couriers of a
die, the feeder of a stack. -/
def courierNo (cluster : Nat) : Nat := 4 * cluster
def matrixNo (cluster : Nat) : Nat := 4 * cluster + 1
def fabricNo (die : Nat) : Nat := 4 * die + 2
def feederNo (stack : Nat) : Nat := 4 * stack + 3
/-- The number of an agent among those that see an activation's writes: its members, then the engines. -/
def Agent.viewer (ag : Agent) : Nat :=
  match ag.ctx with
  | some _ => ag.member
  | none => 16 + ag.engine

/-- What an access does (R88, R95, R230). -/
inductive Acc where
  | read | write | amo
  deriving DecidableEq, Repr

/-- Where a checked access lies. -/
inductive Place where
  | tcm (off : Nat)
  | scratch (off : Nat)
  | glob (va pa : Nat) (l : Leaf)
  deriving DecidableEq, Repr

/-- What a check answers: the place, or the cause, course and table error of R372. -/
inductive Chk where
  | ok (p : Place)
  | bad (code : Nat) (course : Course) (table : Option (Nat × Nat × Nat))
  deriving DecidableEq, Repr

/-- The course of a condition that the runtime may repair (R372, R375). -/
def State.repairCourse (s : State) (p : Nat) (write cow : Bool) : Course :=
  if ((s.part p).word 0x500).getLsbD 0 then .repair write cow else .fail

/-- The check of a scratchpad range against the area, the parcel tiles and the owner tag (R85). DESIGN CHOICE (log 7): the tag of a line
that nothing has written is 0xFFFF. -/
def State.scratchOk (s : State) (ag : Agent) (a : Act) (off n : Nat) : Bool :=
  let inArea := a.areaBase ≤ off && off + n ≤ a.areaBase + a.areaSize
  let va := 0xFD00000000000000 + off
  let inTile := a.owns.any fun t => t.place == 0 && tileHolds t va n
  (inArea || inTile) && tagOf (s.cluster ag.cluster).tags (off / 64) 0xFFFF == BitVec.ofNat 16 a.slot

/-- check of R164: windows, bounds, owners, attributes, in the order of R372. DESIGN CHOICE (log 82): an atomic takes the write check alone
(R230), also on a page with w and not r. -/
def State.check (s : State) (ag : Agent) (va n : Nat) (acc : Acc) : Chk × State :=
  match s.acts.find? ag.act with
  | none => (.bad cNotPresent .fail none, s)
  | some a =>
    let win := va / 2 ^ 56
    let off := va % 2 ^ 56
    if win = 0xFE then
      if ag.ctx.isSome && off ≤ 0x13FF then (.ok (.tcm off), s) else (.bad cNonCanonical .fail none, s)
    else if win = 0xFD then
      if 0x3FFFFF < off then (.bad cNonCanonical .fail none, s)
      else if a.gave.any fun t => tileTouches t va n then (.bad cParcelNotOwned .fail none, s)
      else if s.scratchOk ag a off n then (.ok (.scratch off), s)
      else (.bad cNotPresent .fail none, s)
    else if win = 0 then
      if 2 ^ 52 ≤ off then (.bad cNonCanonical .fail none, s)
      else if a.gave.any fun t => tileTouches t va n then (.bad cParcelNotOwned .fail none, s)
      else
        let (w, s0) := s.translate ag.cluster a.p va
        let s1 := match ag.ctx, (s.cluster ag.cluster).tlbHit va with
          | some c, none => s0.bump c 6
          | _, _ => s0
        match w with
        | .absent => (.bad cNotPresent (s.repairCourse a.p (acc != .read) false) none, s1)
        | .error lv c e => (.bad cNotPresent .fail (some (lv, c, e)), s1)
        | .leaf l =>
          let pa := l.addr + va % l.size
          if !s.owns a l pa then (.bad cNotPresent .fail none, s1)
          else
            match acc with
            | .read => if l.r then (.ok (.glob va pa l), s1) else (.bad cNotPresent .fail none, s1)
            | .write =>
              if l.cow then (.bad cWriteProtect (s.repairCourse a.p true true) none, s1)
              else if l.w && !l.atomic then (.ok (.glob va pa l), s1)
              else (.bad cWriteProtect .fail none, s1)
            | .amo =>
              if l.cow then (.bad cWriteProtect (s.repairCourse a.p true true) none, s1)
              else if l.w || l.atomic then (.ok (.glob va pa l), s1)
              else (.bad cWriteProtect .fail none, s1)
    else (.bad cNonCanonical .fail none, s)

/-- A kind-17 record of a table error (R373): the sr.ctx and flags of the access, its actor and postmark, the address; level, code and entry. -/
def State.tableRecord (s : State) (p ctx flags : Nat) (self postmark : Word) (va : Nat) (t : Nat × Nat × Nat) : State :=
  s.note p (mkRecord s.now 17 cNotPresent 0 ctx flags 0 self postmark (BitVec.ofNat 64 va) (BitVec.ofNat 64 t.2.2)
    (BitVec.ofNat 64 (t.1 + 4 * t.2.1)) 0)
/-- The record of an agent's access; an engine's has the sr.ctx of its command and the flag of an engine (R350, R373). -/
def State.noteTable (s : State) (ag : Agent) (va : Nat) (t : Option (Nat × Nat × Nat)) : State :=
  match t, s.acts.find? ag.act with
  | some e, some k => s.tableRecord k.p (ag.ctx.getD ag.sr) (if ag.ctx.isSome then 0 else 4) k.self k.letter.postmark va e
  | _, _ => s
/-- The record of a walk that no check of an agent makes: it is written if the walk finds an error (R373). -/
def State.noteWalk (s : State) (p ctx flags : Nat) (self postmark : Word) (va : Nat) : State :=
  if 2 ^ 52 ≤ va then s
  else
    match s.walk p va with
    | .error lv code e => s.tableRecord p ctx flags self postmark va (lv, code, e)
    | _ => s

/-! ## Signatures (R108) -/

def rot8 (b : BitVec 8) (n : Nat) : BitVec 8 := b.rotateLeft n

/-- The hash of a line address in bank j. -/
def sigHash (line : BitVec 48) (j : Nat) : Nat :=
  ((List.range 6).foldl (fun (h : BitVec 8) i => h ^^^ rot8 (line.extractLsb' (8 * i) 8) (i * (2 * j + 1) % 8)) 0).toNat

/-- sig_set of R108. -/
def sigSet (sig : BitVec 1024) (va : Nat) : BitVec 1024 :=
  let a : BitVec 48 := BitVec.ofNat 48 (va / 64 % 2 ^ 46)
  (List.range 4).foldl (fun s j => s ||| (1#1024 <<< (256 * j + sigHash a j))) sig

/-- meets of R108. -/
def sigMeets (r w : BitVec 1024) : Bool :=
  (List.range 4).all fun j => (r.extractLsb' (256 * j) 256 &&& w.extractLsb' (256 * j) 256) != 0

/-! ## The scaffold (R106, R107, R388) -/

/-- Bytes the activation has written to a line, by offset: from its line entry or its scaffold page. -/
def Act.ownByte (a : Act) (va : Nat) : Option Byte :=
  match a.pages.find? (va / 65536) with
  | some g => g.written.find? (va % 65536)
  | none =>
    match a.lines.find? (va / 64) with
    | some e => e.bytes.find? (va % 64)
    | none => none

/-- The physical byte a virtual address of the line goes to: through the entry if the line has one (R106). -/
def Act.linePa (a : Act) (va pa : Nat) : Nat :=
  match a.lines.find? (va / 64) with
  | some e => e.pa + va % 64
  | none => pa

/-- A read for an activation: its own latest write, else committed state (R107). -/
def State.readBytes (s : State) (a : Act) (va pa n : Nat) : List Byte :=
  match n with
  | 0 => []
  | k + 1 => (match a.ownByte va with
      | some b => b
      | none => s.dram.get pa) :: State.readBytes s a (va + 1) (pa + 1) k

/-- A physical line is in the write set: an entry's, a scaffold page's, or a parcelled tile's (R106, R110). -/
def Act.writesLine (a : Act) (line : Nat) : Bool :=
  (a.lines.any fun e => e.2.pa / 64 == line) ||
  (a.pages.any fun g => (g.2.leaf.addr + g.1 * 65536 % g.2.leaf.size) / 65536 == line / 1024) ||
  a.owners.any fun o => o.leaves.any fun x =>
    let pa := x.2.addr + x.1 % x.2.size
    let n := if o.tile.place = 2 then 65536 else 64
    pa / 64 ≤ line && line < (pa + n) / 64

/-- Lines locked by groups between their phases 2a and 2c (R110, R114): a physical line in the write set of a locked
activation. -/
def State.lockedLine (s : State) (except_ : Nat) (pa : Nat) : Bool :=
  s.acts.any fun kv => kv.1 != except_ && kv.2.phase == .locked && kv.2.writesLine (pa / 64)

/-- The actor a poisoned line is attributed to (R383): its owner, or every member of its commons. -/
def State.poisonOwners (s : State) (p : Nat) (l : Leaf) (pa : Nat) : List Word :=
  let k := s.part p
  if l.cmn then (k.actors.filter fun w => w.2.img.commons == some l.owner.toNat).map fun w => w.2.code
  else
    let o := if pa < sramTop then tagOf s.sramTags (pa / 64) 0xFFFF else l.owner
    match k.actors.find? o.toNat with
    | some w => [w.code]
    | none => []

def State.killAll (s : State) (p : Nat) (cs : List Word) (w : KillWhy) : State := s.posts (cs.map fun c => .killPoint p c w)

/-- What an access that reads a poisoned line brings about: its owners are killed with MEMORY (R383); a line that the system actor owns makes the
partition fatal (R385, R405). -/
def State.poisonHit (s : State) (p : Nat) (l : Leaf) (pa : Nat) : State :=
  if !l.cmn && (if pa < sramTop then tagOf s.sramTags (pa / 64) 0xFFFF else l.owner) == 0xFFFF then
    s.post (.fatalCondition 1 (some p) (dieOfPa pa) (BitVec.ofNat 64 pa) (if pa < sramTop then 7 else 8))
  else s.killAll p (s.poisonOwners p l pa) .memory

/-- Line entries in use on a die (R106, R388). -/
def State.linesUsed (s : State) (die : Nat) : Nat :=
  s.acts.foldl (fun n kv => if dieOfCluster kv.2.cluster == die then n + kv.2.lines.length else n) 0

/-- The exclusive letter served on a die reserves the rest of its line store, and its partition's pool (R389). -/
def State.reservedFor (s : State) (die : Nat) : Option (Nat × Nat × Nat) := s.served.find? die

/-- Frames of the initial pool of a partition on a stack (R106). -/
def Part.poolFrames (k : Part) : Nat := if k.pool = 0 then k.share * 16384 / 8 else k.pool
def Part.poolOn (k : Part) (stack : Nat) : Nat := k.poolFrames / 12 + (if stack < k.poolFrames % 12 then 1 else 0)

/-- Frames of each stack that make one GiB unit of a share, counted downward from the top of the mappable window (log 15). -/
def unitFrames : Nat := 1366
/-- The unit of a DRAM address. -/
def unitOf (pa : Nat) : Option Nat := (stackOf pa).map fun x => (732420 - x.2 / 65536) / unitFrames

/-- The i-th frame of the initial pool of partition p on a stack: the first frames of its share (log 15). -/
def Part.poolFrame (k : Part) (stack i : Nat) : Option Nat :=
  k.units[i / unitFrames]?.map fun u => 0x1000000000 * (stack + 1) + (732420 - (unitFrames * u + i % unitFrames)) * 65536

/-- A free pool frame on a stack, with the partition after the draw. -/
def State.drawFrame (s : State) (p stack : Nat) : Option (Nat × State) :=
  let k := s.part p
  match takeFirst k.poolBack fun f => (stackOf f).map Prod.fst == some stack with
  | some (f, rest) => some (f, s.modPart p fun k => { k with poolBack := rest })
  | none =>
    let used := k.poolTaken.get stack 0
    match (if used < k.poolOn stack then k.poolFrame stack used else none) with
    | some f => some (f, s.modPart p fun k => { k with poolTaken := k.poolTaken.set stack (used + 1) })
    | none => none

/-- What a write into the scaffold answers. -/
inductive Wrote where
  | ok (s : State)
  /-- the page's promotion waits for a line a group has locked (R110) -/
  | wait (s : State)
  /-- the activation met capacity and has been aborted (R388 to R390) -/
  | gone (s : State)
  deriving DecidableEq, Repr

/-- A kind-19 record (R389, R390). -/
def State.noteCapacity (s : State) (a : Act) (trigger exit : Nat) : State :=
  s.note a.p (mkRecord s.now 19 0 0 0 0 0 a.self a.letter.postmark (BitVec.ofNat 64 trigger) (BitVec.ofNat 64 exit) 0 0)

/-- Two activations share a commit domain (R45). -/
def sameDomain (a b : Act) : Bool :=
  a.p == b.p &&
  match a.img.commons, b.img.commons with
  | some i, some j => i == j
  | none, none => a.slot == b.slot
  | _, _ => false

/-- The ordering key of a letter (R28), as one number. -/
def letterKey (l : Letter) : Nat := (l.postmark.toNat * 2 ^ 64 + l.sender.toNat) * 2 ^ 16 + l.member.toNat

/-- The place of an activation in an ordered commons: the greatest key of its actor's activations up to it. DESIGN CHOICE (log 81): R46 asks
for ascending key order and for each member's own order, and says not which holds where the two conflict (an actor released key 20, then 15,
and another member stands at 17); here a member's own order holds, and its later activation stands where the earlier one does. -/
def State.commonsKey (s : State) (a : Act) : Nat :=
  (s.acts.filter fun b => b.2.p == a.p && b.2.slot == a.slot && b.2.order < a.order).foldl (fun n b => max n (letterKey b.2.letter))
    (letterKey a.letter)
/-- a stands before b in their domain's order (R44, R46). DESIGN CHOICE (log 81): activations of two members at one key stand in slot
order. -/
def State.before (s : State) (a b : Act) : Bool :=
  if a.slot == b.slot then a.order < b.order
  else
    match a.img.commons with
    | some i =>
      if (s.part a.p).commons.get i false then false
      else s.commonsKey a < s.commonsKey b || (s.commonsKey a == s.commonsKey b && a.slot < b.slot)
    | none => false

/-- An ordered domain: an actor's own, or an ordered commons (R44, R46). -/
def State.orderedDomain (s : State) (a : Act) : Bool :=
  match a.img.commons with
  | some i => !((s.part a.p).commons.get i false)
  | none => true

/-- Capacity (R389, R390): an abort at once with its record; the exclusive activation's actor exits. -/
def State.capacity (s : State) (a trigger : Nat) : State :=
  match s.acts.find? a with
  | none => s
  | some k =>
    if k.exclusive then
      let s1 := (s.noteCapacity k trigger 1).abortAct a {}
      s1.post (.killPoint k.p k.self .capacity)
    else
      let s1 := (s.noteCapacity k trigger 0).abortAct a { exclusive := trigger != 4, passed := trigger == 4 }
      if trigger != 4 && s.orderedDomain k then
        let younger := s.acts.filter fun kv => kv.1 != a && sameDomain k kv.2 && s.before k kv.2
        younger.foldl (fun st kv => st.abortAct kv.1 {}) s1
      else s1

/-- A draw of a line entry on the activation's die: none when it may be had, else the trigger of R388 and R389. -/
def State.lineTrigger (s : State) (a : Act) : Option Nat :=
  let die := dieOfCluster a.cluster
  let other := match s.reservedFor die with
    | some (p, slot, place) => !(p == a.p && slot == a.slot && place == a.place)
    | none => false
  if other then some 4
  else if (if a.exclusive then 131072 else 16384) ≤ a.lines.length then some 3
  else if 131072 ≤ s.linesUsed die then some 1
  else none

/-- The trigger of a draw of a pool frame by another activation of a partition whose exclusive letter is served (R389). -/
def State.frameReserved (s : State) (a : Act) : Bool :=
  s.served.any fun e => e.2.1 == a.p && !(e.2.2.1 == a.slot && e.2.2.2 == a.place)

/-- A line of 64 KiB pages in DRAM may be promoted (R106). -/
def Leaf.promotes (l : Leaf) : Bool := l.size == 65536 && sramTop ≤ l.addr

/-- Promotion of a page to a scaffold page (R106): the committed page copied, its entries merged in and released, every line of
it in the read signature (R108). -/
def State.promote (s : State) (a va : Nat) (l : Leaf) : Wrote :=
  match s.acts.find? a, stackOf l.addr with
  | some k, some (stack, _) =>
    if (List.range 1024).any fun i => s.lockedLine a (l.addr + 64 * i) then .wait s
    else if s.frameReserved k then .gone (s.capacity a 4)
    else
      match s.drawFrame k.p stack with
      | none => .gone (s.capacity a 2)
      | some (f, s1) =>
        let vp := va / 65536
        let old := k.lines.filter fun e => e.1 / 1024 == vp
        let cells : List (Nat × Byte) := old.flatMap fun e => e.2.bytes.map fun b => (e.1 % 1024 * 64 + b.1, b.2)
        let mem := cells.foldl (fun (m : Mem) c => m.set (f + c.1) c.2) (s1.dram.copy f l.addr 65536)
        let written := cells.foldl (fun (t : Tbl Byte) c => t.set c.1 c.2) []
        let rs := (List.range 1024).foldl (fun g i => sigSet g (vp * 65536 + 64 * i)) k.rsig
        let (lf, ll) := (f / 64, l.addr / 64)
        let marks := (s1.poison.filter fun n => !(lf ≤ n && n < lf + 1024)) ++
          ((s1.poison.filter fun n => ll ≤ n && n < ll + 1024).map fun n => n - ll + lf)
        .ok ({ s1 with dram := mem, poison := marks }.modAct a fun k =>
          { k with
            lines := k.lines.filter fun e => !(e.1 / 1024 == vp)
            pages := k.pages.set vp ⟨f, l, written⟩
            rsig := rs })
  | _, _ => .ok s

/-- The bytes present of a masked write at an address. -/
def maskedAt (a : Nat) (bs : List (Option Byte)) : List (Nat × Byte) :=
  bs.zipIdx.filterMap fun b => b.1.map fun x => (a + b.2, x)
def Mem.writeMasked (m : Mem) (a : Nat) (bs : List (Option Byte)) : Mem := (maskedAt a bs).foldl (fun m c => m.set c.1 c.2) m

/-- Bytes written into the scaffold within one line (R106), after the check; the write signature is set (R108). A promotion that must wait
leaves the line unwritten. -/
def State.scaffoldPut (s : State) (a va pa : Nat) (l : Leaf) (bs : List (Option Byte)) : Wrote :=
  match s.acts.find? a with
  | none => .ok s
  | some k =>
    let put (t : Tbl Byte) (base : Nat) : Tbl Byte := (maskedAt base bs).foldl (fun t c => t.set c.1 c.2) t
    match k.pages.find? (va / 65536) with
    | some g =>
      let s1 := { s with dram := s.dram.writeMasked (g.frame + va % 65536) bs }
      .ok (s1.modAct a fun k => { k with
        wsig := sigSet k.wsig va
        pages := k.pages.set (va / 65536) { g with written := put g.written (va % 65536) } })
    | none =>
      match k.lines.find? (va / 64) with
      | some e =>
        .ok (s.modAct a fun k => { k with
          wsig := sigSet k.wsig va
          lines := k.lines.set (va / 64) { e with bytes := put e.bytes (va % 64) } })
      | none =>
        match s.lineTrigger k with
        | some t => .gone (s.capacity a t)
        | none =>
          let s1 := s.modAct a fun k => { k with
            wsig := sigSet k.wsig va
            lines := k.lines.set (va / 64) ⟨put [] (va % 64), pa / 64 * 64, l⟩ }
          let inPage := (k.lines.filter fun e => e.1 / 1024 == va / 65536).length + 1
          if l.promotes && 32 ≤ inPage then match s1.promote a va l with
            | .wait _ => .wait s
            | r => r
          else .ok s1

/-! ## Accesses (R164) -/

/-- What one access answers. -/
inductive Access where
  /-- done, with the value read and the label that denied it, if one did -/
  | ok (v : Nat) (denied : Option (BitVec 16)) (s : State)
  | trap (t : Trap) (s : State)
  /-- the line is locked, or its read never completes: the access waits -/
  | wait (s : State)
  /-- the activation is gone -/
  | gone (s : State)
  deriving DecidableEq, Repr

/-- The storage behind TCM and scratchpad. -/
def State.tcmOf (s : State) (c : Nat) : Mem :=
  match s.ctxs.find? c with
  | some k => k.tcm
  | none => []
def scratchKey (cluster off : Nat) : Nat := 4194304 * cluster + off

/-! ## Order inside an activation (R103 to R105, R115 to R118; log 5) -/

/-- An agent sees a write it performed, saw or acquired (R103); an engine also what `fence.xd` made visible (R117). -/
def Stale.visible (e : Stale) (ag : Agent) : Bool := e.seen.contains ag.viewer || (ag.ctx.isNone && e.pub)

/-- Byte i of a read at `va` lies in the write. -/
def Stale.covers (e : Stale) (b : Nat) : Bool := e.va ≤ b && (e.old[b - e.va]?).any fun x => x != .untouched
/-- What a reader that does not see the write reads, where `now` is committed. -/
def Stale.oldByte (e : Stale) (b : Nat) (cur com : Byte) : Byte :=
  match e.old[b - e.va]? with
  | some .committed => com
  | some (.byte x) => x
  | _ => cur

/-- The agent of a number has seen a write. -/
def Stale.see (e : Stale) (m : Nat) : Stale := if e.seen.contains m then e else { e with seen := m :: e.seen }

/-- Does the value of a release lie at some of n bytes of an activation? -/
def Release.meets (r : Release) (act va n : Nat) : Bool := r.act == act && va < r.va + r.size && r.va < va + n
/-- Releases in force at an address. -/
def State.inForce (s : State) (act va n : Nat) : List Release := s.releases.filter fun r => r.meets act va n
/-- Their numbers. -/
def State.tokensAt (s : State) (act va n : Nat) : List Nat := (s.inForce act va n).map fun r => r.tok

/-- A read sees each write not ordered before it old or new, whole (R102), and never an older value than one seen before
(R103). `com` holds the committed bytes, `settled` marks the bytes settled by a newer write, `heard` the releases whose values are read: for a
write seen old, those it replaced. -/
def State.viewFrom (s : State) (ag : Agent) (va : Nat) (bs com : List Byte) (settled : List Bool) (heard : List Release)
    (before after : List Stale) : List Byte × List Release × State :=
  match after with
  | [] => (bs, heard, { s with stale := before.reverse })
  | e :: r =>
    let touches := (List.range bs.length).any fun i => e.covers (va + i) && !settled.getD i true
    if e.act != ag.act || !touches then s.viewFrom ag va bs com settled heard (e :: before) r
    else
      let settle := settled.mapIdx fun i b => b || e.covers (va + i)
      if e.visible ag then s.viewFrom ag va bs com settle heard (e :: before) r
      else
        let (old, s1) := s.choose
        if old then
          let bs' := bs.mapIdx fun i b =>
            if e.covers (va + i) && !settled.getD i true then e.oldByte (va + i) b (com.getD i 0) else b
          let heard' := (heard.filter fun q => !q.meets e.act e.va e.old.length) ++ e.rels.filter fun q => q.meets e.act va bs.length
          s1.viewFrom ag va bs' com settled heard' (e :: before) r
        else
          s1.viewFrom ag va bs com settle heard (e.see ag.viewer :: before) r

/-- A context remembers the releases whose values a plain load of it has read (R115). -/
def State.hears (s : State) (ag : Agent) (toks : List Nat) : State :=
  match ag.ctx with
  | some c => s.modCtx c fun k => { k with heard := toks ++ k.heard }
  | none => s

/-- The bytes an agent reads of the present ones and the committed ones; a context remembers the releases whose values it read (R105,
R115). -/
def State.view (s : State) (ag : Agent) (va : Nat) (bs com : List Byte) : List Byte × State :=
  let (r, heard, s1) := s.viewFrom ag va bs com (bs.map fun _ => false) (s.inForce ag.act va bs.length) [] s.stale
  (r, s1.hears ag (heard.map Release.tok))

/-- Every write a member has performed or acquired, and every atomic of its in the mesh, stands before a release (R105 b). -/
def State.markTok (s : State) (act member tok : Nat) : State :=
  { s with
    stale := s.stale.map fun e => if e.act == act && e.seen.contains member then { e with toks := tok :: e.toks } else e
    transit := s.transit.map fun t => if t.issuers.contains (act, member) then { t with toks := tok :: t.toks } else t }

/-- A member sees the writes that stand before a release. -/
def State.seeToks (s : State) (act member : Nat) (toks : List Nat) : State :=
  { s with stale := s.stale.map fun e => if e.act == act && toks.any e.toks.contains then e.see member else e }

/-- A release writes its value at an address; a value of an atomic leaves older releases in force (R105 a). -/
def State.releaseAt (s : State) (act va n tok : Nat) : State :=
  { s with releases := ⟨act, va, n, tok⟩ :: s.releases }

/-! ## Atomics of other contexts still in the mesh (R119, R229) -/

/-- The new value of an atomic on w bits, or none for a comparison that fails (R227). -/
def amoNew (op : AmoOp) (w : Nat) (o v e : Nat) : Option Nat :=
  let s := toSigned w
  match op with
  | .add => some ((o + v) % 2 ^ w)
  | .and => some (o &&& v)
  | .or => some (o ||| v)
  | .xor => some (o ^^^ v)
  | .min => some (if s v < s o then v else o)
  | .max => some (if s o < s v then v else o)
  | .minu => some (if v < o then v else o)
  | .maxu => some (if o < v then v else o)
  | .swap => some v
  | .cas => if o = e then some v else none
  | .fadd => some (fadd (BitVec.ofNat 32 o) (BitVec.ofNat 32 v)).1.toNat

/-- Holds on serials end (R226, R231). -/
def State.unhold (s : State) (gone : List Nat) : State :=
  { s with ctxs := s.ctxs.mapVals fun _ k =>
      { k with
        acqHold := k.acqHold.filter fun n => !gone.contains n
        fenceHold := k.fenceHold.filter fun n => !gone.contains n
        cycleHold := k.cycleHold.filter fun n => !gone.contains n } }

/-- The value an atomic returns sets out for its register (R119, R229); its reader has read what the releases there wrote (R115). -/
def State.answerAmo (s : State) (t : InTransit) (old : Nat) : State :=
  match t.reader with
  | none => s
  | some (act, member, va) =>
    let toks := s.tokensAt act va t.size
    let (d, s1) := s.delay
    let value (w : RegWrite) : RegWrite := match w with
      | .x r _ => .x r (BitVec.ofNat 64 old)
      | w => w
    let answer (r : VRes) : VRes :=
      if t.serials.contains r.serial then { r with due := some (s.clock + 1 + d), ws := r.ws.map value } else r
    { s1 with ctxs := s1.ctxs.mapVals fun _ k =>
        if k.act == act && k.member == member then { k with heard := toks ++ k.heard, vres := k.vres.map answer } else k }

/-- A request reaches its home slice and is applied (R119): what it acquires, its value, what it releases. -/
def State.applyAtomic (s : State) (t : InTransit) : State :=
  let old := s.dram.num t.pa t.size
  let s1 := (t.acqs.foldl (fun st q => st.seeToks q.1 q.2.1 (st.tokensAt q.1 q.2.2 t.size)) s).answerAmo t old
  let s2 := match amoNew t.op (8 * t.size) old (t.v.toNat % 2 ^ (8 * t.size)) t.e with
    | some n => { s1 with dram := s1.dram.setNum t.pa t.size n, releases := t.rels ++ s1.releases }
    | none => s1
  s2.unhold t.serials

/-- Requests arrive, and with an acquire among them those that stand before what it acquires. -/
def State.arriveN (fuel : Nat) (s : State) (f : InTransit → Bool) : State :=
  match fuel with
  | 0 => s
  | n + 1 =>
    match s.transit.filter f with
    | [] => s
    | go =>
      let toks := go.flatMap fun t => t.acqs.flatMap fun q => s.tokensAt q.1 q.2.2 t.size
      (go.foldl State.applyAtomic { s with transit := s.transit.filter fun t => !f t }).arriveN n fun t => toks.any t.toks.contains
/-- Requests of a member, or those due, arrive. -/
def State.arrive (s : State) (f : InTransit → Bool) : State := s.arriveN s.transit.length f

/-- A member acquires what stands before a release (R105). -/
def State.acquireToks (s : State) (act member : Nat) (toks : List Nat) : State :=
  (s.seeToks act member toks).arrive fun t => toks.any t.toks.contains

/-- A request of a member to bytes of these. -/
def InTransit.ownOf (t : InTransit) (act member pa n : Nat) : Bool :=
  t.issuers.contains (act, member) && pa < t.pa + t.size && t.pa < pa + n
/-- A context's accesses to one location take effect in program order (R103): its own atomics to these bytes arrive before it reads. -/
def State.ownFirst (s : State) (ag : Agent) (pa n : Nat) : State :=
  match ag.ctx with
  | some _ => s.arrive fun t => t.ownOf ag.act ag.member pa n
  | none => s

/-- Loads of a context to these bytes take no later value than now (R103). -/
def State.settleLoads (s : State) (ag : Agent) (va n : Nat) : State :=
  let meets (q : Reload) : Bool := q.units.any fun u => va < u.1 + u.2 && u.1 < va + n
  match ag.ctx with
  | some c => s.modCtx c fun k =>
      if k.vres.any fun r => r.again.any meets then { k with vres := k.vres.map fun r => { r with again := r.again.filter fun q => !meets q } }
      else k
  | none => s
/-- Every load of a context has been performed (R105 b, R226). -/
def Ctx.settleAll (k : Ctx) : Ctx := { k with vres := k.vres.map fun r => { r with again := [] } }

/-- A write is performed: other agents may not see it yet. A plain write ends the releases at its address, and is itself a
release after a gang or device fence (R115). -/
def State.noteWrite (s : State) (ag : Agent) (va : Nat) (old : List Before) : State :=
  let n := old.length
  let e : Stale :=
    { act := ag.act, va := va, old := old, engine := if ag.ctx.isSome then none else some (ag.member, ag.tag), seen := [ag.viewer]
      rels := s.inForce ag.act va n }
  let s1 := { s with stale := e :: s.stale, releases := s.releases.filter fun r => !r.meets ag.act va n }
  match ag.ctx.bind s.ctxs.find? with
  | some k =>
    match k.fenceTok with
    | some tok => s1.releaseAt ag.act va n tok
    | none => s1
  | none => s1

/-- A failed check as a trap of an instruction. -/
def mkTrap (code : Nat) (course : Course) (va : Nat) : Trap := { code := code, badaddr := some (BitVec.ofNat 64 va), course := course }

/-- The bytes before a write of the activation's own: its own earlier ones, or the committed ones (R107). -/
def Act.before (a : Act) (va : Nat) (bs : List (Option Byte)) : List Before :=
  bs.mapIdx fun i b => match b with
    | none => .untouched
    | some _ => match a.ownByte (va + i) with
      | some x => .byte x
      | none => .committed

/-! ## Scratchpad banks (R83) -/

/-- The words of n bytes at a scratchpad offset. -/
def wordsAt (off n : Nat) : List Nat := (List.range ((off % 4 + n + 3) / 4)).map fun i => off / 4 + i
/-- The bank and the row of a word (R83). -/
def bankOf (word : Nat) : Nat := word % 64
def bankRow (word : Nat) : Nat := word / 64
/-- The first of some requesters in the rotation after the one a bank served last. -/
def Bank.first (b : Bank) (rs : List Nat) : Option Nat :=
  rs.foldl (fun w r => match w with
    | some x => if (r + 18 - b.last) % 19 < (x + 18 - b.last) % 19 then some r else some x
    | none => some r) none
/-- A bank serves one word in a cycle; those refused in the last cycle come first, then those that ask in this one (log 46). -/
def Bank.grants (b : Bank) (now r row : Nat) (asks : List Nat) : Bool :=
  if b.busy == now + 1 then b.last == r && b.row == row
  else
    match (b.refused.filter fun x => x.2 + 1 == now).map Prod.fst with
    | [] => b.first (r :: asks) == some r
    | old => b.first old == some r
/-- A bank after a request it granted or refused. -/
def Bank.answer (b : Bank) (now r row : Nat) (granted : Bool) : Bank :=
  if granted then { b with busy := now + 1, last := r, row := row, refused := b.refused.filter fun x => x.1 != r }
  else { b with refused := (r, now) :: b.refused.filter fun x => x.1 != r && now ≤ x.2 + 1 }
/-- A requester asks for words, all of them in this cycle or none (R84); a refusal of a core is counted (R321). -/
def State.askBanks (s : State) (cluster r : Nat) (words : List Nat) : Bool × State :=
  let k := s.cluster cluster
  let asksOf (b : Nat) : List Nat := (k.asks.filter fun x => x.1 == b).map Prod.snd
  let ok := words.all fun w => (k.banks.get (bankOf w) {}).grants s.clock r (bankRow w) (asksOf (bankOf w))
  let s1 := s.modCluster cluster fun k =>
    { k with banks := words.foldl (fun t w => t.set (bankOf w) ((t.get (bankOf w) {}).answer s.clock r (bankRow w) ok)) k.banks }
  (ok, if !ok && r < 16 then s1.modCore (16 * cluster + r) fun q => q.bump 5 1 else s1)
/-- The banks of an agent's access. -/
def State.enterBanks (s : State) (ag : Agent) (off n : Nat) : Bool × State :=
  match ag.port with
  | some r => s.askBanks ag.cluster r (wordsAt off n)
  | none => (true, s)

/-- A read of a poisoned line of a parcelled tile does not complete; its owner has been killed (R383). -/
def State.scratchPoisoned (s : State) (ag : Agent) (off n : Nat) : Bool :=
  ((s.cluster ag.cluster).poison.any fun l => l * 64 < off + n && off < l * 64 + 64) &&
    (s.acts.find? ag.act).any fun a => !(a.areaBase ≤ off && off + n ≤ a.areaBase + a.areaSize)
/-- A write of whole lines clears their marks (R383). -/
def State.cleanScratch (s : State) (cluster off n : Nat) : State :=
  s.modCluster cluster fun k => { k with poison := k.poison.filter fun l => !(off ≤ l * 64 && l * 64 + 64 ≤ off + n) }
def State.cleanLines (s : State) (pa n : Nat) : State :=
  { s with poison := s.poison.filter fun l => !(pa ≤ l * 64 && l * 64 + 64 ≤ pa + n) }
/-- scaffold_read of R164: of an atomic-class page the committed bytes. -/
def State.load (s0 : State) (ag : Agent) (va n : Nat) : Access :=
  let s := s0.settleLoads ag va n
  match s.check ag va n .read with
  | (.bad code course t, s1) => .trap (mkTrap code course va) (s1.noteTable ag va t)
  | (.ok (.tcm off), s1) => .ok ((s1.tcmOf (ag.ctx.getD 0)).num off n) none s1
  | (.ok (.scratch off), s0) =>
    if s0.scratchPoisoned ag off n then .wait s0
    else
    match s0.enterBanks ag off n with
    | (false, s1) => .wait s1
    | (true, s1) =>
      let old := s1.scratch.read (scratchKey ag.cluster off) n
      let (bs, s2) := s1.view ag va old old
      .ok (numOf bs) none s2
  | (.ok (.glob _ pa l), s1) =>
    match s1.acts.find? ag.act with
    | none => .gone s1
    | some a =>
      if l.atomic then
        if s1.lockedLine ag.act pa then .wait s1
        else if s1.poison.contains (pa / 64) then .wait (s1.poisonHit a.p l pa)
        else
          let s2 := s1.ownFirst ag pa n
          if a.denied l.label then .ok 0 (some l.label) s2
          else .ok (s2.dram.num pa n) none (s2.hears ag (s2.tokensAt ag.act va n))
      else
        let ph := a.linePa va pa
        if s1.lockedLine ag.act ph then .wait s1
        else if s1.poison.contains (ph / 64) && (List.range n).any (fun i => (a.ownByte (va + i)).isNone) then
          .wait (s1.poisonHit a.p l pa)
        else
          let s2 := s1.modAct ag.act fun k => { k with rsig := sigSet k.rsig va }
          if a.denied l.label then .ok 0 (some l.label) s2
          else
            let (bs, s3) := s2.view ag va (s2.readBytes a va ph n) (s2.dram.read ph n)
            .ok (numOf bs) none s3

/-- scaffold_write of R164, of the bytes present among those at `va` within one line. -/
def State.storeMasked (s0 : State) (ag : Agent) (va : Nat) (bs : List (Option Byte)) : Access :=
  let n := bs.length
  let s := s0.settleLoads ag va n
  match s.check ag va n .write with
  | (.bad code course t, s1) => .trap (mkTrap code course va) (s1.noteTable ag va t)
  | (.ok (.tcm off), s1) => .ok 0 none (s1.modCtx (ag.ctx.getD 0) fun k => { k with tcm := k.tcm.writeMasked off bs })
  | (.ok (.scratch off), s0) =>
    match s0.enterBanks ag off n with
    | (false, s1) => .wait s1
    | (true, s1) =>
      let key := scratchKey ag.cluster off
      let old := (bs.zip (s1.scratch.read key n)).map fun x => if x.1.isSome then Before.byte x.2 else .untouched
      let s2 := s1.noteWrite ag va old
      let s3 := if n = 64 && bs.all Option.isSome then s2.cleanScratch ag.cluster off 64 else s2
      .ok 0 none { s3 with scratch := s3.scratch.writeMasked key bs }
  | (.ok (.glob _ pa l), s1) =>
    match s1.acts.find? ag.act with
    | none => .gone s1
    | some a =>
      let ph := a.linePa va pa
      if s1.lockedLine ag.act ph then .wait s1
      else
        match (s1.noteWrite ag va (a.before va bs)).scaffoldPut ag.act va pa l bs with
        | .ok s3 => .ok 0 none s3
        | .wait _ => .wait s1
        | .gone s3 => .gone s3

/-- scaffold_write of R164 of the low n bytes of d. -/
def State.store (s : State) (ag : Agent) (va n d : Nat) : Access := s.storeMasked ag va ((bytesOf n d).map some)

/-! ## Watches and denials -/

/-- A store watch of the core (R319): an enabled watch whose dword the bytes touch, for this context. -/
def Core.watches (k : Core) (ctx va n : Nat) : Bool :=
  (k.bp.zipIdx).any fun b =>
    b.1.getLsbD 0 && b.1.getLsbD 1 && (b.1.getLsbD 2 || bits k.bpctx (3 * b.2) 3 == ctx % 8) &&
    va / 8 ≤ bits b.1 3 61 && bits b.1 3 61 ≤ (va + n - 1) / 8

/-- The core stops after an instruction whose store a watch matches (R319). -/
def State.watch (s : State) (c va n : Nat) : State :=
  if (s.core (coreOf c)).watches c va n then s.modCore (coreOf c) fun k => { k with watched := c :: k.watched } else s


/-- A context's denial: its record, and the wait for room in the ring (R351). -/
def State.deny (s : State) (c : Nat) (pc : Word) (addr which : Nat) (label : BitVec 16) : State :=
  match s.ctxs.find? c with
  | none => s
  | some k =>
    let (s1, ok) := s.denyRecord k.act c pc addr which label 0 false false 0
    if ok then s1
    else s1.modCtx c fun k => { k with pause := some (if k.pause = some .callx then .callxRecord else .record) }

end Sys2Proof.Machine
end

