-- ==== Sys2Proof/Machine/Operands.lean ====
section
/-! DEFINITION. Operand forms: what each shape of operand reads and writes, when an instruction is eligible (R76, R152, R226,
R231), and the frame every instruction runs in: slot, guard, empty read, body (R150). -/

namespace Sys2Proof

namespace Machine

/-- A register with a full/empty bit (R153). -/
inductive Reg where
  | x (r : BitVec 6)
  | v (r : BitVec 5)
  deriving DecidableEq, Repr

/-- Which hold of an acquire or a fence applies to an instruction (R226, R231). -/
inductive Cls where
  | plain | mem | engine | tagWait | actor | cycle
  deriving DecidableEq, Repr

/-- What an instruction needs before it issues (R76): sources with the trap information of an empty-action of 1 (R352), the
register destination, whether its latency is variable (R152), its class, the engine room it waits for. -/
structure Need where
  srcs : List (Reg × Option Nat)
  dest : Option Reg := none
  var : Bool := false
  cls : Cls := .plain
  room : State → Nat → Ctx → Bool := fun _ _ _ => true
  /-- the tag it names is held by no uncompleted command (R235) -/
  tag : State → Ctx → Bool := fun _ _ => true

/-- Source B, source C, and a source read with empty-action 0 (R147, R148). -/
def srcB (m : Mods) (r : Reg) : Reg × Option Nat := (r, if m.eaB then some 1 else none)
def srcC (m : Mods) (r : Reg) : Reg × Option Nat := (r, if m.eaC then some 2 else none)
def srcA (r : Reg) : Reg × Option Nat := (r, none)

/-- Is a register full? -/
def Ctx.full (k : Ctx) (r : Reg) : Bool :=
  match r with
  | .x r => k.fullX.getLsbD r.toNat
  | .v r => k.fullV.getLsbD r.toNat

/-- A fixed-latency write to a register is outstanding (R152). -/
def Ctx.pendsTo (k : Ctx) (r : Reg) : Bool :=
  k.pend.any fun f => f.ws.any fun w =>
    match w, r with
    | .x a _, .x b => a == b
    | .v a _, .v b => a == b
    | _, _ => false

/-- The core of a context is halted (R317, R318). -/
def Core.halted (k : Core) : Bool := k.dbgctl.getLsbD 3

/-- The context holds a running member: RUN, no gap, its activation neither failed nor being saved (R70, R73, R76). -/
def State.runs (s : State) (k : Ctx) : Bool :=
  k.wait.isNone && k.pause.isNone && k.gap == 0 && k.start ≤ s.clock &&
  match s.acts.find? k.act with
  | some a => (s.part a.p).fatal.isNone && (match a.phase with
      | .failed _ _ => false
      | _ => true) &&
    (match a.member? k.member with
     | some m => !m.saving || k.slot.isSome
     | none => false)
  | none => true

/-- Eligibility for an instruction (R76, R152, R226, R231). -/
def State.eligible (s : State) (c : Nat) (k : Ctx) (n : Need) : Bool :=
  s.runs k &&
  n.srcs.all (fun r => r.2.isSome || k.full r.1) &&
  (match n.dest with
   | some r => k.full r && !(n.var && k.pendsTo r)
   | none => true) &&
  (match n.cls with
   | .plain => true
   | .mem => k.acqHold.isEmpty && k.fenceHold.isEmpty
   | .engine => k.acqHold.isEmpty && k.fenceHold.isEmpty
   | .actor => k.acqHold.isEmpty && k.fenceHold.isEmpty
   | .tagWait => k.fenceHold.isEmpty
   | .cycle => k.cycleHold.isEmpty) &&
  n.room s c k && n.tag s k

/-- The pending list of a context holds eight entries (R324). -/
def Ctx.addSample (k : Ctx) (r : BitVec 256) : Ctx := { k with samples := (k.samples ++ [r]).drop (k.samples.length + 1 - 8) }

/-- What issuing does whatever the instruction: gap and switch-away mark (R77), counters (R321), samples (R324). -/
def State.charge (s : State) (c : Nat) (gap : Nat) (sw : Bool) : State :=
  match s.ctxs.find? c with
  | none => s
  | some k =>
    let s1 := s.modCtx c fun k => { k with gap := gap }
    let core := s.core (coreOf c)
    let s2 := s1.setCore (coreOf c) { core.bump 1 1 with
      issued := core.issued + 1, waits := setAt core.waits (c % 8) 0, marks := setBit core.marks (c % 8) sw }
    match s.acts.find? k.act with
    | none => s2
    | some a =>
      let sh := bits ((s.part a.p).word 0x228) 1 5
      if 10 ≤ sh && sh ≤ 20 && (core.issued + 1) % 2 ^ sh == 0 then
        s2.modCtx c fun k => k.addSample (mkTrace (BitVec.ofNat 64 s.now) k.pc a.letter.postmark a.slot c 7 false (2 ^ sh))
      else s2

/-- Whether an instruction is a control transfer, an `eret`, or neither (R150 step 5, R352). -/
inductive Ctl where
  | none | transfer | eret
  deriving DecidableEq, Repr

/-- The first empty source whose empty-action is 1: the info of its trap (R352). -/
def Ctx.emptyInfo (k : Ctx) (n : Need) : Option Nat :=
  n.srcs.findSome? fun r => if k.full r.1 then none else r.2

/-- Steps 5 to 7 of R150 for the issuing context: an ineligible context waits, a transfer in a slot traps, a false guard moves
on, an empty read traps, and the body runs. -/
def issue (m : Mods) (n : Need) (ctl : Ctl) (s : State) (body : Nat → Ctx → State → State) : Out :=
  match s.cur with
  | none => .fault .noIssuingContext
  | some c =>
    match s.ctxs.find? c with
    | none => .fault .noIssuingContext
    | some k =>
      if !s.eligible c k n then .next s
      else
        let s1 := s.charge c m.gap.toNat m.sw
        if ctl != .none && k.slot.isSome then .next (s1.raise c { code := cIllegalSlot })
        else if k.pr m.guard == m.sense then
          .next (s1.modCtx c fun k => if ctl == .transfer then k.transfer (k.pc + 24) else k.advance)
        else
          match k.emptyInfo n with
          | some i => .next (s1.raise c { code := cEmptyRead, info := i })
          | none => .next (body c k s1)

/-- The agent a context is. -/
def agentOf (c : Nat) (k : Ctx) : Agent := { act := k.act, ctx := some c, cluster := clusterOf c, member := k.member, port := some (coreOf c % 16) }

/-! ## Room for a command -/

/-- The divide unit of a core holds two operations (R177). -/
def divRoom (s : State) (c : Nat) (_ : Ctx) : Bool :=
  s.ctxs.foldl (fun n kv => if coreOf kv.1 == coreOf c then n + (kv.2.vres.filter fun r => r.kind == .divide).length else n) 0 < 2
/-- The slot tags of a subscription (R98). -/
def Sub.holdsTag (u : Sub) (t : Nat) : Bool := u.tagbase ≤ t && t < u.tagbase + u.nslots
def Member.subTag (m : Member) (t : Nat) : Bool := m.subs.any fun u => u.2.holdsTag t
def State.memberOf (s : State) (k : Ctx) : Option Member :=
  match s.acts.find? k.act with
  | some a => a.member? k.member
  | none => none
/-- A tag held by an uncompleted command of the tile task holds the command back (R235). -/
def tagFree (t : Nat) (s : State) (k : Ctx) : Bool :=
  match s.memberOf k with
  | some m => !m.held.getLsbD t
  | none => true
/-- The courier's 64 entries (R237). -/
def cpRoom (s : State) (c : Nat) (_ : Ctx) : Bool := (s.cluster (clusterOf c)).courier.length < 64
/-- The 256 commands of a die's fabric couriers (R240). -/
def fabRoom (s : State) (c : Nat) (_ : Ctx) : Bool := (s.fab.filter fun f => f.die == dieOfCluster (clusterOf c)).length < 256
/-- The format context of a core is free for an `mx.ctx` of this context, held by it, or franked (R258, R284). -/
def State.fctxOf (s : State) (c : Nat) : Fctx := (s.cluster (clusterOf c)).fctxs.get (coreOf c % 16) {}
def Fctx.holds (f : Fctx) (k : Ctx) : Bool := f.holder == some (k.act, k.member)
/-- The image of a restored member loads before its first matrix instruction (R259). -/
def imageOk (s : State) (c : Nat) (k : Ctx) : Bool :=
  match s.memberOf k with
  | some m => m.image.isNone || ((s.fctxOf c).holder.isNone && !(s.fctxOf c).franked)
  | none => true
/-- The tag of a matrix command is held by no command and by no subscription (R235, R266). -/
def mxTagFree (t : MxTail) (s : State) (k : Ctx) : Bool :=
  match t.tag with
  | some n => tagFree n.toNat s k && !(s.memberOf k).any fun m => m.subTag n.toNat
  | none => true
/-- The queue a far command goes to, of the format context that the entry its capability names serves (R281, R282), has room, if there is such
a queue. -/
def capCluster (cap : Word) : Nat := bits cap 11 5 * 16 + bits cap 7 4
def Cluster.frankedBy (k : Cluster) (cap : Word) : Option Nat := (k.frank.find? (bits cap 32 8)).map fun e => (e.extractLsb' 36 4).toNat
/-- Far commands on their way to a format context. -/
def State.farInFlight (s : State) (cl f : Nat) : Nat :=
  (s.timers.filter fun t => match t.2 with
    | .frankedCommandArrival n c => n == cl && c.cap.any fun cap => (s.cluster cl).frankedBy cap == some f
    | _ => false).length
def State.farRoom (s : State) (cap : Word) : Bool :=
  let cl := capCluster cap
  match (s.cluster cl).frankedBy cap with
  | some f => ((s.cluster cl).fctxs.get f {}).queue.length + s.farInFlight cl f < 8
  | none => true
/-- Room in the queue of a command (R266). -/
def mxRoom (t : MxTail) (s : State) (c : Nat) (k : Ctx) : Bool :=
  imageOk s c k && match t.far with
    | some r => s.farRoom (k.xr r)
    | none => (s.fctxOf c).queue.length < 8
/-- A format context some valid entry of the franking table names (R281, R283): dword 0 of an entry is its low half. -/
def Cluster.frankValid (k : Cluster) (f : Nat) : Bool :=
  k.frank.any fun e => e.2.getLsbD 0 && (e.2.extractLsb' 36 4).toNat == f
def State.frankBars (s : State) (c : Nat) : Bool := (s.fctxOf c).franked || (s.cluster (clusterOf c)).frankValid (coreOf c % 16)
/-- A local `mx.ctx` also waits while another thread context holds the format context (R258), unless franking bars it (R283). -/
def mxCtxRoom (t : MxTail) (s : State) (c : Nat) (k : Ctx) : Bool :=
  mxRoom t s c k &&
    (t.far.isSome || s.frankBars c || (s.fctxOf c).holder.isNone || (s.fctxOf c).holds k)
def farSrc (t : MxTail) : List (Reg × Option Nat) :=
  match t.far with
  | some r => [srcA (.x r)]
  | none => []

end Machine

/-! ## The needs of the operand shapes -/

open Machine

/-- A broadcast scalar or a vector register (R202). -/
def VX.reg (c : VX) : Reg :=
  match c with
  | .v r => .v r
  | .x r => .x r

def XXX.need (o : XXX) : Need := { srcs := [srcB o.m (.x o.b), srcC o.m (.x o.c)], dest := some (.x o.a) }
/-- A form that also reads A (R147). -/
def XXX.need3 (o : XXX) : Need :=
  { srcs := [srcB o.m (.x o.b), srcC o.m (.x o.c), srcA (.x o.a)], dest := some (.x o.a) }
def XXX.needDiv (o : XXX) : Need :=
  { srcs := [srcB o.m (.x o.b), srcC o.m (.x o.c)], dest := some (.x o.a), var := true, room := divRoom }
def SelOp.need (o : SelOp) : Need := { srcs := [srcB o.m (.x o.b), srcC o.m (.x o.c)], dest := some (.x o.a) }
def XX.need (o : XX) : Need := { srcs := [srcB o.m (.x o.b)], dest := some (.x o.a) }
def XX.needDiv (o : XX) : Need := { srcs := [srcB o.m (.x o.b)], dest := some (.x o.a), var := true, room := divRoom }
def XXImm.need (o : XXImm) : Need := { srcs := [srcB o.m (.x o.b)], dest := some (.x o.a) }
def XXSh.need (o : XXSh) : Need := { srcs := [srcB o.m (.x o.b)], dest := some (.x o.a) }
/-- `li`, `call`: A is a destination only. -/
def XImm.need (o : XImm) : Need := { srcs := [], dest := some (.x o.a) }
/-- `lih`, `loop`: A is read and written. -/
def XImm.needRW (o : XImm) : Need := { srcs := [srcA (.x o.a)], dest := some (.x o.a) }
/-- `jmp`: A is a source. -/
def XImm.needR (o : XImm) : Need := { srcs := [srcA (.x o.a)] }
def LeaOp.need (o : LeaOp) : Need := { srcs := [srcB o.m (.x o.b), srcC o.m (.x o.c)], dest := some (.x o.a) }
def PXX.need (o : PXX) : Need := { srcs := [srcB o.m (.x o.b), srcC o.m (.x o.c)] }
def PXImm.need (o : PXImm) : Need := { srcs := [srcB o.m (.x o.b)] }
/-- Shapes without a scalar or vector register. -/
def noNeed : Need := { srcs := [] }
def XOp.needR (o : XOp) : Need := { srcs := [srcA (.x o.a)] }
def CvtOp.need (o : CvtOp) : Need := { srcs := [srcB o.m (.x o.b)], dest := some (.x o.a) }
/-- A merge reads the old destination (R202, R215). -/
def VMask.merges (k : VMask) : Bool :=
  match k with
  | .all => false
  | .on zi _ => !zi
/-- Masked vector forms: under merge the old A is read. -/
def mergeA (k : VMask) (a : BitVec 5) : List (Reg × Option Nat) := if k.merges then [srcA (.v a)] else []
def V3.need (o : V3) : Need :=
  { srcs := [srcB o.m (.v o.b), srcC o.m (VX.reg o.c)] ++ mergeA o.k o.a, dest := some (.v o.a) }
def V3.need3 (o : V3) : Need :=
  { srcs := [srcB o.m (.v o.b), srcC o.m (VX.reg o.c), srcA (.v o.a)], dest := some (.v o.a) }
def V2.need (o : V2) : Need := { srcs := [srcB o.m (.v o.b)] ++ mergeA o.k o.a, dest := some (.v o.a) }
def VShOp.need (o : VShOp) : Need :=
  { srcs := [srcB o.m (.v o.b)] ++ (match o.c with
      | .v r => [srcC o.m (.v r)]
      | .x r => [srcC o.m (.x r)]
      | .imm _ => []) ++ mergeA o.k o.a
    dest := some (.v o.a) }
def VCmpOp.need (o : VCmpOp) : Need := { srcs := [srcB o.m (.v o.b), srcC o.m (VX.reg o.c)] }
def VSelOp.need (o : VSelOp) : Need := { srcs := [srcB o.m (.v o.b), srcC o.m (.v o.c)], dest := some (.v o.a) }
def VSplatOp.need (o : VSplatOp) : Need := { srcs := [srcB o.m (.x o.b)] ++ mergeA o.k o.a, dest := some (.v o.a) }
def VSplatI.need (o : VSplatI) : Need := { srcs := [], dest := some (.v o.a) }
def xnSrc (m : Mods) (n : XN) : List (Reg × Option Nat) :=
  match n with
  | .x r => [srcC m (.x r)]
  | .imm _ => []
def VExtOp.need (o : VExtOp) : Need := { srcs := [srcB o.m (.v o.b)] ++ xnSrc o.m o.n, dest := some (.x o.a) }
def VInsOp.need (o : VInsOp) : Need :=
  { srcs := [srcB o.m (.x o.b)] ++ xnSrc o.m o.n ++ [srcA (.v o.a)], dest := some (.v o.a) }
def VVV.need (o : VVV) : Need :=
  { srcs := [srcB o.m (.v o.b), srcC o.m (.v o.c)] ++ mergeA o.k o.a, dest := some (.v o.a) }
def VVV.need3 (o : VVV) : Need :=
  { srcs := [srcB o.m (.v o.b), srcC o.m (.v o.c), srcA (.v o.a)], dest := some (.v o.a) }
def VShufOp.need (o : VShufOp) : Need :=
  { srcs := [srcB o.m (.v o.b), srcC o.m (.v o.c)] ++ mergeA o.k o.a, dest := some (.v o.a) }
def VRotOp.need (o : VRotOp) : Need :=
  { srcs := [srcB o.m (.v o.b)] ++ xnSrc o.m o.n ++ mergeA o.k o.a, dest := some (.v o.a) }
def VRedOp.need (o : VRedOp) : Need := { srcs := [srcB o.m (.v o.b)], dest := some (.x o.a) }
def XM.need (o : XM) : Need := { srcs := [], dest := some (.x o.a) }
def MSetOp.need (o : MSetOp) : Need :=
  { srcs := match o.s with
      | .x r => [srcB o.m (.x r)]
      | .imm _ => [] }
/-- A is read when the destination type is narrower than 32 bits (R214), or under merge. -/
def VCvtOp.need (o : VCvtOp) : Need :=
  { srcs := [srcB o.m (.v o.b)] ++
      (if o.k.merges || vtypeWidth o.dst < 32 then [srcA (.v o.a)] else [])
    dest := some (.v o.a) }
def VLf8Op.need (o : VLf8Op) : Need := { srcs := [srcB o.m (.v o.b)] ++ mergeA o.k o.a, dest := some (.v o.a) }
def VMemOp.needL (o : VMemOp) : Need :=
  { srcs := [srcB o.m (.x o.b)] ++ mergeA o.k o.a, dest := some (.v o.a), var := true, cls := .mem }
def VMemOp.needS (o : VMemOp) : Need := { srcs := [srcB o.m (.x o.b), srcA (.v o.a)], cls := .mem }
def VStrOp.needL (o : VStrOp) : Need :=
  { srcs := [srcB o.m (.x o.b), srcC o.m (.x o.c)] ++ mergeA o.k o.a, dest := some (.v o.a), var := true, cls := .mem }
def VStrOp.needS (o : VStrOp) : Need := { srcs := [srcB o.m (.x o.b), srcC o.m (.x o.c), srcA (.v o.a)], cls := .mem }
def VGsOp.needL (o : VGsOp) : Need :=
  { srcs := [srcB o.m (.x o.b), srcC o.m (.v o.c)] ++ mergeA o.k o.a, dest := some (.v o.a), var := true, cls := .mem }
def VGsOp.needS (o : VGsOp) : Need := { srcs := [srcB o.m (.x o.b), srcC o.m (.v o.c), srcA (.v o.a)], cls := .mem }
/-- Loads and stores (R223). -/
def XXImm.needL (o : XXImm) : Need := { srcs := [srcB o.m (.x o.b)], dest := some (.x o.a), var := true, cls := .mem }
def XXImm.needS (o : XXImm) : Need := { srcs := [srcB o.m (.x o.b), srcA (.x o.a)], cls := .mem }
/-- `pref` waits for a base of empty-action 0 and never traps on an empty one (R76, R225). -/
def PrefOp.need (o : PrefOp) : Need := { srcs := if o.m.eaB then [] else [srcA (.x o.b)], cls := .mem }
def AcqOp.needL (o : AcqOp) : Need := { srcs := [srcB o.m (.x o.b)], dest := some (.x o.a), var := true, cls := .mem }
def AcqOp.needS (o : AcqOp) : Need := { srcs := [srcB o.m (.x o.b), srcA (.x o.a)], cls := .mem }
/-- With destination x0 an atomic has no register result (R153, R228). -/
def AmoArgs.need (o : AmoArgs) : Need :=
  { srcs := [srcB o.m (.x o.b), srcC o.m (.x o.c)], dest := some (.x o.a), var := o.a != 0, cls := .mem }
/-- `cas` reads the expected value from A (R227). -/
def AmoArgs.needCas (o : AmoArgs) : Need :=
  { srcs := [srcB o.m (.x o.b), srcC o.m (.x o.c), srcA (.x o.a)], dest := some (.x o.a), var := o.a != 0, cls := .mem }
def AmoFArgs.need (o : AmoFArgs) : Need :=
  { srcs := [srcB o.m (.x o.b), srcC o.m (.x o.c)], dest := some (.x o.a), var := o.a != 0, cls := .mem }
/-- The entry load of `callx` (R187). -/
def XXImm.needCallx (o : XXImm) : Need := { srcs := [srcB o.m (.x o.b)], dest := some (.x o.a), cls := .mem }
/-- Tag waits, tag.first (R236). -/
def XX.needTag (o : XX) : Need := { srcs := [srcB o.m (.x o.b)], dest := some (.x o.a), var := true, cls := .tagWait }
def XX.needFirst (o : XX) : Need := { srcs := [srcB o.m (.x o.b)], dest := some (.x o.a), var := true }
def XN6.needTest (o : XN6) : Need := { srcs := [], dest := some (.x o.a), var := true }
def BarXOp.need (o : BarXOp) : Need := { srcs := [], dest := some (.x o.a), var := true }
def CpOp.need (o : CpOp) : Need :=
  { srcs := [srcB o.m (.x o.b), srcC o.m (.x o.c), srcA (.x o.a)], cls := .engine, room := cpRoom, tag := tagFree o.t.toNat }
def CpDecOp.need (o : CpDecOp) : Need :=
  { srcs := [srcB o.m (.x o.b), srcC o.m (.x o.c), srcA (.x o.a)], cls := .engine, room := cpRoom, tag := tagFree o.t.toNat }
def FabOp.need (o : FabOp) : Need :=
  { srcs := [srcB o.m (.x o.b), srcC o.m (.x o.c), srcA (.x o.a)], cls := .engine, room := fabRoom, tag := tagFree o.t.toNat }
def FabRedOp.need (o : FabRedOp) : Need :=
  { srcs := [srcB o.m (.x o.b), srcC o.m (.x o.c), srcA (.x o.a)], cls := .engine, room := fabRoom, tag := tagFree o.t.toNat }
/-- `cp.sub` (R244). -/
def XX.needSub (o : XX) : Need := { srcs := [srcB o.m (.x o.b)], dest := some (.x o.a), var := true, cls := .engine }
def XN6.needSlot (o : XN6) : Need := { srcs := [srcA (.x o.a)], cls := .engine }
/-- `cp.unsub`: its tag may be held by no command (R235). -/
def XN6.needUnsub (o : XN6) : Need :=
  { srcs := [srcA (.x o.a)], cls := .engine, tag := tagFree o.n.toNat }
/-- `snd`, `sndp`: both registers are sources (R245). -/
def XX.needSnd (o : XX) : Need := { srcs := [srcB o.m (.x o.b), srcA (.x o.a)], cls := .actor }
def SpawnOp.need (o : SpawnOp) : Need :=
  { srcs := [srcB o.m (.x o.b), srcC o.m (.x o.c)], dest := some (.x o.a), var := true, cls := .actor }
def XOp.needActor (o : XOp) : Need := { srcs := [srcA (.x o.a)], cls := .actor }
def actorNeed : Need := { srcs := [], cls := .actor }
/-- `rdsr`: engine state is variable-latency, sr.cycle waits for `fence.thr` (R231, R253). -/
def SysReg.variable (r : SysReg) : Bool := r == .tags || r == .tagerr || r == .progress
def SrOp.needR (o : SrOp) : Need :=
  { srcs := [], dest := some (.x o.a), var := o.r.variable, cls := if o.r == .cycle then .cycle else .plain }
def SrOp.needW (o : SrOp) : Need := { srcs := [srcA (.x o.a)] }

def MxB.need (o : MxB) : Need := { srcs := [srcB o.m (.x o.b)] ++ farSrc o.tl, cls := .engine, room := mxCtxRoom o.tl, tag := mxTagFree o.tl }
def MxCtxStOp.need (o : MxCtxStOp) : Need :=
  { srcs := [srcB o.m (.x o.b)] ++ farSrc o.tl, cls := .engine, room := mxRoom o.tl, tag := mxTagFree o.tl }
def MxT.need (o : MxT) : Need := { srcs := farSrc o.tl, cls := .engine, room := mxRoom o.tl, tag := mxTagFree o.tl }
def MxMm.need (o : MxMm) : Need :=
  { srcs := [srcB o.m (.x o.b), srcC o.m (.x o.c)] ++ farSrc o.tl, cls := .engine, room := mxRoom o.tl, tag := mxTagFree o.tl }
def MxConvOp.need (o : MxConvOp) : Need :=
  { srcs := [srcB o.m (.x o.b), srcC o.m (.x o.c)] ++ farSrc o.tl, cls := .engine, room := mxRoom o.tl, tag := mxTagFree o.tl }
def MxLdSt.need (o : MxLdSt) : Need :=
  { srcs := [srcB o.m (.x o.b)] ++ farSrc o.tl, cls := .engine, room := mxRoom o.tl, tag := mxTagFree o.tl }
def mxPriNeed : Need := { srcs := [], cls := .engine, room := imageOk }

end Sys2Proof
end

