-- ==== Sys2Proof/Machine/Control.lean ====
section
/-! DEFINITION. The control transfers (R184 to R190). -/

namespace Sys2Proof.Machine

/-- A taken transfer: the slot, then the target (R154), with its trace record when the core's btrace bit is set (R320). -/
def State.branch (s : State) (c : Nat) (target : Word) : State :=
  match s.ctxs.find? c with
  | none => s
  | some k =>
    let s1 := s.modCtx c fun k => k.transfer target
    if (s.core (coreOf c)).pmctl.getLsbD 36 then
      match s.acts.find? k.act with
      | some a => s1.trace a.p 6 k.pc a.letter.postmark a.slot c 0 false
      | none => s1
    else s1

/-- A transfer that is taken or not (R154). -/
def State.branchIf (s : State) (c : Nat) (k : Ctx) (taken : Bool) (target : Word) : State :=
  if taken then s.branch c target else s.modCtx c fun x => x.transfer (k.pc + 24)

/-- A displacement in instructions from the transfer's own address (R154). -/
def dispTarget (pc : Word) (imm : BitVec 32) : Word := pc + 12 * imm.signExtend 64

/-- sr.tags and sr.tagerr of the context's member (R234). -/
def State.tagsOf (s : State) (k : Ctx) : Word := ((s.memberOf k).map fun m => m.tags).getD 0
def State.tagerrOf (s : State) (k : Ctx) : Word := ((s.memberOf k).map fun m => m.tagerr).getD 0

def execBr (o : ImmOp) (s : State) : Out :=
  issue o.m noNeed .transfer s fun c k s => s.branch c (dispTarget k.pc o.imm)
def execJmp (o : XImm) (s : State) : Out :=
  issue o.m o.needR .transfer s fun c k s => s.branch c (k.xr o.a + o.imm.signExtend 64)
def execCall (o : XImm) (s : State) : Out :=
  issue o.m o.need .transfer s fun c k s => (s.result c 1 [.x o.a (k.pc + 24)]).branch c (dispTarget k.pc o.imm)
def execRet (o : XOp) (s : State) : Out :=
  issue o.m o.needR .transfer s fun c k s => s.branch c (k.xr o.a)

/-- `callx` (R187): the entry is read as an ordinary load; the link is written and the transfer made when the read completes
(execVariableResultWrite); until then the context issues nothing. -/
def execCallx (o : XXImm) (s : State) : Out :=
  issue o.m o.needCallx .transfer s fun c k s =>
    let ea := k.xr o.b + 8 * o.imm.setWidth 64
    if ea.toNat % 8 ≠ 0 then s.raise c { code := cMisaligned, badaddr := some ea }
    else
      match s.load (agentOf c k) ea.toNat 8 with
      | .trap t s1 => s1.raise c t
      | .wait s1 => s1
      | .gone s1 => s1
      | .ok v denied s1 =>
        let s2 := s1.fill c (.callx o.a (BitVec.ofNat 64 v) (k.pc + 24)) []
        let s3 := s2.modCtx c fun k => { k with pause := some .callx }
        match denied with
        | some l => s3.deny c k.pc ea.toNat 1 l
        | none => s3

/-- The condition of `brtag` on one snapshot of both registers (R188). -/
def opBrtag (o : TagBr) (f : Bool → Bool → Bool) (s : State) : Out :=
  issue o.m noNeed .transfer s fun c k s =>
    s.branchIf c k (f ((s.tagsOf k).getLsbD o.t.toNat) ((s.tagerrOf k).getLsbD o.t.toNat)) (k.pc + 12 * o.d.signExtend 64)
def execBrtagSet (o : TagBr) (s : State) : Out := opBrtag o (fun done _ => done) s
def execBrtagClr (o : TagBr) (s : State) : Out := opBrtag o (fun done _ => !done) s
def execBrtagErr (o : TagBr) (s : State) : Out := opBrtag o (fun _ err => err) s

def execLoop (o : XImm) (s : State) : Out :=
  issue o.m o.needRW .transfer s fun c k s =>
    let n := k.xr o.a - 1
    (s.result c 1 [.x o.a n]).branchIf c k (n != 0) (dispTarget k.pc o.imm)

end Sys2Proof.Machine
end

