-- ==== Sys2Proof/Machine/Integer.lean ====
section
/-! DEFINITION. The integer, predicate, address and constant instructions (R173 to R183) and the scalar float and convert
instructions (R191 to R198). -/

namespace Sys2Proof.Machine

/-! ## Shared operations -/

/-- A fixed-latency result, and on to the next instruction. -/
def State.done (s : State) (c L : Nat) (ws : List RegWrite) : State := (s.result c L ws).advance c

/-- Two register sources, one scalar result of latency L. -/
def op2 (o : XXX) (L : Nat) (f : Word → Word → Word) (s : State) : Out :=
  issue o.m o.need .none s fun c k s => s.done c L [.x o.a (f (k.xr o.b) (k.xr o.c))]
/-- One register source. -/
def op1 (o : XX) (L : Nat) (f : Word → Word) (s : State) : Out :=
  issue o.m o.need .none s fun c k s => s.done c L [.x o.a (f (k.xr o.b))]
/-- A register and the sign-extended immediate (R179). -/
def opImm (o : XXImm) (f : Word → Word → Word) (s : State) : Out :=
  issue o.m o.need .none s fun c k s => s.done c 1 [.x o.a (f (k.xr o.b) (o.imm.signExtend 64))]
/-- A shift by an immediate count (R179). -/
def opShift (o : XXSh) (f : Word → Nat → Word) (s : State) : Out :=
  issue o.m o.need .none s fun c k s => s.done c 1 [.x o.a (f (k.xr o.b) o.n.toNat)]
/-- The divide unit (R176, R177). -/
def opDiv (o : XXX) (f : Word → Word → Word) (s : State) : Out :=
  issue o.m o.needDiv .none s fun c k s => (s.fill c .divide [.x o.a (f (k.xr o.b) (k.xr o.c))]).advance c
/-- Compares (R182). -/
def opCmp (o : PXX) (f : Word → Word → Bool) (s : State) : Out :=
  issue o.m o.need .none s fun c k s => s.done c 1 [.p o.a (f (k.xr o.b) (k.xr o.c))]
def opCmpImm (o : PXImm) (f : Word → Word → Bool) (s : State) : Out :=
  issue o.m o.need .none s fun c k s => s.done c 1 [.p o.a (f (k.xr o.b) (o.imm.signExtend 64))]
/-- Predicate logic (R183). -/
def opP (o : PPP) (f : Bool → Bool → Bool) (s : State) : Out :=
  issue o.m noNeed .none s fun c k s => s.done c 1 [.p o.a (f (k.pr o.b) (k.pr o.c))]

/-- Shift and rotate counts (R173). -/
def cnt (c : Word) : Nat := c.toNat % 64

/-! ## Values -/

/-- The high dword of an exact signed or unsigned product (R175). -/
def mulHi (b c : Word) : Word := BitVec.ofInt 64 (b.toInt * c.toInt / 2 ^ 64)
def mulHiU (b c : Word) : Word := BitVec.ofNat 64 (b.toNat * c.toNat / 2 ^ 64)
/-- Division with the borderline cases of R176. -/
def divS (b c : Word) : Word := if c = 0 then BitVec.allOnes 64 else b.sdiv c
def divU (b c : Word) : Word := if c = 0 then BitVec.allOnes 64 else b / c
def remS (b c : Word) : Word := if c = 0 then b else b.srem c
def remU (b c : Word) : Word := if c = 0 then b else b % c
/-- Bit counts (R178). -/
def clzOf (b : Word) : Word := BitVec.ofNat 64 (64 - bitLen b.toNat)
def ctzFrom (b : Word) (fuel i : Nat) : Nat :=
  match fuel with
  | 0 => i
  | k + 1 => if b.getLsbD i then i else ctzFrom b k (i + 1)
def ctzOf (b : Word) : Word := BitVec.ofNat 64 (ctzFrom b 64 0)
def popOf (b : Word) : Word := BitVec.ofNat 64 ((List.range 64).foldl (fun n i => if b.getLsbD i then n + 1 else n) 0)
def bswapOf (b : Word) : Word := BitVec.ofNat 64 (numOf (bytesOf 8 b.toNat).reverse)

/-! ## Major 0x01 (R173, R174) -/

def execAdd (o : XXX) (s : State) : Out := op2 o 1 (fun b c => b + c) s
def execSub (o : XXX) (s : State) : Out := op2 o 1 (fun b c => b - c) s
def execAnd (o : XXX) (s : State) : Out := op2 o 1 (fun b c => b &&& c) s
def execOr (o : XXX) (s : State) : Out := op2 o 1 (fun b c => b ||| c) s
def execXor (o : XXX) (s : State) : Out := op2 o 1 (fun b c => b ^^^ c) s
def execAndn (o : XXX) (s : State) : Out := op2 o 1 (fun b c => b &&& ~~~c) s
def execOrn (o : XXX) (s : State) : Out := op2 o 1 (fun b c => b ||| ~~~c) s
def execShl (o : XXX) (s : State) : Out := op2 o 1 (fun b c => b <<< cnt c) s
def execShr (o : XXX) (s : State) : Out := op2 o 1 (fun b c => b >>> cnt c) s
def execSra (o : XXX) (s : State) : Out := op2 o 1 (fun b c => b.sshiftRight (cnt c)) s
def execRol (o : XXX) (s : State) : Out := op2 o 1 (fun b c => b.rotateLeft (cnt c)) s
def execRor (o : XXX) (s : State) : Out := op2 o 1 (fun b c => b.rotateRight (cnt c)) s
def execMin (o : XXX) (s : State) : Out := op2 o 1 (fun b c => if b.toInt < c.toInt then b else c) s
def execMax (o : XXX) (s : State) : Out := op2 o 1 (fun b c => if c.toInt < b.toInt then b else c) s
def execMinu (o : XXX) (s : State) : Out := op2 o 1 (fun b c => if b.toNat < c.toNat then b else c) s
def execMaxu (o : XXX) (s : State) : Out := op2 o 1 (fun b c => if c.toNat < b.toNat then b else c) s
def execSel (o : SelOp) (s : State) : Out :=
  issue o.m o.need .none s fun c k s => s.done c 1 [.x o.a (if k.pr o.p then k.xr o.b else k.xr o.c)]
def execMov (o : XX) (s : State) : Out := op1 o 1 (fun b => b) s

/-! ## Majors 0x02 and 0x03 (R175 to R178) -/

def execMul (o : XXX) (s : State) : Out := op2 o 3 (fun b c => b * c) s
def execMulh (o : XXX) (s : State) : Out := op2 o 3 mulHi s
def execMulhu (o : XXX) (s : State) : Out := op2 o 3 mulHiU s
def execDiv (o : XXX) (s : State) : Out := opDiv o divS s
def execDivu (o : XXX) (s : State) : Out := opDiv o divU s
def execRem (o : XXX) (s : State) : Out := opDiv o remS s
def execRemu (o : XXX) (s : State) : Out := opDiv o remU s
def execClz (o : XX) (s : State) : Out := op1 o 1 clzOf s
def execCtz (o : XX) (s : State) : Out := op1 o 1 ctzOf s
def execPopc (o : XX) (s : State) : Out := op1 o 1 popOf s
def execBswap (o : XX) (s : State) : Out := op1 o 1 bswapOf s

/-! ## Majors 0x10, 0x11 and 0x06 (R179 to R181) -/

def execAddi (o : XXImm) (s : State) : Out := opImm o (fun b i => b + i) s
def execAndi (o : XXImm) (s : State) : Out := opImm o (fun b i => b &&& i) s
def execOri (o : XXImm) (s : State) : Out := opImm o (fun b i => b ||| i) s
def execXori (o : XXImm) (s : State) : Out := opImm o (fun b i => b ^^^ i) s
def execShli (o : XXSh) (s : State) : Out := opShift o (fun b n => b <<< n) s
def execShri (o : XXSh) (s : State) : Out := opShift o (fun b n => b >>> n) s
def execSrai (o : XXSh) (s : State) : Out := opShift o (fun b n => b.sshiftRight n) s
def execLi (o : XImm) (s : State) : Out :=
  issue o.m o.need .none s fun c _ s => s.done c 1 [.x o.a (o.imm.signExtend 64)]
def execLih (o : XImm) (s : State) : Out :=
  issue o.m o.needRW .none s fun c k s => s.done c 1 [.x o.a (o.imm ++ (k.xr o.a).extractLsb' 0 32)]
def execLea (o : LeaOp) (s : State) : Out :=
  issue o.m o.need .none s fun c k s =>
    s.done c 1 [.x o.a (k.xr o.b + (k.xr o.c <<< o.scale.toNat) + o.imm.signExtend 64)]

/-! ## Majors 0x04, 0x12 and 0x05 (R182, R183) -/

def isEq (b y : Word) : Bool := b == y
def isNe (b y : Word) : Bool := b != y
def isLt (b y : Word) : Bool := b.toInt < y.toInt
def isLe (b y : Word) : Bool := b.toInt ≤ y.toInt
def isLtu (b y : Word) : Bool := b.toNat < y.toNat
def isLeu (b y : Word) : Bool := b.toNat ≤ y.toNat
def execCmpEq (o : PXX) (s : State) : Out := opCmp o isEq s
def execCmpNe (o : PXX) (s : State) : Out := opCmp o isNe s
def execCmpLt (o : PXX) (s : State) : Out := opCmp o isLt s
def execCmpLe (o : PXX) (s : State) : Out := opCmp o isLe s
def execCmpLtu (o : PXX) (s : State) : Out := opCmp o isLtu s
def execCmpLeu (o : PXX) (s : State) : Out := opCmp o isLeu s
def execCmpEqImm (o : PXImm) (s : State) : Out := opCmpImm o isEq s
def execCmpNeImm (o : PXImm) (s : State) : Out := opCmpImm o isNe s
def execCmpLtImm (o : PXImm) (s : State) : Out := opCmpImm o isLt s
def execCmpLeImm (o : PXImm) (s : State) : Out := opCmpImm o isLe s
def execCmpLtuImm (o : PXImm) (s : State) : Out := opCmpImm o isLtu s
def execCmpLeuImm (o : PXImm) (s : State) : Out := opCmpImm o isLeu s
def execPand (o : PPP) (s : State) : Out := opP o (fun b c => b && c) s
def execPor (o : PPP) (s : State) : Out := opP o (fun b c => b || c) s
def execPxor (o : PPP) (s : State) : Out := opP o (fun b c => b != c) s
def execPnot (o : PP) (s : State) : Out :=
  issue o.m noNeed .none s fun c k s => s.done c 1 [.p o.a (!k.pr o.b)]

/-! ## Scalar float (R191 to R196) -/

/-- The FP32 operand in a scalar register (R191). -/
def Ctx.f (k : Ctx) (r : BitVec 6) : BitVec 32 := (k.xr r).extractLsb' 0 32

/-- The writes of an FP32 result, zero-extended, with its flags (R127, R191). -/
def fpWrites (a : BitVec 6) (r : BitVec 32 × FFlags) : List RegWrite := [.x a (r.1.setWidth 64), .orFlags r.2]

def opF2 (o : XXX) (f : BitVec 32 → BitVec 32 → BitVec 32 × FFlags) (s : State) : Out :=
  issue o.m o.need .none s fun c k s => s.done c 4 (fpWrites o.a (f (k.f o.b) (k.f o.c)))
/-- The fused forms, which read A (R192). -/
def opF3 (o : XXX) (f : BitVec 32 → BitVec 32 → BitVec 32 → BitVec 32 × FFlags) (s : State) : Out :=
  issue o.m o.need3 .none s fun c k s => s.done c 4 (fpWrites o.a (f (k.f o.b) (k.f o.c) (k.f o.a)))
def opF1 (o : XX) (f : BitVec 32 → BitVec 32) (s : State) : Out :=
  issue o.m o.need .none s fun c k s => s.done c 4 [.x o.a ((f (k.f o.b)).setWidth 64)]
def opFcmp (o : PXX) (q : FCmp) (s : State) : Out :=
  issue o.m o.need .none s fun c k s =>
    let r := fcmp q (k.f o.b) (k.f o.c)
    s.done c 1 [.p o.a r.1, .orFlags r.2]

def fabs32 (b : BitVec 32) : BitVec 32 := b &&& 0x7FFFFFFF
def fneg32 (b : BitVec 32) : BitVec 32 := b ^^^ 0x80000000

def execFaddF32 (o : XXX) (s : State) : Out := opF2 o fadd s
def execFsubF32 (o : XXX) (s : State) : Out := opF2 o fsub s
def execFmulF32 (o : XXX) (s : State) : Out := opF2 o fmul s
def execFmaF32 (o : XXX) (s : State) : Out := opF3 o ffma s
def execFmsF32 (o : XXX) (s : State) : Out := opF3 o ffms s
def execFnmaF32 (o : XXX) (s : State) : Out := opF3 o ffnma s
def execFdivF32 (o : XXX) (s : State) : Out :=
  issue o.m o.needDiv .none s fun c k s => (s.fill c .divide (fpWrites o.a (fdiv (k.f o.b) (k.f o.c)))).advance c
def execFsqrtF32 (o : XX) (s : State) : Out :=
  issue o.m o.needDiv .none s fun c k s => (s.fill c .divide (fpWrites o.a (fsqrt (k.f o.b)))).advance c
def execFminF32 (o : XXX) (s : State) : Out := opF2 o fmin s
def execFmaxF32 (o : XXX) (s : State) : Out := opF2 o fmax s
def execFabsF32 (o : XX) (s : State) : Out := opF1 o fabs32 s
def execFnegF32 (o : XX) (s : State) : Out := opF1 o fneg32 s
def execFcmpEqF32 (o : PXX) (s : State) : Out := opFcmp o .eq s
def execFcmpLtF32 (o : PXX) (s : State) : Out := opFcmp o .lt s
def execFcmpLeF32 (o : PXX) (s : State) : Out := opFcmp o .le s
def execFcmpUnF32 (o : PXX) (s : State) : Out := opFcmp o .un s
def execFclsF32 (o : XX) (s : State) : Out :=
  issue o.m o.need .none s fun c k s => s.done c 4 [.x o.a (BitVec.ofNat 64 (2 ^ fclass (k.f o.b)))]

/-! ## Scalar converts (R197, R198) -/

/-- A result as R123 places it in a scalar register: an i32 sign-extended, every other zero-extended. -/
def placeScalar (dst : BitVec 3) (v : Nat) : Word :=
  if dst = 0 then (BitVec.ofNat 32 v).signExtend 64 else BitVec.ofNat 64 v

def execCvt (o : CvtOp) (s : State) : Out :=
  issue o.m o.need .none s fun c k s =>
    let r := convert (scalarType o.dst) (scalarType o.src) (rmOf o.rm) (k.xr o.b).toNat
    s.done c 3 [.x o.a (placeScalar o.dst r.1), .orFlags r.2]

end Sys2Proof.Machine
end

