-- ==== Sys2Proof/Machine/VectorAlu.lean ====
section
/-! DEFINITION. The vector and mask instructions (R199 to R214) and the microcoded LF8 forms (R220). -/

namespace Sys2Proof.Machine

/-! ## Lanes and masks (R200, R202) -/

/-- A vector register from its lanes. -/
def lanes (f : Nat → BitVec 32) : Lanes :=
  #v[f 0, f 1, f 2, f 3, f 4, f 5, f 6, f 7, f 8, f 9, f 10, f 11, f 12, f 13, f 14, f 15]
/-- Lane j. -/
def laneOf (l : Lanes) (j : Nat) : BitVec 32 := (l[j]?).getD 0
/-- A mask from its bits. -/
def maskBits (f : Nat → Bool) : BitVec 16 := (List.range 16).foldl (fun m j => setBit m j (f j)) 0

/-- Whether lane j is active (R200). -/
def Ctx.active (k : Ctx) (q : VMask) (j : Nat) : Bool :=
  match q with
  | .all => true
  | .on _ sel => (k.mr sel).getLsbD j
/-- What an inactive lane takes: zero or its old value (R202). -/
def inactive (q : VMask) (old : BitVec 32) : BitVec 32 :=
  match q with
  | .on true _ => 0
  | _ => old

/-- A source C: a vector register or a broadcast scalar (R202). -/
def Ctx.vx (k : Ctx) (c : VX) (j : Nat) : BitVec 32 :=
  match c with
  | .v r => laneOf (k.vr r) j
  | .x r => k.f r

/-- Lane results under a mask (R202). -/
def Ctx.vmap (k : Ctx) (q : VMask) (old : Lanes) (op : Nat → BitVec 32) : Lanes :=
  lanes fun j => if k.active q j then op j else inactive q (laneOf old j)
/-- The flags of the active lanes. -/
def Ctx.vflags (k : Ctx) (q : VMask) (op : Nat → FFlags) : FFlags :=
  (List.range 16).foldl (fun f j => if k.active q j then f ||| op j else f) 0

/-- A lane-wise integer or bit operation, latency class vector integer. -/
def vop (o : V3) (f : BitVec 32 → BitVec 32 → BitVec 32) (s : State) : Out :=
  issue o.m o.need .none s fun c k s =>
    s.done c 2 [.v o.a (k.vmap o.k (k.vr o.a) fun j => f (laneOf (k.vr o.b) j) (k.vx o.c j))]
/-- One-source forms of latency L. -/
def vop1 (o : V2) (L : Nat) (f : BitVec 32 → BitVec 32) (s : State) : Out :=
  issue o.m o.need .none s fun c k s =>
    s.done c L [.v o.a (k.vmap o.k (k.vr o.a) fun j => f (laneOf (k.vr o.b) j))]
/-- A lane-wise FP32 operation with its flags, latency class vector float. -/
def vfop (o : V3) (f : BitVec 32 → BitVec 32 → BitVec 32 × FFlags) (s : State) : Out :=
  issue o.m o.need .none s fun c k s =>
    let g := fun j => f (laneOf (k.vr o.b) j) (k.vx o.c j)
    s.done c 4 [.v o.a (k.vmap o.k (k.vr o.a) fun j => (g j).1), .orFlags (k.vflags o.k fun j => (g j).2)]
/-- The fused forms, which read A (R204). -/
def vfop3 (o : V3) (f : BitVec 32 → BitVec 32 → BitVec 32 → BitVec 32 × FFlags) (s : State) : Out :=
  issue o.m o.need3 .none s fun c k s =>
    let g := fun j => f (laneOf (k.vr o.b) j) (k.vx o.c j) (laneOf (k.vr o.a) j)
    s.done c 4 [.v o.a (k.vmap o.k (k.vr o.a) fun j => (g j).1), .orFlags (k.vflags o.k fun j => (g j).2)]

/-! ## Majors 0x40 and 0x41 (R203, R204) -/

def vmulhS (b c : BitVec 32) : BitVec 32 := BitVec.ofInt 32 (b.toInt * c.toInt / 2 ^ 32)
def vmulhU (b c : BitVec 32) : BitVec 32 := BitVec.ofNat 32 (b.toNat * c.toNat / 2 ^ 32)
def min32 (b c : BitVec 32) : BitVec 32 := if c.toInt < b.toInt then c else b
def max32 (b c : BitVec 32) : BitVec 32 := if b.toInt < c.toInt then c else b
def minU32 (b c : BitVec 32) : BitVec 32 := if c.toNat < b.toNat then c else b
def maxU32 (b c : BitVec 32) : BitVec 32 := if b.toNat < c.toNat then c else b
def abs32 (b : BitVec 32) : BitVec 32 := if b.msb then -b else b

def execVaddI32 (o : V3) (s : State) : Out := vop o (fun b c => b + c) s
def execVsubI32 (o : V3) (s : State) : Out := vop o (fun b c => b - c) s
def execVmulI32 (o : V3) (s : State) : Out := vop o (fun b c => b * c) s
def execVmulhI32 (o : V3) (s : State) : Out := vop o vmulhS s
def execVmulhUi32 (o : V3) (s : State) : Out := vop o vmulhU s
def execVminI32 (o : V3) (s : State) : Out := vop o min32 s
def execVmaxI32 (o : V3) (s : State) : Out := vop o max32 s
def execVminUi32 (o : V3) (s : State) : Out := vop o minU32 s
def execVmaxUi32 (o : V3) (s : State) : Out := vop o maxU32 s
def execVabsI32 (o : V2) (s : State) : Out := vop1 o 2 abs32 s
def execVnegI32 (o : V2) (s : State) : Out := vop1 o 2 (fun b => -b) s
def execVaddF32 (o : V3) (s : State) : Out := vfop o fadd s
def execVsubF32 (o : V3) (s : State) : Out := vfop o fsub s
def execVmulF32 (o : V3) (s : State) : Out := vfop o fmul s
def execVfmaF32 (o : V3) (s : State) : Out := vfop3 o ffma s
def execVfmsF32 (o : V3) (s : State) : Out := vfop3 o ffms s
def execVminF32 (o : V3) (s : State) : Out := vfop o fmin s
def execVmaxF32 (o : V3) (s : State) : Out := vfop o fmax s
def execVabsF32 (o : V2) (s : State) : Out := vop1 o 4 fabs32 s
def execVnegF32 (o : V2) (s : State) : Out := vop1 o 4 fneg32 s

/-! ## Majors 0x42 and 0x43 (R205, R206) -/

/-- A shift count: bits [4:0] of the lane, the broadcast scalar or the immediate (R205). -/
def Ctx.vcount (k : Ctx) (c : VXN) (j : Nat) : Nat :=
  match c with
  | .v r => (laneOf (k.vr r) j).toNat % 32
  | .x r => (k.f r).toNat % 32
  | .imm n => n.toNat
def vshift (o : VShOp) (f : BitVec 32 → Nat → BitVec 32) (s : State) : Out :=
  issue o.m o.need .none s fun c k s =>
    s.done c 2 [.v o.a (k.vmap o.k (k.vr o.a) fun j => f (laneOf (k.vr o.b) j) (k.vcount o.c j))]

def execVand (o : V3) (s : State) : Out := vop o (fun b c => b &&& c) s
def execVor (o : V3) (s : State) : Out := vop o (fun b c => b ||| c) s
def execVxor (o : V3) (s : State) : Out := vop o (fun b c => b ^^^ c) s
def execVandn (o : V3) (s : State) : Out := vop o (fun b c => b &&& ~~~c) s
def execVshl (o : VShOp) (s : State) : Out := vshift o (fun b n => b <<< n) s
def execVshr (o : VShOp) (s : State) : Out := vshift o (fun b n => b >>> n) s
def execVsra (o : VShOp) (s : State) : Out := vshift o (fun b n => b.sshiftRight n) s

/-- The mask a compare writes (R206): an inactive lane keeps or clears its bit. -/
def Ctx.vcmp (k : Ctx) (o : VCmpOp) (f : Nat → Bool) : BitVec 16 :=
  maskBits fun j => if k.active o.k j then f j else (o.k.merges && (k.mr o.a).getLsbD j)
def vicmp (o : VCmpOp) (f : BitVec 32 → BitVec 32 → Bool) (s : State) : Out :=
  issue o.m o.need .none s fun c k s =>
    s.done c 2 [.m o.a (k.vcmp o fun j => f (laneOf (k.vr o.b) j) (k.vx o.c j))]
def vfcmp (o : VCmpOp) (q : FCmp) (s : State) : Out :=
  issue o.m o.need .none s fun c k s =>
    let g := fun j => fcmp q (laneOf (k.vr o.b) j) (k.vx o.c j)
    s.done c 4 [.m o.a (k.vcmp o fun j => (g j).1), .orFlags (k.vflags o.k fun j => (g j).2)]

def execVcmpEqI32 (o : VCmpOp) (s : State) : Out := vicmp o (fun b c => b == c) s
def execVcmpNeI32 (o : VCmpOp) (s : State) : Out := vicmp o (fun b c => b != c) s
def execVcmpLtI32 (o : VCmpOp) (s : State) : Out := vicmp o (fun b c => b.toInt < c.toInt) s
def execVcmpLeI32 (o : VCmpOp) (s : State) : Out := vicmp o (fun b c => b.toInt ≤ c.toInt) s
def execVcmpLtUi32 (o : VCmpOp) (s : State) : Out := vicmp o (fun b c => b.toNat < c.toNat) s
def execVcmpLeUi32 (o : VCmpOp) (s : State) : Out := vicmp o (fun b c => b.toNat ≤ c.toNat) s
def execVcmpEqF32 (o : VCmpOp) (s : State) : Out := vfcmp o .eq s
def execVcmpLtF32 (o : VCmpOp) (s : State) : Out := vfcmp o .lt s
def execVcmpLeF32 (o : VCmpOp) (s : State) : Out := vfcmp o .le s
def execVcmpUnF32 (o : VCmpOp) (s : State) : Out := vfcmp o .un s

/-! ## Major 0x44 (R207 to R209) -/

/-- A lane number or rotate count (R207). -/
def Ctx.xn (k : Ctx) (n : XN) : Nat :=
  match n with
  | .x r => (k.xr r).toNat % 16
  | .imm i => i.toNat
/-- Lane j of `vshufl` (R208). -/
def shufLane (pat : BitVec 2) (b c : Lanes) (j : Nat) : BitVec 32 :=
  match pat.toNat with
  | 0 => if j % 2 = 0 then laneOf b (j / 2) else laneOf c (j / 2)
  | 1 => if j % 2 = 0 then laneOf b (8 + j / 2) else laneOf c (8 + j / 2)
  | 2 => if j < 8 then laneOf b (2 * j) else laneOf c (2 * (j - 8))
  | _ => if j < 8 then laneOf b (2 * j + 1) else laneOf c (2 * (j - 8) + 1)

def execVsel (o : VSelOp) (s : State) : Out :=
  issue o.m o.need .none s fun c k s =>
    s.done c 2 [.v o.a (lanes fun j => if (k.mr o.n).getLsbD j then laneOf (k.vr o.b) j else laneOf (k.vr o.c) j)]
def execVsplat (o : VSplatOp) (s : State) : Out :=
  issue o.m o.need .none s fun c k s => s.done c 2 [.v o.a (k.vmap o.k (k.vr o.a) fun _ => k.f o.b)]
def execVsplatI (o : VSplatI) (s : State) : Out :=
  issue o.m o.need .none s fun c _ s => s.done c 2 [.v o.a (lanes fun _ => o.imm)]
def execVmov (o : V2) (s : State) : Out := vop1 o 2 (fun b => b) s
def execVext (o : VExtOp) (s : State) : Out :=
  issue o.m o.need .none s fun c k s => s.done c 2 [.x o.a ((laneOf (k.vr o.b) (k.xn o.n)).setWidth 64)]
def execVins (o : VInsOp) (s : State) : Out :=
  issue o.m o.need .none s fun c k s =>
    s.done c 2 [.v o.a (lanes fun j => if j = k.xn o.n then k.f o.b else laneOf (k.vr o.a) j)]
def execVperm (o : VVV) (s : State) : Out :=
  issue o.m o.need .none s fun c k s =>
    s.done c 2 [.v o.a (k.vmap o.k (k.vr o.a) fun j => laneOf (k.vr o.b) ((laneOf (k.vr o.c) j).toNat % 16))]
def execVshufl (o : VShufOp) (s : State) : Out :=
  issue o.m o.need .none s fun c k s =>
    s.done c 2 [.v o.a (k.vmap o.k (k.vr o.a) fun j => shufLane o.pat (k.vr o.b) (k.vr o.c) j)]
def execVrot (o : VRotOp) (s : State) : Out :=
  issue o.m o.need .none s fun c k s =>
    s.done c 2 [.v o.a (k.vmap o.k (k.vr o.a) fun j => laneOf (k.vr o.b) ((j + k.xn o.n) % 16))]

/-! ## Major 0x45 (R142, R210, R211) -/

/-- One operation of a tree or scan with the flags so far. -/
abbrev FlagOp2 := BitVec 32 → BitVec 32 → BitVec 32 × FFlags

/-- Adjacent pairs combined: one level of tree16 (R142). -/
def pairUp (f : FlagOp2) (l : List (BitVec 32)) (g : FFlags) : List (BitVec 32) × FFlags :=
  match l with
  | a :: b :: r =>
    let t := pairUp f r (g ||| (f a b).2)
    ((f a b).1 :: t.1, t.2)
  | r => (r, g)
/-- tree16: the root and the flags of every operation. -/
def tree16 (f : FlagOp2) (l : List (BitVec 32)) : BitVec 32 × FFlags :=
  let a := pairUp f l 0
  let b := pairUp f a.1 a.2
  let c := pairUp f b.1 b.2
  let d := pairUp f c.1 c.2
  (d.1.headD 0, d.2)
/-- scan16 after a first value. -/
def scanFrom (f : FlagOp2) (p : BitVec 32) (l : List (BitVec 32)) (g : FFlags) : List (BitVec 32) × FFlags :=
  match l with
  | [] => ([], g)
  | a :: r =>
    let v := f p a
    let t := scanFrom f v.1 r (g ||| v.2)
    (v.1 :: t.1, t.2)
def scan16 (f : FlagOp2) (l : List (BitVec 32)) : List (BitVec 32) × FFlags :=
  match l with
  | [] => ([], 0)
  | a :: r =>
    let t := scanFrom f a r 0
    (a :: t.1, t.2)

/-- The sixteen contributions: the lane, or the identity where inactive (R211). -/
def Ctx.contrib (k : Ctx) (q : VMask) (b : Lanes) (ident : BitVec 32) : List (BitVec 32) :=
  (List.range 16).map fun j => if k.active q j then laneOf b j else ident

/-- An integer operation sets no flag. -/
def noFlag (f : BitVec 32 → BitVec 32 → BitVec 32) : FlagOp2 := fun a b => (f a b, 0)

/-- A reduction of latency L, its result sign-extended or not. -/
def vred (o : VRedOp) (L : Nat) (sext : Bool) (f : FlagOp2) (ident : BitVec 32) (s : State) : Out :=
  issue o.m o.need .none s fun c k s =>
    let r := tree16 f (k.contrib o.k (k.vr o.b) ident)
    s.done c L [.x o.a (if sext then r.1.signExtend 64 else r.1.setWidth 64), .orFlags r.2]
def vscan (o : V2) (L : Nat) (f : FlagOp2) (ident : BitVec 32) (s : State) : Out :=
  issue o.m o.need .none s fun c k s =>
    let r := scan16 f (k.contrib o.k (k.vr o.b) ident)
    s.done c L [.v o.a (k.vmap o.k (k.vr o.a) fun j => r.1.getD j 0), .orFlags r.2]

def execVredaddI32 (o : VRedOp) (s : State) : Out := vred o 2 true (noFlag fun a b => a + b) 0 s
def execVredaddF32 (o : VRedOp) (s : State) : Out := vred o 4 false fadd 0x80000000 s
def execVredminI32 (o : VRedOp) (s : State) : Out := vred o 2 true (noFlag min32) 0x7FFFFFFF s
def execVredminUi32 (o : VRedOp) (s : State) : Out := vred o 2 false (noFlag minU32) 0xFFFFFFFF s
def execVredminF32 (o : VRedOp) (s : State) : Out := vred o 4 false fmin 0x7FC00000 s
def execVredmaxI32 (o : VRedOp) (s : State) : Out := vred o 2 true (noFlag max32) 0x80000000 s
def execVredmaxUi32 (o : VRedOp) (s : State) : Out := vred o 2 false (noFlag maxU32) 0 s
def execVredmaxF32 (o : VRedOp) (s : State) : Out := vred o 4 false fmax 0x7FC00000 s
def execVscanAddI32 (o : V2) (s : State) : Out := vscan o 2 (noFlag fun a b => a + b) 0 s
def execVscanAddF32 (o : V2) (s : State) : Out := vscan o 4 fadd 0x80000000 s
def execVscanMinI32 (o : V2) (s : State) : Out := vscan o 2 (noFlag min32) 0x7FFFFFFF s
def execVscanMinUi32 (o : V2) (s : State) : Out := vscan o 2 (noFlag minU32) 0xFFFFFFFF s
def execVscanMinF32 (o : V2) (s : State) : Out := vscan o 4 fmin 0x7FC00000 s
def execVscanMaxI32 (o : V2) (s : State) : Out := vscan o 2 (noFlag max32) 0x80000000 s
def execVscanMaxUi32 (o : V2) (s : State) : Out := vscan o 2 (noFlag maxU32) 0 s
def execVscanMaxF32 (o : V2) (s : State) : Out := vscan o 4 fmax 0x7FC00000 s

/-! ## Major 0x46 (R212) -/

def mop (o : MMM) (f : BitVec 16 → BitVec 16 → BitVec 16) (s : State) : Out :=
  issue o.m noNeed .none s fun c k s => s.done c 2 [.m o.a (f (k.mr o.b) (k.mr o.c))]
def popMask (b : BitVec 16) : Nat := (List.range 16).foldl (fun n i => if b.getLsbD i then n + 1 else n) 0
def firstMask (b : BitVec 16) (fuel i : Nat) : Nat :=
  match fuel with
  | 0 => i
  | n + 1 => if b.getLsbD i then i else firstMask b n (i + 1)

def execMand (o : MMM) (s : State) : Out := mop o (fun b c => b &&& c) s
def execMor (o : MMM) (s : State) : Out := mop o (fun b c => b ||| c) s
def execMxor (o : MMM) (s : State) : Out := mop o (fun b c => b ^^^ c) s
def execMnot (o : MM) (s : State) : Out :=
  issue o.m noNeed .none s fun c k s => s.done c 2 [.m o.a (~~~(k.mr o.b))]
def execMpop (o : XM) (s : State) : Out :=
  issue o.m o.need .none s fun c k s => s.done c 2 [.x o.a (BitVec.ofNat 64 (popMask (k.mr o.b)))]
def execMfirst (o : XM) (s : State) : Out :=
  issue o.m o.need .none s fun c k s => s.done c 2 [.x o.a (BitVec.ofNat 64 (firstMask (k.mr o.b) 16 0))]
def execMset (o : MSetOp) (s : State) : Out :=
  issue o.m o.need .none s fun c k s =>
    s.done c 2 [.m o.a (match o.s with
      | .x r => (k.xr r).extractLsb' 0 16
      | .imm n => n)]
def execM2pAny (o : PM) (s : State) : Out :=
  issue o.m noNeed .none s fun c k s => s.done c 2 [.p o.a (k.mr o.b != 0)]
def execM2pAll (o : PM) (s : State) : Out :=
  issue o.m noNeed .none s fun c k s => s.done c 2 [.p o.a (k.mr o.b == 0xFFFF)]

/-! ## Major 0x47 (R213, R214) -/

/-- Bits an element of a vector type code takes in a register: a tf6 word takes a byte (R123, R213). -/
def slotBits (t : BitVec 3) : Nat := vtypeWidth t
/-- Element e of a register at w bits an element (R123). -/
def elemOf (l : Lanes) (w e : Nat) : Nat := (laneOf l (e * w / 32)).toNat / 2 ^ (e * w % 32) % 2 ^ w
/-- The element as it is placed: a tf6 word is held sign-extended to its byte (R214). -/
def placeElem (t : BitVec 3) (v : Nat) : Nat :=
  if t = 6 then (if v % 64 / 32 = 1 then v % 64 + 192 else v % 64) else v % 2 ^ vtypeWidth t
/-- A register whose elements of w bits are f e where f answers one, and the old elements elsewhere. -/
def setElems (l : Lanes) (w : Nat) (f : Nat → Option Nat) : Lanes :=
  let per := 32 / w
  lanes fun j => BitVec.ofNat 32 ((List.range per).foldl (fun acc i =>
    acc + ((f (j * per + i)).getD (elemOf l w (j * per + i))) * 2 ^ (w * i)) 0)

def execVcvt (o : VCvtOp) (s : State) : Out :=
  issue o.m o.need .none s fun c k s =>
    let r := fun j => convert (vectorType o.dst) (vectorType o.src) (rmOf o.rm)
      (elemOf (k.vr o.b) (slotBits o.src) (16 * o.spart.toNat + j))
    let dst := fun e =>
      let j := e - 16 * o.dpart.toNat
      if e < 16 * o.dpart.toNat || 16 ≤ j then none
      else if k.active o.k j then some (placeElem o.dst (r j).1)
      else if o.k.merges then none
      else some 0
    s.done c 3 [.v o.a (setElems (k.vr o.a) (slotBits o.dst) dst), .orFlags (k.vflags o.k fun j => (r j).2)]

/-! ## Major 0xB0 (R158, R220) -/

/-- The context is in its sequence for n cycles from this one, in which it issues nothing further, as with a gap of n − 1; a greater encoded gap
stands (R220; log 16). -/
def State.sequence (s : State) (c n : Nat) : State := s.modCtx c fun k => { k with busy := s.clock + n, gap := max k.gap (n - 1) }
/-- Byte b of a register (R123). -/
def byteOf (l : Lanes) (b : Nat) : Nat := elemOf l 8 b

def execVcvtLf8 (o : VLf8Op) (s : State) : Out :=
  issue o.m o.need .none s fun c k s =>
    (s.done c 3 [.v o.a (k.vmap o.k (k.vr o.a) fun j => lf8ToF32 (byteOf (k.vr o.b) (16 * o.spart.toNat + j)))]).sequence c 4
def execVdotLf8 (o : VVV) (s : State) : Out :=
  issue o.m o.need3 .none s fun c k s =>
    let r := fun j => lf8Dot (laneOf (k.vr o.a) j)
      ((List.range 4).map fun i => (byteOf (k.vr o.b) (4 * j + i), byteOf (k.vr o.c) (4 * j + i)))
    (s.done c 4 [.v o.a (k.vmap o.k (k.vr o.a) fun j => (r j).1), .orFlags (k.vflags o.k fun j => (r j).2)]).sequence c 8

end Sys2Proof.Machine
end

