-- ==== Sys2Proof/Machine/VectorMem.lean ====
section
/-! DEFINITION. The vector memory instructions (R215 to R219): contiguous, strided, gather and scatter, packed. -/

namespace Sys2Proof.Machine

/-! ## One lane -/

/-- The units of a lane: (address, bytes), read one after the other; denied if any unit is. -/
def State.loadUnits (s : State) (ag : Agent) (us : List (Nat × Nat)) : Access :=
  match us with
  | [] => .ok 0 none s
  | (a, n) :: r =>
    match s.load ag a n with
    | .ok v d s1 =>
      match s1.loadUnits ag r with
      | .ok v2 d2 s2 => .ok (v + 2 ^ (8 * n) * v2) (d.orElse fun _ => d2) s2
      | o => o
    | o => o

/-- The units of a lane written, with the store watches of the core (R319). -/
def State.storeUnits (s : State) (ag : Agent) (us : List (Nat × Nat)) (v : Nat) : Access :=
  match us with
  | [] => .ok 0 none s
  | (a, n) :: r =>
    match s.store ag a n v with
    | .ok _ _ s1 => (s1.watch (ag.ctx.getD 0) a n).storeUnits ag r (v / 2 ^ (8 * n))
    | o => o

/-! ## The lanes of an instruction (R215, R216) -/

/-- How the lanes of an access end. -/
inductive VEnd where
  | complete
  | trap (j : Nat) (t : Trap)
  | wait (j : Nat)
  | gone
  deriving DecidableEq, Repr

/-- Progress of an access: destination lanes so far, denied lanes (mask, lowest address, its label), lanes whose loads may still be performed
later (R104). -/
structure VRun where
  dest : Lanes
  denied : Option (Nat × Nat × BitVec 16)
  ending : VEnd
  s : State
  again : List Reload := []

/-- One more denied lane. -/
def addDenied (d : Option (Nat × Nat × BitVec 16)) (j a : Nat) (l : BitVec 16) : Option (Nat × Nat × BitVec 16) :=
  match d with
  | none => some (2 ^ j, a, l)
  | some (m, a0, l0) => some (m + 2 ^ j, a0, l0)

/-- Four elements of w bits each placed in the bytes of a lane, sign-extended or not. -/
def unpackLane (w : Nat) (sext : Bool) (v : Nat) : BitVec 32 :=
  let e := fun i => v / 2 ^ (w * i) % 2 ^ w
  let b := fun i => if sext && e i / 2 ^ (w - 1) = 1 then e i + 2 ^ 8 - 2 ^ w else e i
  BitVec.ofNat 32 (b 0 + 2 ^ 8 * b 1 + 2 ^ 16 * b 2 + 2 ^ 24 * b 3)
/-- The register value of a loaded number. -/
def Extend.value (h : Extend) (v : Nat) : Word :=
  match h with
  | .scalar w signed => if signed then (BitVec.ofNat w v).signExtend 64 else BitVec.ofNat 64 v
  | .word => BitVec.ofNat 64 (v % 2 ^ 32)
  | .unpack w signed => (unpackLane w signed v).setWidth 64

/-- What every lane access needs: who, mask, the units of a lane, the alignment its address must have, what a lane receives of the bytes
read. -/
structure VAcc where
  ag : Agent
  mask : VMask
  units : Nat → List (Nat × Nat)
  align : Nat
  how : Extend := .word

def VAcc.first (q : VAcc) (j : Nat) : Nat :=
  match q.units j with
  | (a, _) :: _ => a
  | [] => 0
def VAcc.misaligned (q : VAcc) (j : Nat) : Bool := q.first j % q.align != 0
def misTrap (a : Nat) : Trap := { code := cMisaligned, badaddr := some (BitVec.ofNat 64 a) }

/-- A lane of a register replaced. -/
def setLane (l : Lanes) (j : Nat) (v : BitVec 32) : Lanes := lanes fun i => if i = j then v else laneOf l i

/-- The lanes of a load in ascending order. -/
def VAcc.loadLanes (q : VAcc) (k : Ctx) (js : List Nat) (r : VRun) : VRun :=
  match js with
  | [] => r
  | j :: rest =>
    if !k.active q.mask j then
      q.loadLanes k rest { r with dest := setLane r.dest j (inactive q.mask (laneOf r.dest j)) }
    else if q.misaligned j then { r with ending := .trap j (misTrap (q.first j)) }
    else
      match r.s.loadUnits q.ag (q.units j) with
      | .ok v none s1 =>
        q.loadLanes k rest
          { r with dest := setLane r.dest j ((q.how.value v).setWidth 32), s := s1, again := ⟨some j, q.units j, q.how⟩ :: r.again }
      | .ok _ (some l) s1 =>
        q.loadLanes k rest { r with dest := setLane r.dest j 0, denied := addDenied r.denied j (q.first j) l, s := s1 }
      | .trap t s1 => { r with ending := .trap j t, s := s1 }
      | .wait s1 => { r with ending := .wait j, s := s1 }
      | .gone s1 => { r with ending := .gone, s := s1 }

/-- The lanes of a store in ascending order; `data` is the number a lane stores. -/
def VAcc.storeLanes (q : VAcc) (k : Ctx) (data : Nat → Nat) (js : List Nat) (r : VRun) : VRun :=
  match js with
  | [] => r
  | j :: rest =>
    if !k.active q.mask j then q.storeLanes k data rest r
    else if q.misaligned j then { r with ending := .trap j (misTrap (q.first j)) }
    else
      match r.s.storeUnits q.ag (q.units j) (data j) with
      | .ok _ _ s1 => q.storeLanes k data rest { r with s := s1 }
      | .trap t s1 => { r with ending := .trap j t, s := s1 }
      | .wait s1 => { r with ending := .wait j, s := s1 }
      | .gone s1 => { r with ending := .gone, s := s1 }

/-- The denial record of the lanes so far. -/
def State.denyLanes (s : State) (c : Nat) (pc : Word) (d : Option (Nat × Nat × BitVec 16)) : State :=
  match d with
  | none => s
  | some (m, a, l) => s.deny c pc a m l

/-- An access that ends before its last lane (R216): vlane, the lanes performed, then the trap or the wait. When the trap fails the activation
its denials are recorded as it stops. -/
def VRun.stop (r : VRun) (c : Nat) (k : Ctx) (load : Option (BitVec 5)) : State :=
  let keep (j : Nat) (x : Ctx) : Ctx :=
    let x1 := match load with
      | some a => x.put (.v a r.dest)
      | none => x
    { x1 with vlane := j, denials := r.denied }
  match r.ending with
  | .complete => r.s
  | .trap j t => (r.s.modCtx c (keep j)).raise c t
  | .wait j => r.s.modCtx c (keep j)
  | .gone => r.s

/-- A vector load from lane vlane upward (R216). -/
def State.vload (s : State) (c : Nat) (k : Ctx) (a : BitVec 5) (q : VAcc) : State :=
  let r := q.loadLanes k ((List.range 16).drop k.vlane) { dest := k.vr a, denied := k.denials, ending := .complete, s := s }
  match r.ending with
  | .complete =>
    let s1 := (r.s.later c .load [.v a r.dest] none r.again).1.modCtx c fun x => { x.advance with vlane := 0, denials := none }
    s1.denyLanes c k.pc r.denied
  | _ => r.stop c k (some a)

/-- A vector store from lane vlane upward (R216). -/
def State.vstore (s : State) (c : Nat) (k : Ctx) (q : VAcc) (data : Nat → Nat) : State :=
  let r := q.storeLanes k data ((List.range 16).drop k.vlane) { dest := k.vr 0, denied := none, ending := .complete, s := s }
  match r.ending with
  | .complete => r.s.modCtx c fun x => { x.advance with vlane := 0 }
  | _ => r.stop c k none

/-! ## Addresses (R217 to R219) -/

/-- A word lane at an address formed modulo 2^64. -/
def word4 (ea : Word) : List (Nat × Nat) := [(ea.toNat, 4)]
/-- The address of lane j (R217). -/
def laneEa (b : Word) (d : BitVec 24) (j : Nat) : Word := b + d.signExtend 64 + BitVec.ofNat 64 (4 * j)
def strideEa (b c : Word) (d : BitVec 24) (j : Nat) : Word := b + d.signExtend 64 + BitVec.ofNat 64 j * c
def gatherEa (b : Word) (c : BitVec 32) (sc : BitVec 2) : Word := b + ((c.setWidth 64) <<< sc.toNat)
/-- The n bytes of lane j of a packed access, each its own unit (R215, R219). -/
def packedUnits (base : Word) (n j : Nat) : List (Nat × Nat) :=
  (List.range n).map fun i => ((base + BitVec.ofNat 64 (n * j + i)).toNat, 1)

def contig (c : Nat) (k : Ctx) (o : VMemOp) : VAcc :=
  { ag := agentOf c k, mask := o.k, units := fun j => word4 (laneEa (k.xr o.b) o.d j), align := 4 }
def strided (c : Nat) (k : Ctx) (o : VStrOp) : VAcc :=
  { ag := agentOf c k, mask := o.k, units := fun j => word4 (strideEa (k.xr o.b) (k.xr o.c) o.d j), align := 4 }
def gathered (c : Nat) (k : Ctx) (o : VGsOp) : VAcc :=
  { ag := agentOf c k, mask := o.k, units := fun j => word4 (gatherEa (k.xr o.b) (laneOf (k.vr o.c) j) o.scale), align := 4 }
def packed (c : Nat) (k : Ctx) (o : VMemOp) (n : Nat) (how : Extend := .word) : VAcc :=
  { ag := agentOf c k, mask := o.k, units := fun j => packedUnits (k.xr o.b + o.d.signExtend 64) n j, align := 1, how := how }
def laneNum (k : Ctx) (a : BitVec 5) (j : Nat) : Nat := (laneOf (k.vr a) j).toNat

/-! ## Majors 0x48 and 0x49 -/

def execVld (o : VMemOp) (s : State) : Out := issue o.m o.needL .none s fun c k s => s.vload c k o.a (contig c k o)
def execVst (o : VMemOp) (s : State) : Out :=
  issue o.m o.needS .none s fun c k s => s.vstore c k (contig c k o) (laneNum k o.a)
def execVlds (o : VStrOp) (s : State) : Out := issue o.m o.needL .none s fun c k s => s.vload c k o.a (strided c k o)
def execVsts (o : VStrOp) (s : State) : Out :=
  issue o.m o.needS .none s fun c k s => s.vstore c k (strided c k o) (laneNum k o.a)
def execVgather (o : VGsOp) (s : State) : Out := issue o.m o.needL .none s fun c k s => s.vload c k o.a (gathered c k o)
def execVscatter (o : VGsOp) (s : State) : Out :=
  issue o.m o.needS .none s fun c k s => s.vstore c k (gathered c k o) (laneNum k o.a)

/-! ## Major 0x4A (R219) -/

/-- The four bytes of a lane packed at w bits each by a conversion of a byte. -/
def packLane (w : Nat) (f : Nat → Nat) (v : Nat) : Nat :=
  let b := fun i => f (v / 2 ^ (8 * i) % 256)
  b 0 + 2 ^ w * b 1 + 2 ^ (2 * w) * b 2 + 2 ^ (3 * w) * b 3
def clampI4 (b : Nat) : Nat := if b < 128 then min b 7 else (max b 248) % 16
def clampU4 (b : Nat) : Nat := min b 15

/-- The base of a packed access must be 16-byte aligned; vlane is then 0 (R219, R353). -/
def State.packedBase (s : State) (c : Nat) (k : Ctx) (o : VMemOp) (f : State → State) : State :=
  let base := (k.xr o.b + o.d.signExtend 64).toNat
  if base % 16 ≠ 0 then (s.modCtx c fun x => { x with vlane := 0 }).raise c (misTrap base) else f s

def vunp (o : VMemOp) (n w : Nat) (sext : Bool) (s : State) : Out :=
  issue o.m o.needL .none s fun c k s =>
    s.packedBase c k o fun s => s.vload c k o.a (packed c k o n (.unpack w sext))
def vpk (o : VMemOp) (n w : Nat) (f : Nat → Nat) (s : State) : Out :=
  issue o.m o.needS .none s fun c k s =>
    s.packedBase c k o fun s => s.vstore c k (packed c k o n) fun j => packLane w f (laneNum k o.a j)

def execVldUnpTf6 (o : VMemOp) (s : State) : Out := vunp o 3 6 true s
def execVldUnpI4 (o : VMemOp) (s : State) : Out := vunp o 2 4 true s
def execVldUnpUi4 (o : VMemOp) (s : State) : Out := vunp o 2 4 false s
def execVstPkTf6 (o : VMemOp) (s : State) : Out := vpk o 3 6 (fun b => b % 64) s
def execVstPkI4 (o : VMemOp) (s : State) : Out := vpk o 2 4 clampI4 s
def execVstPkUi4 (o : VMemOp) (s : State) : Out := vpk o 2 4 clampU4 s

end Sys2Proof.Machine
end

