-- ==== Sys2Proof/Machine/Memory.lean ====
section
/-! DEFINITION. Scalar loads and stores, acquire and release, atomics, fences (R222 to R231). -/

namespace Sys2Proof.Machine

/-! ## Loads and stores (R223 to R225) -/

/-- The effective address (R223). -/
def effAddr (b : Word) (d : BitVec 32) : Word := b + d.signExtend 64

/-- A load of n bytes at an address; `late`: nothing orders it before the write of its result (R104); `after` says what else its completion
does with the serial of its result. -/
def State.loadAt (s : State) (c : Nat) (k : Ctx) (a : BitVec 6) (ea n : Nat) (signed late : Bool) (after : Nat → State → State) : State :=
  if ea % n ≠ 0 then s.raise c (misTrap ea)
  else
    match s.load (agentOf c k) ea n with
    | .trap t s1 => s1.raise c t
    | .wait s1 => s1
    | .gone s1 => s1
    | .ok v denied s1 =>
      let how : Extend := .scalar (8 * n) signed
      let (s2, serial) := s1.later c .load [.x a (how.value v)] none (if late && denied.isNone then [⟨none, [(ea, n)], how⟩] else [])
      let s3 := (after serial s2).advance c
      match denied with
      | some l => s3.deny c k.pc ea 1 l
      | none => s3

def opLoad (o : XXImm) (n : Nat) (signed : Bool) (s : State) : Out :=
  issue o.m o.needL .none s fun c k s => s.loadAt c k o.a (effAddr (k.xr o.b) o.imm).toNat n signed true fun _ s => s

/-- A store of the low n bytes of a register; `before` and `after` surround the write itself. -/
def State.storeAt (s : State) (c : Nat) (k : Ctx) (a : BitVec 6) (ea n : Nat) (after : State → State) : State :=
  if ea % n ≠ 0 then s.raise c (misTrap ea)
  else
    match s.store (agentOf c k) ea n (k.xr a).toNat with
    | .trap t s1 => s1.raise c t
    | .wait s1 => s1
    | .gone s1 => s1
    | .ok _ _ s1 => ((after s1).watch c ea n).advance c

def opStore (o : XXImm) (n : Nat) (s : State) : Out :=
  issue o.m o.needS .none s fun c k s => s.storeAt c k o.a (effAddr (k.xr o.b) o.imm).toNat n fun s => s

def execLdI8 (o : XXImm) (s : State) : Out := opLoad o 1 true s
def execLdUi8 (o : XXImm) (s : State) : Out := opLoad o 1 false s
def execLdI16 (o : XXImm) (s : State) : Out := opLoad o 2 true s
def execLdUi16 (o : XXImm) (s : State) : Out := opLoad o 2 false s
def execLdI32 (o : XXImm) (s : State) : Out := opLoad o 4 true s
def execLdUi32 (o : XXImm) (s : State) : Out := opLoad o 4 false s
def execLd64 (o : XXImm) (s : State) : Out := opLoad o 8 false s
def execSt8 (o : XXImm) (s : State) : Out := opStore o 1 s
def execSt16 (o : XXImm) (s : State) : Out := opStore o 2 s
def execSt32 (o : XXImm) (s : State) : Out := opStore o 4 s
def execSt64 (o : XXImm) (s : State) : Out := opStore o 8 s

/-- `pref` has no architectural effect and never traps (R225). -/
def execPref (o : PrefOp) (s : State) : Out := issue o.m o.need .none s fun c _ s => s.advance c

/-! ## Merging in the mesh (R119) -/

/-- Operations a router may merge (R119). -/
def mergeable (op : AmoOp) : Bool :=
  match op with
  | .swap => false
  | .cas => false
  | _ => true

/-- Two requests merged into one. -/
def InTransit.join (a b : InTransit) : InTransit :=
  { a with
    serials := a.serials ++ b.serials
    issuers := a.issuers ++ b.issuers
    toks := a.toks ++ b.toks
    rels := a.rels ++ b.rels
    acqs := a.acqs ++ b.acqs
    v := BitVec.ofNat 64 ((amoNew a.op (8 * a.size) (a.v.toNat % 2 ^ (8 * a.size)) (b.v.toNat % 2 ^ (8 * b.size)) 0).getD 0)
    due := max a.due b.due }

/-- Two requests of one member to one place, which arrive in its program order (R103). -/
def InTransit.ordered (t u : InTransit) : Bool := t.issuers.any fun i => u.ownOf i.1 i.2 t.pa t.size
/-- A request enters the mesh, behind its issuers' earlier ones to that place, merging with those already there as the routers happen to: a
tree of any shape; one that returns a value never merges (R119). -/
def State.enterMesh (s : State) (t : InTransit) (fuel : Nat) : State :=
  let mates := s.transit.filter fun u => u.pa == t.pa && u.op == t.op && u.size == t.size && mergeable t.op &&
    t.reader.isNone && u.reader.isNone && !s.transit.any fun w => w.serials != u.serials && (u.ordered w || t.ordered w)
  match fuel, mates with
  | 0, _ => { s with transit := s.transit ++ [t] }
  | _, [] => { s with transit := s.transit ++ [t] }
  | n + 1, _ :: _ =>
    let (yes, s1) := s.choose
    if yes then
      let (i, s2) := s1.pickN
      match mates[i % mates.length]? with
      | some u => { s2 with transit := s2.transit.filter fun w => w.serials != u.serials }.enterMesh (t.join u) n
      | none => { s2 with transit := s2.transit ++ [t] }
    else { s1 with transit := s1.transit ++ [t] }

/-! ## Acquire and release (R115, R226) -/

/-- Releases heard by a context since a state: it acquires what stands before them. -/
def State.acquireNew (s : State) (c : Nat) (k : Ctx) : State :=
  match s.ctxs.find? c with
  | some k' => s.acquireToks k.act k.member (k'.heard.take (k'.heard.length - k.heard.length))
  | none => s

/-- The hold of an acquire on its result (R226). -/
def State.holdAcq (s : State) (c serial : Nat) : State := s.modCtx c fun k => { k with acqHold := serial :: k.acqHold }

/-- The accesses before a release are performed at its scope (R226): every load, and at device scope the atomics still in the mesh. At gang
scope those stand before the release for the members that acquire it (State.markTok). -/
def State.beforeRelease (s : State) (c : Nat) (k : Ctx) (dev : Bool) : State :=
  let s1 := s.modCtx c Ctx.settleAll
  if dev then s1.arrive fun t => t.issuers.contains (k.act, k.member) else s1
/-- A value written by a release (R105). -/
def State.releaseWrite (s : State) (k : Ctx) (ea n : Nat) : State :=
  let (tok, s1) := s.fresh
  (s1.markTok k.act k.member tok).releaseAt k.act ea n tok

def accSize (w64 : Bool) : Nat := if w64 then 8 else 4

/-- `ld.acq` (R226). Its scope makes no difference: a release by a member of another activation makes its earlier atomics arrive before it
writes, and everything else such a member writes is committed. -/
def execLdAcq (o : AcqOp) (s : State) : Out :=
  issue o.m o.needL .none s fun c k s =>
    s.loadAt c k o.a (effAddr (k.xr o.b) o.imm).toNat (accSize o.w64) false false fun serial s => (s.acquireNew c k).holdAcq c serial
def execStRel (o : AcqOp) (s : State) : Out :=
  issue o.m o.needS .none s fun c k s =>
    let ea := (effAddr (k.xr o.b) o.imm).toNat
    (s.beforeRelease c k o.dev).storeAt c k o.a ea (accSize o.w64) fun s => s.releaseWrite k ea (accSize o.w64)

/-! ## Atomics (R227 to R230) -/

/-- What an atomic does where: the old value, or 0 for a denied one. -/
structure Amo where
  op : AmoOp
  size : Nat
  v : Nat
  e : Nat
  /-- its destination; with x0 it has no result (R228) -/
  dest : BitVec 6 := 0
  /-- an acquire; the number of its release -/
  acq : Bool := false
  rel : Option Nat := none

/-- An atomic step sees the latest value and is seen by whoever reads it (R229): the context has seen every write there; its own
write is one more. -/
def State.noteAtomic (s : State) (ag : Agent) (va : Nat) (old : List Before) (writes : Bool) : State :=
  let s1 := { s with stale := s.stale.map fun e =>
      if e.act == ag.act && va < e.va + e.old.length && e.va < va + old.length then e.see ag.member else e }
  let s2 := match ag.ctx with
    | some c => s1.modCtx c fun k => { k with heard := s1.tokensAt ag.act va old.length ++ k.heard }
    | none => s1
  if writes then
    { s2 with stale := { act := ag.act, va := va, old := old, engine := none, seen := [ag.viewer], rels := s1.inForce ag.act va old.length } :: s2.stale }
  else s2

/-- The releases an atomic's write is: its own half, and that of an earlier gang or device fence, after which every write is one (R105, R115). -/
def State.amoReleases (s : State) (ag : Agent) (va : Nat) (q : Amo) : List Release :=
  let fence := (ag.ctx.bind s.ctxs.find?).bind fun k => k.fenceTok
  (q.rel.toList ++ fence.toList).map fun t => ⟨ag.act, va, q.size, t⟩
/-- An atomic has written its value. -/
def State.relAmo (s : State) (ag : Agent) (va : Nat) (q : Amo) : State := { s with releases := s.amoReleases ag va q ++ s.releases }

/-- An atomic on an atomic-class page sets out for its home slice, no sooner there than its issuer's earlier ones to that place (R103, R104,
R119); the register of one that returns a value is empty until its answer comes (R153); an acquire holds the issuer's later accesses until it is
applied (R226, R228). -/
def State.sendAmo (s : State) (ag : Agent) (va pa : Nat) (q : Amo) : State :=
  let (d, s1) := s.delay
  let (n, s2) := s1.fresh
  let own := s2.transit.filter fun t => t.ownOf ag.act ag.member pa q.size
  let t : InTransit :=
    { serials := [n], op := q.op, size := q.size, pa := pa, v := BitVec.ofNat 64 q.v, e := q.e, issuers := [(ag.act, ag.member)]
      rels := s.amoReleases ag va q
      acqs := if q.acq then [(ag.act, ag.member, va)] else []
      reader := if q.dest = 0 then none else some (ag.act, ag.member, va)
      due := own.foldl (fun m t => max m t.due) (s.clock + d) }
  let s3 := s2.enterMesh t s2.transit.length
  match ag.ctx with
  | some c =>
    let s4 := if q.dest = 0 then s3 else s3.modCtx c fun k =>
      { k.emptyX q.dest with vres := k.vres ++ [{ serial := n, due := none, kind := .load, ws := [.x q.dest 0] }] }
    if q.acq then s4.holdAcq c n else s4
  | none => s3

/-- What an atomic answers. -/
inductive Amoed where
  /-- done, with the value before it and the label that denied it, if one did -/
  | ok (v : Nat) (denied : Option (BitVec 16)) (s : State)
  /-- on its way to its home slice -/
  | sent (s : State)
  | trap (t : Trap) (s : State)
  | wait (s : State)
  | gone (s : State)

/-- atomic_read and atomic_write as one step (R228, R229). -/
def State.amo (s0 : State) (ag : Agent) (va : Nat) (q : Amo) : Amoed :=
  let s := s0.settleLoads ag va q.size
  let w := 8 * q.size
  match s.check ag va q.size .amo with
  | (.bad code course t, s1) => .trap (mkTrap code course va) (s1.noteTable ag va t)
  | (.ok (.tcm off), s1) =>
    let old := (s1.tcmOf (ag.ctx.getD 0)).num off q.size
    match amoNew q.op w old q.v q.e with
    | some n => .ok old none (s1.modCtx (ag.ctx.getD 0) fun k => { k with tcm := k.tcm.setNum off q.size n })
    | none => .ok old none s1
  | (.ok (.scratch off), s0) =>
    if s0.scratchPoisoned ag off q.size then .wait s0
    else
    match s0.enterBanks ag off q.size with
    | (false, s1) => .wait s1
    | (true, s1) =>
      let key := scratchKey ag.cluster off
      let bs := s1.scratch.read key q.size
      match amoNew q.op w (numOf bs) q.v q.e with
      | some n =>
        let s2 := (s1.noteAtomic ag va (bs.map Before.byte) true).relAmo ag va q
        .ok (numOf bs) none { s2 with scratch := s2.scratch.setNum key q.size n }
      | none => .ok (numOf bs) none (s1.noteAtomic ag va (bs.map Before.byte) false)
  | (.ok (.glob _ pa l), s1) =>
    match s1.acts.find? ag.act with
    | none => .gone s1
    | some a =>
      if l.atomic then
        if s1.poison.contains (pa / 64) then .wait (s1.poisonHit a.p l pa)
        else if a.denied l.label then .ok 0 (some l.label) s1
        else .sent (s1.sendAmo ag va pa q)
      else
        let ph := a.linePa va pa
        if s1.lockedLine ag.act ph then .wait s1
        else if s1.poison.contains (ph / 64) && (List.range q.size).any (fun i => (a.ownByte (va + i)).isNone) then
          .wait (s1.poisonHit a.p l pa)
        else
          let s2 := s1.modAct ag.act fun k => { k with rsig := sigSet k.rsig va }
          if a.denied l.label then .ok 0 (some l.label) s2
          else
            let bs := s2.readBytes a va ph q.size
            let new (n : Nat) : List (Option Byte) := (bytesOf q.size n).map some
            let before := a.before va (new 0)
            match amoNew q.op w (numOf bs) q.v q.e with
            | none => .ok (numOf bs) none (s2.noteAtomic ag va before false)
            | some n =>
              match ((s2.noteAtomic ag va before true).relAmo ag va q).scaffoldPut ag.act va pa l (new n) with
              | .ok s3 => .ok (numOf bs) none s3
              | .wait _ => .wait s1
              | .gone s3 => .gone s3

/-- One atomic instruction (R228): `ord` bit 0 acquires, bit 1 releases, at device scope or gang scope. -/
def State.amoAt (s : State) (c : Nat) (k : Ctx) (a : BitVec 6) (ea : Nat) (ord : BitVec 2) (dev : Bool) (q : Amo) : State :=
  let acq := ord.getLsbD 0
  let rel := ord.getLsbD 1
  if ea % q.size ≠ 0 then s.raise c (misTrap ea)
  else
    let (tok, s0) := s.fresh
    let s0 := if rel then (s0.beforeRelease c k dev).markTok k.act k.member tok else s
    match s0.amo (agentOf c k) ea { q with dest := a, acq := acq, rel := if rel then some tok else none } with
    | .sent s1 => (s1.watch c ea q.size).advance c
    | .trap t s1 => s1.raise c t
    | .wait s1 => s1
    | .gone s1 => s1
    | .ok old denied s1 =>
      let s2 := if acq then s1.acquireNew c k else s1
      let s4 :=
        if a == 0 && !acq then s2
        else
          let (s', serial) := s2.later c .load [.x a (BitVec.ofNat 64 old)] none
          if acq then s'.holdAcq c serial else s'
      let s5 := (s4.watch c ea q.size).advance c
      match denied with
      | some l => s5.deny c k.pc ea 1 l
      | none => s5

/-- The width of an atomic's operand. -/
def amoV (w64 : Bool) (v : Word) : Nat := if w64 then v.toNat else v.toNat % 2 ^ 32

def opAmo (o : AmoArgs) (op : AmoOp) (s : State) : Out :=
  issue o.m o.need .none s fun c k s =>
    s.amoAt c k o.a (effAddr (k.xr o.b) o.imm).toNat o.ord o.dev { op := op, size := accSize o.w64, v := amoV o.w64 (k.xr o.c), e := 0 }

def execAmoAdd (o : AmoArgs) (s : State) : Out := opAmo o .add s
def execAmoAnd (o : AmoArgs) (s : State) : Out := opAmo o .and s
def execAmoOr (o : AmoArgs) (s : State) : Out := opAmo o .or s
def execAmoXor (o : AmoArgs) (s : State) : Out := opAmo o .xor s
def execAmoMin (o : AmoArgs) (s : State) : Out := opAmo o .min s
def execAmoMax (o : AmoArgs) (s : State) : Out := opAmo o .max s
def execAmoMinu (o : AmoArgs) (s : State) : Out := opAmo o .minu s
def execAmoMaxu (o : AmoArgs) (s : State) : Out := opAmo o .maxu s
def execAmoSwap (o : AmoArgs) (s : State) : Out := opAmo o .swap s
def execAmoCas (o : AmoArgs) (s : State) : Out :=
  issue o.m o.needCas .none s fun c k s =>
    s.amoAt c k o.a (effAddr (k.xr o.b) o.imm).toNat o.ord
      o.dev { op := .cas, size := accSize o.w64, v := amoV o.w64 (k.xr o.c), e := amoV o.w64 (k.xr o.a) }
def execAmoFaddF32 (o : AmoFArgs) (s : State) : Out :=
  issue o.m o.need .none s fun c k s =>
    s.amoAt c k o.a (effAddr (k.xr o.b) o.imm).toNat o.ord o.dev { op := .fadd, size := 4, v := amoV false (k.xr o.c), e := 0 }

/-! ## Fences (R115, R117, R231) -/

/-- The loads and atomics of a context whose values are still to come. -/
def Ctx.loadsOut (k : Ctx) : List Nat :=
  (k.vres.filter fun r => match r.kind with
    | .load => true
    | _ => false).map fun r => r.serial

/-- Requests of a member still in the mesh. -/
def State.inMesh (s : State) (k : Ctx) : List Nat :=
  (s.transit.filter fun t => t.issuers.contains (k.act, k.member)).flatMap fun t => t.serials

/-- Every write a member has performed or seen is performed for every member (R231). -/
def State.showGang (s : State) (act member : Nat) : State :=
  { s with stale := s.stale.map fun e =>
      if e.act == act && e.seen.contains member then { e with seen := List.range 16 ++ e.seen.filter fun v => 16 ≤ v } else e }

/-- A gang or device fence: every load before it has been performed, an acquire of what those loads heard, a release by every later store, and
its earlier stores are performed for every member of the gang (R115, R231). Each waits for the atomics in the mesh to reach their home slices
(R119), after which they are performed for every agent of the device, and one that returns a value then acquires; nothing else an activation has
not committed can be seen outside its gang. -/
def State.fenceOrder (s : State) (c : Nat) (k : Ctx) : State :=
  let reads (t : InTransit) : InTransit := match t.reader with
    | some r => if r.1 == k.act && r.2.1 == k.member then { t with acqs := r :: t.acqs } else t
    | none => t
  let s0 := { s.modCtx c Ctx.settleAll with transit := s.transit.map reads }
  let (tok, s1) := (s0.acquireToks k.act k.member k.heard).fresh
  ((s1.markTok k.act k.member tok).showGang k.act k.member).modCtx c fun k => { k with heard := [], fenceTok := some tok }

/-- Every earlier access whose performance a fence awaits (R119, R231). -/
def State.accessesOut (s : State) (k : Ctx) : List Nat := k.loadsOut ++ s.inMesh k

def execFenceThr (o : NoneOp) (s : State) : Out :=
  issue o.m noNeed .none s fun c k s =>
    let out := s.accessesOut k
    s.modCtx c fun x => { x.advance with fenceHold := out ++ x.fenceHold, cycleHold := out ++ x.cycleHold }
def execFenceGang (o : NoneOp) (s : State) : Out :=
  issue o.m noNeed .none s fun c k s =>
    let s1 := s.fenceOrder c k
    s1.modCtx c fun x => { x.advance with fenceHold := s1.accessesOut k ++ x.fenceHold }
def execFenceDev (o : NoneOp) (s : State) : Out :=
  issue o.m noNeed .none s fun c k s =>
    let s1 := s.fenceOrder c k
    s1.modCtx c fun x => { x.advance with fenceHold := s1.accessesOut k ++ x.fenceHold }
/-- `fence.xd`: every write the context has performed or acquired becomes visible to the engine domain (R117). -/
def execFenceXd (o : NoneOp) (s : State) : Out :=
  issue o.m noNeed .none s fun c k s =>
    let show_ (e : Stale) : Stale := if e.act == k.act && e.seen.contains k.member then { e with pub := true } else e
    { s with stale := s.stale.map show_ }.advance c

end Sys2Proof.Machine
end

