-- ==== Sys2Proof/Machine/Sync.lean ====
section
/-! DEFINITION. Waking a context, barriers (R232, R233), tags (R234 to R236), `park` (R255). -/

namespace Sys2Proof.Machine

/-! ## Leaving WAIT (R70) -/

/-- A context in WAIT whose condition holds writes its result and goes on. -/
def Ctx.wakeBy (k : Ctx) (f : WaitFor → Option (List RegWrite)) : Ctx :=
  match k.wait with
  | none => k
  | some w =>
    match f w with
    | some ws => { (k.puts ws).advance with wait := none }
    | none => k

/-- A wait on a register or tag that ends after 256 cycles or more makes a wait record, with the PC of the instruction that waited (R320,
R324). -/
def State.endWait (s : State) (c : Nat) : State :=
  match s.ctxs.find? c with
  | none => s
  | some k =>
    if k.sampleWait < 256 then s.modCtx c fun k => { k with sampleWait := 0 }
    else
      match s.acts.find? k.act with
      | none => s
      | some a =>
        let r := mkTrace (BitVec.ofNat 64 s.now) k.pc a.letter.postmark a.slot c 8 false k.sampleWait
        s.modCtx c fun k => { (k.addSample r) with sampleWait := 0 }

/-- The condition is tested for a member in its context; a saved member keeps its wait, and is to be woken once it is restored (R73). -/
def State.wakeMember (s : State) (a m : Nat) (f : WaitFor → Option (List RegWrite)) : State :=
  match (s.ctxs.filter fun x => x.2.act == a && x.2.member == m).head? with
  | some (c, k) => if (k.wait.bind f).isSome then (s.endWait c).modCtx c fun k => k.wakeBy f else s
  | none => s.modMember a m fun u =>
      let woken (v : Saved) : Saved := if (v.ctx.wait.bind f).isSome then { v with woke := true } else v
      { u with saved := u.saved.map woken }

/-- The wait of a member, in its context or its saved record. -/
def State.waitOf (s : State) (a m : Nat) : Option WaitFor :=
  match (s.ctxs.filter fun kv => kv.2.act == a && kv.2.member == m).head? with
  | some kv => kv.2.wait
  | none => (((s.acts.find? a).bind fun k => k.member? m).bind fun u => u.saved).bind fun v => v.ctx.wait

def wakePark (w : WaitFor) : Option (List RegWrite) :=
  match w with
  | .park _ => some []
  | _ => none


/-! ## Barriers (R116, R232, R233) -/

def State.barrier (s : State) (a n : Nat) : Barrier :=
  match s.acts.find? a with
  | some k => k.bars.get n {}
  | none => {}
def State.setBarrier (s : State) (a n : Nat) (b : Barrier) : State := s.modAct a fun k => { k with bars := k.bars.set n b }

def Barrier.full (b : Barrier) : Bool := b.members != 0 && (b.members &&& ~~~b.arrived) == 0

/-- A phase completes: its pending phases with it, arrivals clear, the phase number advances. -/
def Barrier.complete (b : Barrier) : Barrier :=
  let tok := b.toks.get b.phase 0
  let done := b.pending.filter fun e => e.2 == b.phase
  { b with
    arrived := 0
    phase := b.phase + 1
    pending := b.pending.filter fun e => e.2 != b.phase
    toks := b.toks.erase b.phase
    last := done.foldl (fun t e => t.set e.1 tok) b.last }

/-- A member's completed wait is an acquire of its phase (R116). -/
def State.barAcquire (s : State) (a n m : Nat) : State :=
  match (s.barrier a n).last.find? m with
  | some tok => s.acquireToks a m [tok]
  | none => s

/-- Wakes the members that waited on a phase, with the acquire of R116. -/
def State.barWake (s : State) (a n phase : Nat) : State :=
  (List.range 16).foldl (fun st m =>
    match st.waitOf a m with
    | some (.bar n' ph) =>
      if n'.toNat == n && ph == phase then
        (st.wakeMember a m fun w => match w with
          | .bar _ _ => some []
          | _ => none).barAcquire a n m
      else st
    | some (.park _) => st.wakeMember a m wakePark
    | _ => st) s

/-- sr.progress and the tag file as a value read (R254). -/
def State.probe (s : State) (k : Ctx) (q : Probe) : Word :=
  match q with
  | .sr .tags => s.tagsOf k
  | .sr .tagerr => s.tagerrOf k
  | .sr _ => k.progress
  | .first mask => ctzOf (s.tagsOf k &&& mask)
  | .test t => (if (s.tagsOf k).getLsbD t then 1 else 0) + (if (s.tagerrOf k).getLsbD t then 2 else 0)
  | .missing n =>
    let b := s.barrier k.act n
    (b.members &&& ~~~b.arrived).setWidth 64

/-- The engine state a member has asked for is read at some moment before its own later instruction changes that state (R153, R236):
the reads of its context still to be performed are performed now. -/
def State.readNow (s : State) (a m : Nat) : State :=
  let now (k : Ctx) (r : VRes) : VRes :=
    match r.rd with
    | some (d, q) => { r with ws := [RegWrite.x d (s.probe k q)], rd := none }
    | none => r
  { s with ctxs := s.ctxs.mapVals fun _ k =>
      if k.act == a && k.member == m && k.vres.any fun r => r.rd.isSome then { k with vres := k.vres.map (now k) } else k }

/-- A change to a barrier object by member m, and the phase it may complete in the same step. -/
def State.barChange (s : State) (a n m : Nat) (b : Barrier) : State :=
  if b.full then
    let s1 := (s.setBarrier a n b.complete).modAct a fun k => { k with holder := some m }
    (s1.barWake a n b.phase).flushAct a
  else s.setBarrier a n b

/-- Every load of a member has been performed. -/
def State.settleMember (s : State) (a m : Nat) : State :=
  { s with ctxs := s.ctxs.mapVals fun _ k => if k.act == a && k.member == m then k.settleAll else k }

/-- `bar.arrive`: a release at gang scope (R116). -/
def State.barArrive (s : State) (a n m : Nat) : State :=
  let b := s.barrier a n
  if !b.members.getLsbD m then s
  else
    let (tok, s1) := match b.toks.find? b.phase with
      | some t => (t, s)
      | none => s.fresh
    (((s1.readNow a m).settleMember a m).markTok a m tok).barChange a n m
      { b with arrived := setBit b.arrived m true, pending := b.pending.set m b.phase, toks := b.toks.set b.phase tok }

/-- `bar.wait`: at once when nothing is pending, else WAIT. -/
def State.barWait (s : State) (c : Nat) (k : Ctx) (n : BitVec 3) : State :=
  match (s.barrier k.act n.toNat).pending.find? k.member with
  | none => (s.barAcquire k.act n.toNat k.member).advance c
  | some ph => s.modCtx c fun x => { x with wait := some (.bar n ph) }

def State.barLeave (s : State) (a n m : Nat) : State :=
  let b := s.barrier a n
  (s.readNow a m).barChange a n m { b with members := setBit b.members m false, arrived := setBit b.arrived m false, pending := b.pending.erase m }

def execBarArrive (o : BarOp) (s : State) : Out :=
  issue o.m noNeed .none s fun c k s => (s.barArrive k.act o.n.toNat k.member).advance c
def execBarWait (o : BarOp) (s : State) : Out := issue o.m noNeed .none s fun c k s => s.barWait c k o.n
def execBarSync (o : BarOp) (s : State) : Out :=
  issue o.m noNeed .none s fun c k s => (s.barArrive k.act o.n.toNat k.member).barWait c k o.n
def execBarJoin (o : BarOp) (s : State) : Out :=
  issue o.m noNeed .none s fun c k s =>
    let b := s.barrier k.act o.n.toNat
    ((s.readNow k.act k.member).barChange k.act o.n.toNat k.member { b with members := setBit b.members k.member true }).advance c
def execBarLeave (o : BarOp) (s : State) : Out :=
  issue o.m noNeed .none s fun c k s => (s.barLeave k.act o.n.toNat k.member).advance c
def execBarMissing (o : BarXOp) (s : State) : Out :=
  issue o.m o.need .none s fun c _ s =>
    (s.later c .state [] (some (o.a, .missing o.n.toNat))).1.advance c

/-! ## Tags (R118, R234 to R236) -/

/-- What a tag wait writes once its condition holds. -/
def tagReady (all : Bool) (mask tags : Word) : Option Word :=
  if all then (if tags &&& mask = mask then some mask else none)
  else if mask = 0 || tags &&& mask ≠ 0 then some (tags &&& mask)
  else none

/-- After an `.xd` wait the member sees every write of the commands that set the awaited tags (R118). -/
def State.seeTags (s : State) (a m : Nat) (mask : Word) : State :=
  let look (e : Stale) : Stale :=
    match e.engine with
    | some (m', t) => if e.act == a && m' == m && mask.getLsbD (t % 128) then e.see m else e
    | none => e
  { s with stale := s.stale.map look }

/-- A command names a tag: both its bits clear (R235); writes of earlier commands are no longer told by it. -/
def State.clearTag (s : State) (a m t : Nat) : State :=
  let s1 := (s.readNow a m).modMember a m fun u => { u with tags := setBit u.tags t false, tagerr := setBit u.tagerr t false }
  let past (e : Stale) : Stale :=
    if e.act == a && e.engine == some (m, t) then { e with engine := some (m, 64) }
    else if e.act == a && e.engine == some (m, 128 + t) then { e with engine := some (m, 192) }
    else e
  { s1 with stale := s1.stale.map past }

/-- The waits of a member after a change of its tags. -/
def State.tagWake (s : State) (a m : Nat) : State :=
  match (s.acts.find? a).bind fun k => k.member? m with
  | none => s
  | some u =>
    match s.waitOf a m with
    | some (.tag all xd mask dest) =>
      match tagReady all mask u.tags with
      | some v =>
        let s1 := s.wakeMember a m fun w => match w with
          | .tag _ _ _ _ => some [.x dest v]
          | _ => none
        if xd then s1.seeTags a m v else s1
      | none => s
    | some (.park _) => s.wakeMember a m wakePark
    | _ => s

/-- A command or slot completes: done, and err if it failed (R235). -/
def State.setTag (s : State) (a m t : Nat) (err : Bool) : State :=
  (s.modMember a m fun u =>
    { u with
      tags := setBit u.tags t true
      tagerr := if err then setBit u.tagerr t true else u.tagerr
      held := setBit u.held t false }).tagWake a m

/-- The four waits (R236). -/
def tagWait (o : XX) (all xd : Bool) (s : State) : Out :=
  issue o.m o.needTag .none s fun c k s =>
    let mask := k.xr o.b
    match tagReady all mask (s.tagsOf k) with
    | some v =>
      let s1 := s.modCtx c fun x => (x.put (.x o.a v)).advance
      if xd then s1.seeTags k.act k.member v else s1
    | none => s.modCtx c fun x => { x.emptyX o.a with wait := some (.tag all xd mask o.a) }

def execTagWaitAny (o : XX) (s : State) : Out := tagWait o false false s
def execTagWaitAll (o : XX) (s : State) : Out := tagWait o true false s
def execTagWaitAnyXd (o : XX) (s : State) : Out := tagWait o false true s
def execTagWaitAllXd (o : XX) (s : State) : Out := tagWait o true true s
def execTagFirst (o : XX) (s : State) : Out :=
  issue o.m o.needFirst .none s fun c k s => (s.later c .state [] (some (o.a, .first (k.xr o.b)))).1.advance c
def execTagTest (o : XN6) (s : State) : Out :=
  issue o.m o.needTest .none s fun c _ s => (s.later c .state [] (some (o.a, .test o.n.toNat))).1.advance c

/-- The tags that no command or subscription holds (R235, R236). -/
def Member.freeTags (m : Member) : Word :=
  (List.range 64).foldl (fun w t => if m.held.getLsbD t || m.subTag t then w else w ||| (1#64 <<< t)) 0
def execTagClr (o : XOp) (s : State) : Out :=
  issue o.m o.needR .none s fun c k s =>
    ((s.readNow k.act k.member).modMember k.act k.member fun u =>
      let gone := k.xr o.a &&& u.freeTags
      { u with tags := u.tags &&& ~~~gone, tagerr := u.tagerr &&& ~~~gone }).advance c

/-- A member in WAIT whose condition holds already goes on: one that was restored after its tag set or its phase completed (R73). -/
def State.recheckWait (s : State) (c : Nat) : State :=
  match s.ctxs.find? c with
  | none => s
  | some k =>
    match k.wait with
    | some (.bar n _) =>
      if ((s.barrier k.act n.toNat).pending.find? k.member).isSome then s
      else (s.wakeMember k.act k.member fun w => match w with
        | .bar _ _ => some []
        | _ => none).barAcquire k.act n.toNat k.member
    | some (.tag _ _ _ _) => s.tagWake k.act k.member
    | _ => s

/-- `park n` (R255): until a tag sets, a phase completes or n cycles pass. -/
def execPark (o : N16) (s : State) : Out :=
  issue o.m noNeed .none s fun c _ s =>
    s.modCtx c fun x => { x with wait := some (.park (if o.n = 0 then 65536 else o.n.toNat)) }
/-- The cycles of a `park` have passed. -/
def execParkTimeout (ctx : Nat) (s : State) : Out := .next (s.modCtx ctx fun k => k.wakeBy wakePark)

/-! ## Results (R76, R77, R128, R153) -/

/-- A loaded value takes the place of an earlier one in its register write. -/
def RegWrite.reload (w : RegWrite) (q : Reload) (v : Nat) : RegWrite :=
  match w, q.lane with
  | .x r _, none => .x r (q.how.value v)
  | .v r l, some j => .v r (setLane l j ((q.how.value v).setWidth 32))
  | w, _ => w
/-- A part of a load may be performed at the write of its result instead of at its issue (R104; log 5). -/
def State.reload (s : State) (c : Nat) (k : Ctx) (ws : List RegWrite) (qs : List Reload) : List RegWrite × State :=
  match qs with
  | [] => (ws, s)
  | q :: r =>
    let (again, s1) := s.choose
    if again then match s1.loadUnits { agentOf c k with port := none } q.units with
      | .ok v none s2 => s2.reload c k (ws.map fun w => w.reload q v) r
      | _ => s1.reload c k ws r
    else s1.reload c k ws r

/-- A variable-latency result is written: its register becomes full, its flags are set, what waited on it may go on; the entry of
`callx` gives the link and the transfer (R187). -/
def execVariableResultWrite (ctx serial : Nat) (s : State) : Out :=
  match s.ctxs.find? ctx with
  | none => .next s
  | some k =>
    match k.vres.find? fun r => r.serial == serial with
    | none => .next s
    | some r =>
      let (ws, s0) := match r.rd with
        | some (d, q) => ([RegWrite.x d (s.probe k q)], s)
        | none => s.reload ctx k r.ws r.again
      let s1 := (s0.modCtx ctx fun k => { (k.puts ws) with vres := k.vres.filter fun r => r.serial != serial }).unhold [serial]
      match r.kind with
      | .callx link target ret =>
        .next ((s1.modCtx ctx fun k =>
          { k.put (.x link ret) with pause := if k.pause = some .callxRecord then some .record else none }).branch ctx target)
      | _ => .next s1

/-- The gap count of a context runs out (R77). -/
def execIssueGapExpiry (ctx : Nat) (s : State) : Out := .next (s.modCtx ctx fun k => { k with gap := 0 })

end Sys2Proof.Machine
end

