-- ==== Sys2Proof/Machine/Engines.lean ====
section
/-! DEFINITION. The cluster courier (R237 to R239, R296), the fabric couriers' commands (R240 to R242) and the feeders (R97, R98,
R243, R244), with engine reports and repairs (R356, R374). -/

namespace Sys2Proof.Machine

/-! ## Engine reports (R356, R357, R374) -/

/-- The kind-4 record of a failing command, and the earliest of its activation (R357). Answers whether the record has room. -/
def State.report (s : State) (a ctx tag : Nat) (fn : BitVec 16) (code addr : Nat) (cont : List Event) : State × Bool :=
  match s.acts.find? a with
  | none => (s, true)
  | some k =>
    let s1 := s.modAct a fun k =>
      { k with firstErr := k.firstErr.orElse fun _ => some (BitVec.ofNat 8 code, BitVec.ofNat 16 ctx, BitVec.ofNat 64 addr) }
    s1.record k.p (mkRecord s.now 4 code 0 ctx 4 tag k.self k.letter.postmark (BitVec.ofNat 64 addr) (fn.setWidth 64) 0 0) none cont


/-- One more denied line of a command; the record names the lowest (R379). -/
def addLine (d : Option DeniedLines) (va : Nat) (label : BitVec 16) : Option DeniedLines :=
  let line := va / 64 * 64
  match d with
  | none => some ⟨[va / 64], line, label⟩
  | some e =>
    let e1 := if line < e.addr then { e with addr := line, label := label } else e
    some (if e.lines.contains (va / 64) then e1 else { e1 with lines := (va / 64) :: e.lines })

/-- Whether a trap is one the runtime may repair. -/
def Trap.repairs (t : Trap) : Option (Bool × Bool) :=
  match t.course with
  | .repair w c => some (w, c)
  | _ => none

/-- A tag of the issuing member is held by an open subscription (R235). -/
def State.subHolds (s : State) (a m t : Nat) : Bool :=
  match (s.acts.find? a).bind fun k => k.member? m with
  | some u => u.subTag t
  | none => false

/-- A command takes its tag (R235). -/
def State.takeTag (s : State) (a m t : Nat) : State :=
  (s.clearTag a m t).modMember a m fun u => { u with held := setBit u.held t true }

/-! ## Pieces of a range (R102, R238) -/

def inScratch (va : Nat) : Bool := va / 2 ^ 56 == 0xFD

/-- Scratchpad goes by word, global memory by line (R102, R238). -/
def pieceBytes (va : Nat) : Nat := if inScratch va then 4 - va % 4 else 64 - va % 64
def piecesFrom (va len fuel : Nat) : List Piece :=
  match fuel with
  | 0 => []
  | k + 1 =>
    if len = 0 then []
    else
      let n := min len (pieceBytes va)
      ⟨va, n⟩ :: piecesFrom (va + n) (len - n) k
def pieces (va len : Nat) : List Piece := piecesFrom va len (len / 4 + 2)
/-- The pieces in an order of the engine's own (R238). -/
def rotated {α : Type} (l : List α) (i : Nat) : List α :=
  if l.length = 0 then l else l.drop (i % l.length) ++ l.take (i % l.length)

/-- How the pieces of a command go. -/
inductive Run where
  | ok (cmd : Cmd) (s : State)
  | bad (t : Trap) (cmd : Cmd) (s : State)
  | wait (cmd : Cmd) (s : State)
  | gone (s : State)

/-- Source pieces read from where the command stands, a denied line as zeros (R94). -/
def readPieces (ag : Agent) (ps : List Piece) (cmd : Cmd) (s : State) : Run :=
  match ps with
  | [] => .ok cmd s
  | p :: r =>
    match s.load ag p.va p.n with
    | .ok v none s1 => readPieces ag r { cmd with got := cmd.got ++ [v] } s1
    | .ok _ (some l) s1 => readPieces ag r { cmd with got := cmd.got ++ [0], denied := addLine cmd.denied p.va l } s1
    | .trap t s1 => .bad t cmd s1
    | .wait s1 => .wait cmd s1
    | .gone s1 => .gone s1

/-- Destination pieces written. -/
def writePieces (ag : Agent) (ps : List (Piece × Nat)) (cmd : Cmd) (s : State) : Run :=
  match ps with
  | [] => .ok cmd s
  | (p, v) :: r =>
    match s.store ag p.va p.n v with
    | .ok _ _ s1 => writePieces ag r { cmd with put := cmd.put + 1 } s1
    | .trap t s1 => .bad t cmd s1
    | .wait s1 => .wait cmd s1
    | .gone s1 => .gone s1

/-- One command that writes 4 KiB or more into a 64 KiB DRAM page promotes it first (R106). -/
def State.promoteRange (s : State) (ag : Agent) (va len fuel : Nat) : Wrote :=
  match fuel with
  | 0 => .ok s
  | k + 1 =>
    if len = 0 || inScratch va then .ok s
    else
      let n := min len (65536 - va % 65536)
      if n < 4096 then s.promoteRange ag (va + n) (len - n) k
      else
        match s.check ag va 4 .write with
        | (.ok (.glob _ _ l), s1) =>
          let held := match s1.acts.find? ag.act with
            | some a => (a.pages.find? (va / 65536)).isSome
            | none => true
          if l.promotes && !held then
            match s1.promote ag.act va l with
            | .ok s2 => s2.promoteRange ag (va + n) (len - n) k
            | r => r
          else s1.promoteRange ag (va + n) (len - n) k
        | (_, s1) => s1.promoteRange ag (va + n) (len - n) k

/-- The agent a command's engine is. -/
def Cmd.agent (cmd : Cmd) : Agent :=
  { act := cmd.act, ctx := none, cluster := cmd.cluster, member := cmd.member, tag := cmd.tag, port := some 17
    engine := courierNo cmd.cluster, sr := cmd.ctx }

/-- The byte at an address among units read. -/
def gotAt (got : List (Piece × Nat)) (va : Nat) : Option Byte :=
  (got.find? fun x => x.1.va ≤ va && va < x.1.va + x.1.n).bind fun x => (bytesOf x.1.n x.2)[va - x.1.va]?
/-- The destination units of a copy whose source bytes have been read, with their values. -/
def copyUnits (got : List (Piece × Nat)) (src dst : Nat) (us : List Piece) : List (Piece × Nat) :=
  us.filterMap fun p => ((List.range p.n).mapM fun j => gotAt got (src + (p.va - dst) + j)).map fun bs => (p, numOf bs)
def Cluster.putCmd (k : Cluster) (cmd : Cmd) : Cluster :=
  { k with courier := k.courier.map fun c => if c.serial == cmd.serial then cmd else c }
/-- The destination pages a command writes 4 KiB or more into are promoted once (R106), then its units are written; what it has met so far stands
with it in the courier, should its activation stop at a write (R94). -/
def Cmd.writeUnits (cmd : Cmd) (len : Nat) (us : List (Piece × Nat)) (s0 : State) : Run :=
  let s := s0.modCluster cmd.cluster fun k => k.putCmd cmd
  match (if cmd.promoted then Wrote.ok s else s.promoteRange cmd.agent cmd.dst.toNat len (len / 4096 + 2)) with
  | .gone s1 => .gone s1
  | .wait s1 => .wait cmd s1
  | .ok s1 => writePieces cmd.agent (us.drop cmd.put) { cmd with promoted := true } s1

/-- The end of a command whose unit has failed before its writes: it fails with that unit's condition, the first it met (R238). -/
def Run.failing (r : Run) : Run :=
  let bad (cmd : Cmd) (s : State) : Option Run := cmd.failed.map fun f => .bad { code := f.1, badaddr := some (BitVec.ofNat 64 f.2) } cmd s
  match r with
  | .ok cmd s => (bad cmd s).getD r
  | .bad _ cmd s => (bad cmd s).getD r
  | r => r

/-- Reads and writes of a copy from where it stands: what a failing source leaves read is still written (R238). -/
def copyRun (cmd : Cmd) (s : State) : Run :=
  let src := rotated (pieces cmd.src.toNat cmd.len) (cmd.start.getD 0)
  let dst := rotated (pieces cmd.dst.toNat cmd.len) (cmd.start.getD 0)
  let finish (cmd : Cmd) (s : State) : Run :=
    (cmd.writeUnits cmd.len (copyUnits (src.zip cmd.got) cmd.src.toNat cmd.dst.toNat dst) s).failing
  if cmd.failed.isSome then finish cmd s
  else
    match readPieces cmd.agent (src.drop cmd.got.length) cmd s with
    | .ok cmd s1 => finish cmd s1
    | .bad t cmd s1 =>
      if t.repairs.isSome then .bad t cmd s1 else finish { cmd with failed := some (t.code, (t.badaddr.getD 0).toNat) } s1
    | r => r

/-- Every word of the destination takes the pattern (R238). -/
def fillRun (cmd : Cmd) (s : State) : Run :=
  let ps := rotated (pieces cmd.dst.toNat cmd.len) (cmd.start.getD 0)
  let w := cmd.src.toNat % 2 ^ 32
  let val (n : Nat) : Nat := numOf ((List.replicate (n / 4) (bytesOf 4 w)).flatten)
  cmd.writeUnits cmd.len (ps.map fun p => (p, val p.n)) s

/-- The bytes read so far, in address order of an unrotated read. -/
def gotBytes (ps : List Piece) (got : List Nat) : List Byte := (ps.zip got).flatMap fun x => bytesOf x.1.n x.2

/-- The 8 bytes of associated data (R296). -/
def decAad (dev p k len : Nat) : BitVec 64 := BitVec.ofNat 64 (dev % 2 ^ 16 + p % 2 ^ 8 * 2 ^ 16 + k * 2 ^ 24 + len * 2 ^ 32)

def State.device (s : State) : Nat := bits (s.fn0.get 0x10000 0) 48 9

/-- A decryption: the whole ciphertext and tag, then, once the tag verifies, the plaintext (R239, R296). -/
def decRun (cmd : Cmd) (p k : Nat) (key : BitVec 256) (nonce : BitVec 96) (s : State) : Run :=
  let src := pieces cmd.src.toNat (cmd.len + 16)
  match readPieces cmd.agent (src.drop cmd.got.length) cmd s with
  | .ok cmd s1 =>
    let bs := gotBytes src cmd.got
    match Config.gcmOpen key nonce (decAad s.device p k cmd.len) (bs.take cmd.len)
        (BitVec.ofNat 128 (numOf (bs.drop cmd.len))) with
    | none => .bad { code := cAuthFailed, badaddr := some 0 } cmd s1
    | some plain =>
      cmd.writeUnits cmd.len ((pieces cmd.dst.toNat cmd.len).map fun q => (q, numOf ((plain.drop (q.va - cmd.dst.toNat)).take q.n))) s1
  | r => r

/-! ## The cluster courier (R237 to R239) -/

/-- What a command meets before any unit (R237, R239): cause and address. -/
def Cmd.invalid (cmd : Cmd) (sub : Bool) : Option (Nat × Nat) :=
  let addrs := match cmd.kind with
    | .fill => [cmd.dst.toNat]
    | _ => [cmd.dst.toNat, cmd.src.toNat]
  let win (a : Nat) : Bool := a / 2 ^ 56 == 0xFD || a / 2 ^ 56 == 0
  if sub then some (cStreamState, 0)
  else
    match addrs.find? fun a => !win a with
    | some a => some (cNonCanonical, a)
    | none =>
      match addrs.find? fun a => a % 4 != 0 with
      | some a => some (cMisaligned, a)
      | none => if cmd.len % 4 != 0 || 2 ^ 32 ≤ cmd.len then some (cMisaligned, cmd.dst.toNat) else none

def Cluster.dropCmd (k : Cluster) (serial : Nat) : Cluster := { k with courier := k.courier.filter fun c => c.serial != serial }

/-- A courier command leaves the queue with its tag set. -/
def State.endCmd (s : State) (cluster : Nat) (cmd : Cmd) (err : Bool) : State :=
  (s.modCluster cluster fun k => k.dropCmd cmd.serial).setTag cmd.act cmd.member cmd.tag err

def State.failCmd (s : State) (cluster : Nat) (cmd : Cmd) (code addr : Nat) : State :=
  let (s1, ok) := s.report cmd.act cmd.ctx cmd.tag cmd.fn code addr [.courierCommandComplete cluster cmd.serial]
  if ok then s1.endCmd cluster cmd true else s1.modCluster cluster fun k => k.putCmd { cmd with reported := true, denied := none }

/-- The courier finishes a command, fails it, or waits (R238, R356, R374). -/
def execCourierCommandComplete (cluster serial : Nat) (s : State) : Out :=
  match (s.cluster cluster).courier.find? fun c => c.serial == serial with
  | none => .next s
  | some cmd0 =>
    if cmd0.reported then .next (s.endCmd cluster cmd0 true)
    else
      match cmd0.invalid (s.subHolds cmd0.act cmd0.member cmd0.tag) with
      | some (code, addr) => .next (s.failCmd cluster cmd0 code addr)
      | none =>
        let (i, s1) := s.pickN
        let cmd := { cmd0 with start := some (cmd0.start.getD i) }
        let p := ((s.acts.find? cmd.act).map fun a => a.p).getD 0
        let run := match cmd.kind with
          | .copy => copyRun cmd s1
          | .fill => fillRun cmd s1
          | .dec k key nonce => decRun cmd p k.toNat key nonce s1
        match run with
        | .gone s2 => .next s2
        | .wait cmd s2 => .next ((s2.modCluster cluster fun k => k.putCmd cmd).postAt 1 (.courierCommandComplete cluster serial))
        | .ok cmd s2 => .next ((s2.denyEngine cmd.act cmd.ctx cmd.tag cmd.denied false).endCmd cluster cmd false)
        | .bad t cmd s2 =>
          match t.repairs with
          | some (w, c) =>
            let s3 := s2.modCluster cluster fun k => k.putCmd cmd
            .next (s3.askRepair (.courier cluster serial) cmd.act t.code (t.badaddr.getD 0) (cmd.fn.setWidth 64) w c 4 cmd.ctx)
          | none =>
            let s3 := s2.denyEngine cmd.act cmd.ctx cmd.tag cmd.denied false
            .next (s3.failCmd cluster cmd t.code (t.badaddr.getD 0).toNat)

/-- A courier command enters the queue; one of length 0 completes at once (R237). -/
def State.startCmd (s : State) (c : Nat) (k : Ctx) (t : Nat) (fn : BitVec 16) (kind : CpOpKind) (dst src len : Word) : State :=
  let s1 := s.takeTag k.act k.member t
  if len = 0 then (s1.setTag k.act k.member t false).advance c
  else
    let (n, s2) := s1.fresh
    let cmd : Cmd :=
      { serial := n, act := k.act, member := k.member, ctx := c, cluster := clusterOf c, tag := t, fn := fn, kind := kind
        dst := dst, src := src, len := len.toNat }
    ((s2.modCluster (clusterOf c) fun q => { q with courier := q.courier ++ [cmd] }).postIn
      (.courierCommandComplete (clusterOf c) n)).advance c

def execCp (o : CpOp) (s : State) : Out :=
  issue o.m o.need .none s fun c k s => s.startCmd c k o.t.toNat 0x7300 .copy (k.xr o.a) (k.xr o.b) (k.xr o.c)
def execCpFill (o : CpOp) (s : State) : Out :=
  issue o.m o.need .none s fun c k s => s.startCmd c k o.t.toNat 0x7301 .fill (k.xr o.a) (k.xr o.b) (k.xr o.c)

/-! ### Decryption (R239, R295, R296) -/

/-- A destination R296 excludes: scratchpad outside the issuing area, a commons page, or lines that another slot owns. An address without a
leaf has no owner, and meets its condition of R372 when the command reaches it. -/
def State.decExcluded (s : State) (a : Act) (dst len : Nat) : Bool :=
  (pieces dst len).any fun p =>
    if inScratch p.va then
      let off := p.va % 2 ^ 56
      !(a.areaBase ≤ off && off + p.n ≤ a.areaBase + a.areaSize)
    else
      match (s.translate a.cluster a.p p.va).1 with
      | .leaf l => p.va < 2 ^ 52 && (l.cmn || !s.owns a l (l.addr + p.va % l.size))
      | _ => false

/-- A key a command may use (R296). -/
def Key.usable (e : Key) (slot : Nat) : Bool := e.valid && !e.exhausted && e.owner.toNat == slot
/-- The counter after one use (R296). -/
def Key.advance (e : Key) : Key :=
  { e with counter := e.counter + 1, exhausted := e.exhausted || e.counter == BitVec.allOnes 96 }

/-- Acceptance of a decryption takes the nonce, of one of length 0 too (R239, R296); a refused one is reported and leaves the counter
(R400). -/
def execCpDec (o : CpDecOp) (s : State) : Out :=
  issue o.m o.need .none s fun c k s =>
    match s.acts.find? k.act with
    | none => s.advance c
    | some a =>
      let (dst, src, len) := (k.xr o.a, k.xr o.b, k.xr o.c)
      let e := (s.part a.p).keys.get o.key.toNat {}
      let (n, s0) := s.fresh
      let cmd : Cmd :=
        { serial := n, act := k.act, member := k.member, ctx := c, cluster := clusterOf c, tag := o.t.toNat, fn := 0x7300
          dst := dst, src := src, len := len.toNat, reported := true }
      let plain := (cmd.invalid (s.subHolds k.act k.member o.t.toNat)).isSome
      if len = 0 then
        (if e.usable a.slot then s.modPart a.p fun q => { q with keys := q.keys.set o.key.toNat e.advance } else s).startCmd c k o.t.toNat 0x7300
          (.dec o.key e.key e.counter) dst src len
      else if plain then s.startCmd c k o.t.toNat 0x7300 (.dec o.key e.key e.counter) dst src len
      else if 2097152 < len.toNat || !e.usable a.slot || s.decExcluded a dst.toNat len.toNat then
        let (s1, ok) := (s0.takeTag k.act k.member o.t.toNat).report k.act c o.t.toNat 0x7300
          (if 2097152 < len.toNat then cMisaligned else cKeyRefused) dst.toNat [.courierCommandComplete (clusterOf c) n]
        (if ok then s1.setTag k.act k.member o.t.toNat true
         else s1.modCluster (clusterOf c) fun q => { q with courier := q.courier ++ [cmd] }).advance c
      else
        let s1 := s.modPart a.p fun q => { q with keys := q.keys.set o.key.toNat e.advance }
        s1.startCmd c k o.t.toNat 0x7300 (.dec o.key e.key e.counter) dst src len

/-! ## Fabric commands (R240 to R242, R400) -/

/-- What a fabric command meets before any work (R242): cause and address. -/
def FabCmd.invalid (f : FabCmd) (sub : Bool) : Option (Nat × Nat) :=
  let loc := match f.op with
    | .rd => f.cmd.dst.toNat
    | _ => f.cmd.src.toNat
  let rem := match f.op with
    | .rd => f.cmd.src.toNat
    | _ => f.cmd.dst.toNat
  if loc % 4 != 0 then some (cMisaligned, loc)
  else if rem % 4 != 0 then some (cMisaligned, rem)
  else if f.cmd.len % 4 != 0 || 16777216 < f.cmd.len then some (cMisaligned, rem)
  else if 512 ≤ f.device then some (cIllegalOperand, rem)
  else if sub then some (cStreamState, 0)
  else none

def State.putFab (s : State) (f : FabCmd) : State :=
  { s with fab := s.fab.map fun g => if g.cmd.serial == f.cmd.serial then f else g }
def State.endFab (s : State) (f : FabCmd) (err : Bool) : State :=
  { s with fab := s.fab.filter fun g => g.cmd.serial != f.cmd.serial }.setTag f.cmd.act f.cmd.member f.cmd.tag err
def State.failFab (s : State) (f : FabCmd) (code addr : Nat) : State :=
  let (s1, ok) := s.report f.cmd.act f.cmd.ctx f.cmd.tag f.cmd.fn code addr [.fabricCaptureComplete f.cmd.serial]
  if ok then s1.endFab f true else s1.putFab { f with cmd := { f.cmd with reported := true, denied := none } }

/-- The owner comparison of R88 for a poster on any device: its slot, and for a commons page the actor of that slot here. -/
def State.posterOwns (s : State) (p slot : Nat) (l : Leaf) (pa : Nat) : Bool :=
  if l.cmn then ((s.part p).commons.find? l.owner.toNat).isSome &&
    ((s.part p).actors.find? slot).any fun w => w.img.commons == some l.owner.toNat
  else if pa < sramTop then tagOf s.sramTags (pa / 64) 0xFFFF == BitVec.ofNat 16 slot
  else l.owner == BitVec.ofNat 16 slot

/-- A line served from committed state for a remote reader (R121, R400): its bytes, whether denied, the cause if it fails. -/
def State.serveLine (s : State) (p slot : Nat) (labels : List (BitVec 16)) (va n : Nat) : List Byte × Bool × Option Nat :=
  let zeros := List.replicate n (0 : Byte)
  if 2 ^ 52 ≤ va then (zeros, false, some cNonCanonical)
  else
    match s.walk p va with
    | .leaf l =>
      let pa := l.addr + va % l.size
      if !s.posterOwns p slot l pa || !l.r then (zeros, false, some cNotPresent)
      else if s.poison.contains (pa / 64) then (zeros, false, some cUncorrectable)
      else if l.label != 0 && !labels.contains l.label then (zeros, true, none)
      else (s.dram.read pa n, false, none)
    | _ => (zeros, false, some cNotPresent)

/-- A remote read served line by line (R121): the data, the denied lines by number, the cause of a failing line. Only a poisoned
line lets the rest go on (R400). -/
def State.serveLines (s : State) (p slot : Nat) (labels : List (BitVec 16)) (ps : List Piece) (i : Nat) :
    List Byte × List Nat × Option Nat :=
  match ps with
  | [] => ([], [], none)
  | q :: r =>
    let (bs, den, code) := s.serveLine p slot labels q.va q.n
    match code with
    | some c =>
      if c = cUncorrectable then
        let (b2, d2, c2) := s.serveLines p slot labels r (i + 1)
        (bs ++ b2, d2, some (c2.getD c))
      else ([], [], some c)
    | none =>
      let (b2, d2, c2) := s.serveLines p slot labels r (i + 1)
      (bs ++ b2, (if den then i :: d2 else d2), c2)

def State.serveRead (s : State) (p slot va len : Nat) (labels : List (BitVec 16)) : List Byte × List Nat × Option Nat :=
  if (s.part p).state != .ready then ([], [], some cNotPresent) else s.serveLines p slot labels (pieces va len) 0
/-- The record of a table error that ended the read (R373, R400): the first line that fails otherwise than by its data. -/
def State.noteServed (s : State) (p slot ctx flags : Nat) (self postmark : Word) (va len : Nat) (labels : List (BitVec 16)) : State :=
  let fails (q : Piece) : Bool := match (s.serveLine p slot labels q.va q.n).2.2 with
    | some c => c != cUncorrectable
    | none => false
  match (pieces va len).find? fails with
  | some q => if (s.part p).state == .ready then s.noteWalk p ctx flags self postmark q.va else s
  | none => s

/-- Some line of a range is locked by a commit in progress (R110). -/
def State.rangeLocked (s : State) (p va len : Nat) : Bool :=
  (pieces va len).any fun q => match s.walk p q.va with
    | .leaf l => s.lockedLine 0 (l.addr + q.va % l.size)
    | _ => false

/-- The data of a read written locally, then the tag (R242); a course of repair waits (R374). -/
def State.fabLand (s : State) (f : FabCmd) : State :=
  match f.data with
  | none => s
  | some bs =>
    let dst := f.cmd.dst.toNat
    match f.cmd.writeUnits bs.length ((pieces dst bs.length).map fun q => (q, numOf ((bs.drop (q.va - dst)).take q.n))) s with
    | .gone s2 => s2
    | .wait cmd s2 => (s2.putFab { f with cmd := cmd }).postAt 1 (.fabricCaptureComplete cmd.serial)
    | .ok cmd s2 =>
      match cmd.failed with
      | some (code, addr) => s2.failFab { f with cmd := cmd } code addr
      | none => s2.endFab { f with cmd := cmd } false
    | .bad t cmd s2 =>
      let s3 := s2.putFab { f with cmd := cmd }
      match t.repairs with
      | some (w, c) => s3.askRepair (.fabric cmd.serial) cmd.act t.code (t.badaddr.getD 0) (cmd.fn.setWidth 64) w c 4 cmd.ctx
      | none => s3.failFab { f with cmd := cmd } t.code (t.badaddr.getD 0).toNat

/-- The response of a read reaches its command (R302, R379, R400); after a poisoned line the data are written before it fails. -/
def State.fabRespond (s : State) (f : FabCmd) (data : List Byte) (denied : List Nat) (cause : Option Nat) (label : BitVec 16) : State :=
  let d : Option DeniedLines := match denied with
    | [] => none
    | i :: _ =>
      some ⟨denied, (f.cmd.src.toNat / 64 + i) * 64, label⟩
  let s1 := s.denyEngine f.cmd.act f.cmd.ctx f.cmd.tag d true
  match cause with
  | some c =>
    if c = cUncorrectable then s1.fabLand { f with data := some data, cmd := { f.cmd with failed := some (c, f.cmd.src.toNat) } }
    else s1.failFab f c f.cmd.src.toNat
  | none => s1.fabLand { f with data := some data }

/-- An outbox entry of posted work gets what was captured (R242). -/
def OutEntry.fillPosted (o : OutEntry) (serial : Nat) (w : FabWork) : OutEntry :=
  match o with
  | .posted d r f n old => if n = serial then .posted d r f n (some w) else .posted d r f n old
  | o => o

/-- The local source of posted work captured through scaffold_read (R242). -/
def State.capture (s : State) (f : FabCmd) : State :=
  let src := f.cmd.src.toNat
  let ps := pieces src f.cmd.len
  match readPieces { f.cmd.agent with engine := fabricNo f.die } (ps.drop f.cmd.got.length) f.cmd s with
  | .gone s1 => s1
  | .wait cmd s1 => (s1.putFab { f with cmd := cmd }).postAt 1 (.fabricCaptureComplete cmd.serial)
  | .bad t cmd s1 =>
    let s2 := s1.putFab { f with cmd := cmd }
    match t.repairs with
    | some (w, c) => s2.askRepair (.fabric cmd.serial) cmd.act t.code (t.badaddr.getD 0) (cmd.fn.setWidth 64) w c 4 cmd.ctx
    | none =>
      (s2.denyEngine cmd.act cmd.ctx cmd.tag cmd.denied false).failFab { f with cmd := cmd } t.code (t.badaddr.getD 0).toNat
  | .ok cmd s1 =>
    let bs := gotBytes ps cmd.got
    let w := match f.op with
      | .red op => FabWork.red op cmd.dst bs
      | _ => FabWork.write cmd.dst bs
    let s2 := s1.denyEngine cmd.act cmd.ctx cmd.tag cmd.denied false
    (s2.modAct cmd.act fun a => { a with outbox := a.outbox.map fun o => o.fillPosted cmd.serial w }).endFab { f with cmd := cmd } false

/-- What the queue of a destination device takes (R299): `cmd` is the number of the posted command. Nothing departs for a lost
device (R397). -/
def State.enqueue (s : State) (device part : Nat) (rlx : Bool) (poster postmark : Word) (fn : BitVec 8) (size : Nat) (w : FabWork)
    (cmd : Nat := 0) : State :=
  let pr := s.peers.get device {}
  let q (n : Nat) : Queued :=
    { item := ⟨s.device, device, BitVec.ofNat 32 n, rlx, part, poster, postmark, w, 0, 0⟩, size := size, fn := fn, cmd := cmd }
  let pr1 := if rlx then { pr with relaxed := pr.relaxed ++ [q pr.nextRelaxed], nextRelaxed := pr.nextRelaxed + 1 }
    else { pr with ordered := pr.ordered ++ [q pr.nextOrdered], nextOrdered := pr.nextOrdered + 1 }
  if s.lostmask.getLsbD device then s else { s with peers := s.peers.set device pr1 }

/-- The label of the page at an address, 0 where there is none. -/
def State.labelAt (s : State) (p va : Nat) : BitVec 16 :=
  match s.walk p va with
  | .leaf l => l.label
  | _ => 0

/-- A fabric courier captures, serves a read of its own device, or goes on after a repair (R240, R242). -/
def execFabricCaptureComplete (serial : Nat) (s : State) : Out :=
  match s.fab.find? fun f => f.cmd.serial == serial with
  | none => .next s
  | some f =>
    if f.cmd.reported then .next (s.endFab f true)
    else
      match f.invalid (s.subHolds f.cmd.act f.cmd.member f.cmd.tag) with
      | some (code, addr) => .next (s.failFab f code addr)
      | none =>
        match f.op with
        | .rd =>
          if f.data.isSome then .next (s.fabLand f)
          else
            match s.acts.find? f.cmd.act with
            | none => .next s
            | some a =>
              if f.cmd.len = 0 then .next (s.endFab f false)
              else if f.device = s.device then
                if s.rangeLocked a.p f.cmd.src.toNat f.cmd.len then .next (s.postAt 1 (.fabricCaptureComplete serial))
                else
                  let (data, denied, cause) := s.serveRead a.p a.slot f.cmd.src.toNat f.cmd.len a.labels
                  let s1 := s.noteServed a.p a.slot f.cmd.ctx 4 a.self a.letter.postmark f.cmd.src.toNat f.cmd.len a.labels
                  .next (s1.fabRespond f data denied cause ((denied.head?.map fun i => s.labelAt a.p ((f.cmd.src.toNat / 64 + i) * 64)).getD 0))
              else if s.lostmask.getLsbD f.device then .next (s.failFab f cDeviceLost f.cmd.src.toNat)
              else
                .next (s.enqueue f.device a.p f.rlx a.self a.letter.postmark (f.cmd.fn.extractLsb' 0 8) 16
                  (.readReq serial f.cmd.src f.cmd.len a.labels))
        | _ => .next (s.capture f)

/-- A fabric command is taken; a read of another device sends its request at issue, and one of length 0 completes at once. -/
def State.startFab (s : State) (c : Nat) (k : Ctx) (t : Nat) (fn : BitVec 16) (op : FabOpKind) (rlx : Bool) (loc rem ctl : Word) : State :=
  let (n, s1) := (s.takeTag k.act k.member t).fresh
  let isRd := op == .rd
  let cmd : Cmd :=
    { serial := n, act := k.act, member := k.member, ctx := c, cluster := clusterOf c, tag := t, fn := fn
      dst := if isRd then loc else rem, src := if isRd then rem else loc, len := bits ctl 0 32 }
  let f : FabCmd := { cmd := cmd, die := dieOfCluster (clusterOf c), op := op, device := bits ctl 48 16, rlx := rlx }
  if cmd.len = 0 && (f.invalid (s.subHolds k.act k.member t)).isNone then (s1.setTag k.act k.member t false).advance c
  else
    let s2 := { s1 with fab := s1.fab ++ [f] }
    let s3 := if isRd then s2
      else s2.modAct k.act fun a => { a with outbox := a.outbox ++ [.posted f.device rlx (fn.extractLsb' 0 8) n none] }
    if isRd && f.device != s.device && (f.invalid (s.subHolds k.act k.member t)).isNone then
      (s3.post (.fabricCaptureComplete n)).advance c
    else (s3.postIn (.fabricCaptureComplete n)).advance c

def execCpFabRd (o : FabOp) (s : State) : Out :=
  issue o.m o.need .none s fun c k s => s.startFab c k o.t.toNat 0x7400 .rd o.rlx (k.xr o.a) (k.xr o.b) (k.xr o.c)
def execCpFabWr (o : FabOp) (s : State) : Out :=
  issue o.m o.need .none s fun c k s => s.startFab c k o.t.toNat 0x7401 .wr o.rlx (k.xr o.a) (k.xr o.b) (k.xr o.c)
def execCpFabRed (o : FabRedOp) (s : State) : Out :=
  issue o.m o.need .none s fun c k s => s.startFab c k o.t.toNat 0x7402 (.red o.op) o.rlx (k.xr o.a) (k.xr o.b) (k.xr o.c)
/-- `cp.fab.sig` captures its value and sets its tag at once (R242). -/
def execCpFabSig (o : FabOp) (s : State) : Out :=
  issue o.m o.need .none s fun c k s =>
    let (t, rem, ctl) := (o.t.toNat, k.xr o.b, k.xr o.c)
    let s1 := s.takeTag k.act k.member t
    let bad : Option Nat :=
      if rem.toNat % 8 != 0 then some cMisaligned
      else if 512 ≤ bits ctl 48 16 || bits ctl 0 32 != 0 then some cIllegalOperand
      else if s.subHolds k.act k.member t then some cStreamState
      else none
    let (n, s2) := s1.fresh
    match bad with
    | some code =>
      let (s3, ok) := s2.report k.act c t 0x7403 code rem.toNat [.fabricCaptureComplete n]
      let cmd : Cmd :=
        { serial := n, act := k.act, member := k.member, ctx := c, cluster := clusterOf c, tag := t, fn := 0x7403
          dst := rem, src := 0, len := 0, reported := true }
      let f : FabCmd := { cmd := cmd, die := dieOfCluster (clusterOf c), op := .wr, device := bits ctl 48 16, rlx := o.rlx }
      (if ok then s3.setTag k.act k.member t true else { s3 with fab := s3.fab ++ [f] }).advance c
    | none =>
      ((s2.modAct k.act fun a =>
        { a with outbox := a.outbox ++ [.posted (bits ctl 48 16) o.rlx 0x03 n (some (.signal rem (k.xr o.a)))] }).setTag
        k.act k.member t false).advance c

/-! ## Feeders (R97 to R99, R243, R244) -/

/-- A stream record of 128 bytes (R97): the subscription it opens, or none where it breaks R97. DESIGN CHOICE (log 88): R97 gives a range
for a shape and none for a tile extent; an extent of 0 breaks the record. Its reserved fields, and bit 3 of the control word, which no row lists,
are ignored, as R9 has of reserved fields of registers. -/
def parseStream (bs : List Byte) (areaBase areaSize ctx : Nat) : Option Sub :=
  let w (o n : Nat) : Nat := numOf ((bs.drop o).take n)
  let ctl := BitVec.ofNat 64 (w 8 8)
  let rank := bits ctl 4 2 + 1
  let dims := List.range 4
  let shape := dims.map fun i => if i < rank then w (0x10 + 4 * i) 4 else 1
  let tile := dims.map fun i => if i < rank then w (0x40 + 4 * i) 4 else 1
  let stride := dims.map fun i => toSigned 64 (w (0x20 + 8 * i) 8)
  let esize := 2 ^ bits ctl 0 2
  let slot := (tile.foldl (· * ·) 1 * esize + 63) / 64 * 64
  let nslots := bits ctl 16 7
  let tagbase := bits ctl 8 6
  let ring := w 0x50 8
  let off := ring % 2 ^ 56
  let ok :=
    w 0 8 < 2 ^ 56 && 1 ≤ nslots && nslots ≤ 64 && tagbase + nslots ≤ 64 &&
    shape.all (fun n => 1 ≤ n && n < 2 ^ 31) && tile.all (fun n => 1 ≤ n) && inScratch ring && ring % 64 == 0 &&
    areaBase ≤ off && off + nslots * slot ≤ areaBase + areaSize
  if ok then
    some { base := BitVec.ofNat 64 (w 0 8), esize := esize, store := bits ctl 2 1 == 1, rank := rank, shape := shape, stride := stride
           tile := tile, ring := ring, tagbase := tagbase, nslots := nslots, ctx := ctx }
  else none

/-- An address of a feeder record in the window of TCM, which no engine reaches: the record's own, its base or its ring (R80, R372). -/
def streamUnreached (bs : List Byte) : Option Word :=
  [numOf (bs.take 8), numOf ((bs.drop 0x50).take 8)].find? (fun a => a / 2 ^ 56 == 0xFE) |>.map (BitVec.ofNat 64)

/-- Tiles of a stream in each dimension, and their number. -/
def Sub.grid (u : Sub) : List Nat := (u.shape.zip u.tile).map fun p => (p.1 + p.2 - 1) / p.2
def Sub.tiles (u : Sub) : Nat := u.grid.foldl (· * ·) 1
def Sub.slotBytes (u : Sub) : Nat := (u.tile.foldl (· * ·) 1 * u.esize + 63) / 64 * 64
/-- Coordinates of number i, dimension 0 fastest. -/
def coords (dims : List Nat) (i : Nat) : List Nat :=
  match dims with
  | [] => []
  | d :: r => i % d :: coords r (i / d)
/-- The tensor address of element e of tile i, or none past a shape edge (R98). -/
def Sub.elemVa (u : Sub) (i e : Nat) : Option Nat :=
  let at_ := ((coords u.grid i).zip (u.tile.zip (coords u.tile e))).map fun x => x.1 * x.2.1 + x.2.2
  if (at_.zip u.shape).all fun x => x.1 < x.2 then
    some ((u.base + BitVec.ofInt 64 ((at_.zip u.stride).foldl (fun a x => a + x.1 * x.2) 0)).toNat)
  else none
def Sub.elems (u : Sub) : Nat := u.tile.foldl (· * ·) 1

/-- The tensor address of each byte of tile i as it lies in its slot (R98). -/
def Sub.byteVas (u : Sub) (i : Nat) : List (Option Nat) :=
  (List.range u.elems).flatMap fun e => (List.range u.esize).map fun j => (u.elemVa i e).map fun va => va + j
/-- The part of each global line a tile touches, by line: from its lowest byte to its highest. -/
def Sub.spans (u : Sub) (i : Nat) : List Piece :=
  let grow (t : Tbl (Nat × Nat)) (va : Nat) : Tbl (Nat × Nat) :=
    t.set (va / 64) (match t.find? (va / 64) with
      | some (lo, hi) => (min lo va, max hi (va + 1))
      | none => (va, va + 1))
  (((u.byteVas i).filterMap id).foldl grow []).map fun x => ⟨x.2.1, x.2.2 - x.2.1⟩
/-- The bytes of a tile's slot. -/
def Sub.slotVa (u : Sub) (i : Nat) : Nat := u.ring + i % u.nslots * u.slotBytes

/-- How the units of a tile go: those read, how many are written, denied lines. -/
inductive TileRun where
  | ok (got : List (Piece × Nat)) (put : Nat) (d : Option DeniedLines) (s : State)
  | bad (t : Trap) (got : List (Piece × Nat)) (put : Nat) (d : Option DeniedLines) (s : State)
  | wait (got : List (Piece × Nat)) (put : Nat) (d : Option DeniedLines) (s : State)
  | gone (s : State)

/-- Units read, a denied one as zeros (R94). -/
def readUnits (ag : Agent) (ps : List Piece) (got : List (Piece × Nat)) (d : Option DeniedLines) (s : State) : TileRun :=
  match ps with
  | [] => .ok got 0 d s
  | p :: r =>
    match s.load ag p.va p.n with
    | .ok v none s1 => readUnits ag r (got ++ [(p, v)]) d s1
    | .ok _ (some l) s1 => readUnits ag r (got ++ [(p, 0)]) (addLine d p.va l) s1
    | .trap t s1 => .bad t got 0 d s1
    | .wait s1 => .wait got 0 d s1
    | .gone s1 => .gone s1
/-- Units written, of each the bytes present. -/
def writeUnits (ag : Agent) (us : List (Nat × List (Option Byte))) (got : List (Piece × Nat)) (put : Nat) (d : Option DeniedLines)
    (s : State) : TileRun :=
  match us with
  | [] => .ok got put d s
  | (va, bs) :: r =>
    match s.storeMasked ag va bs with
    | .ok _ _ s1 => writeUnits ag r got (put + 1) d s1
    | .trap t s1 => .bad t got put d s1
    | .wait s1 => .wait got put d s1
    | .gone s1 => .gone s1

/-- A load tile from the tensor, line by line, into the slot, word by word: zero past an edge or under a denied line (R94, R98, R102). -/
def loadTile (ag : Agent) (u : Sub) (i : Nat) (s : State) : TileRun :=
  match readUnits ag ((u.spans i).drop u.got.length) u.got u.denied s with
  | .ok got _ d s1 =>
    let bytes := (u.byteVas i).map fun x => (x.bind (gotAt got)).getD 0
    let base := u.slotVa i
    writeUnits ag (((pieces base bytes.length).map fun p => (p.va, ((bytes.drop (p.va - base)).take p.n).map some)).drop u.put) got u.put d s1
  | r => r

/-- The in-range elements of a store tile from the slot, word by word, through the scaffold, line by line (R98, R102). -/
def storeTile (ag : Agent) (u : Sub) (i : Nat) (s : State) : TileRun :=
  let vas := u.byteVas i
  let base := u.slotVa i
  match readUnits ag ((pieces base vas.length).drop u.got.length) u.got none s with
  | .ok got _ _ s1 =>
    let cells : Tbl Byte := vas.zipIdx.foldl (fun t x => match x.1 with
      | some va => t.set va ((gotAt got (base + x.2)).getD 0)
      | none => t) []
    writeUnits ag (((u.spans i).map fun p => (p.va, (List.range p.n).map fun j => cells.find? (p.va + j))).drop u.put) got u.put none s1
  | r => r

def State.subOf (s : State) (a m h : Nat) : Option Sub := ((s.acts.find? a).bind fun k => k.member? m).bind fun u => u.subs.find? h
def State.putSub (s : State) (a m h : Nat) (u : Sub) : State := s.modMember a m fun v => { v with subs := v.subs.set h u }
/-- A stream is over: its handle is free, and the tag of its `cp.unsub` is set (R244). -/
def State.closeSub (s : State) (a m h : Nat) (u : Sub) : State :=
  let s1 := s.modMember a m fun v => { v with subs := v.subs.erase h }
  match u.ending with
  | some t => if t < 64 then s1.setTag a m t false else s1
  | none => s1
/-- A slot tag is set: the slot belongs to the core (R98). -/
def State.setSlot (s : State) (a m t : Nat) (err : Bool) : State :=
  (s.modMember a m fun u =>
    { u with tags := setBit u.tags t true, tagerr := if err then setBit u.tagerr t true else u.tagerr }).tagWake a m

/-- The bytes of one tile's rows promote a page when a store tile writes 4 KiB or more into it (R106): the pages it touches. -/
def Sub.pages (u : Sub) (i : Nat) : Tbl Nat :=
  (List.range u.elems).foldl (fun t e => match u.elemVa i e with
    | some va => t.set (va / 65536) (t.get (va / 65536) 0 + u.esize)
    | none => t) []

def State.promotePages (s : State) (ag : Agent) (ps : List (Nat × Nat)) : Wrote :=
  match ps with
  | [] => .ok s
  | (vp, n) :: r =>
    if n < 4096 then s.promotePages ag r
    else
      match s.promoteRange ag (vp * 65536) 65536 2 with
      | .ok s1 => s1.promotePages ag r
      | r => r

/-- The tile a feeder moves next: the next one once its slot's tag is clear (R98); of a store stream that ends, every tile whose slot is
marked finished, the rest discarded (R109). -/
def Sub.dueTile (u : Sub) (tags : BitVec 64) : Option Nat :=
  let isFree (i : Nat) : Bool := i < u.tiles && !tags.getLsbD (u.tagbase + i % u.nslots)
  if u.failed then none
  else if u.ending.isNone then (if isFree u.next then some u.next else none)
  else if u.store then ((List.range u.nslots).map fun j => u.next + j).find? isFree
  else none

/-- One tile is due (R98, R374, R356): moved when its slot's tag is clear, in tile order. DESIGN CHOICE (log 97): after the last tile the handle
and the slot tags stay the subscription's until `cp.unsub` or `retire`. -/
def execFeederTile (act member handle : Nat) (s : State) : Out :=
  match s.subOf act member handle, s.acts.find? act with
  | some u, some k =>
    if u.asked then .next s
    else match u.reported with
    | some t => .next ((s.putSub act member handle { u with reported := none }).setSlot act member t true)
    | none =>
      match (k.member? member).bind fun m => u.dueTile m.tags with
      | none => .next (if u.ending.isSome then s.closeSub act member handle u else s)
      | some i =>
        let tag := u.tagbase + i % u.nslots
        let ag : Agent :=
          { act := act, ctx := none, cluster := k.cluster, member := member, tag := tag, port := some 18
            engine := feederNo (u.stack.getD 12), sr := u.ctx }
        let run : TileRun :=
          if u.store then
            match s.promotePages ag (u.pages i) with
            | .ok s1 => storeTile ag u i s1
            | .wait s1 => .wait u.got u.put none s1
            | .gone s1 => .gone s1
          else loadTile ag u i s
        let again : Event := .feederTile act member handle
        match run with
        | .gone s1 => .next s1
        | .wait got put d s1 => .next ((s1.putSub act member handle { u with got := got, put := put, denied := d }).postAt 1 again)
        | .ok _ _ d s1 =>
          let s2 := s1.denyEngine act u.ctx tag d false
          .next (((s2.putSub act member handle { u with next := i + 1, denied := none, got := [], put := 0 }).setSlot act member tag false).postIn again)
        | .bad t got put d s1 =>
          match t.repairs with
          | some (w, c) =>
            .next ((s1.putSub act member handle { u with got := got, put := put, denied := d, asked := true }).askRepair (.feeder act member handle) act t.code (t.badaddr.getD 0)
              0x7500 w c 4 u.ctx)
          | none =>
            let (s2, ok) := (s1.denyEngine act u.ctx tag d false).report act u.ctx tag 0x7500 t.code (t.badaddr.getD 0).toNat [again]
            let s3 := s2.putSub act member handle { u with failed := true, denied := none, reported := if ok then none else some tag }
            .next ((if ok then s3.setSlot act member tag true else s3).postIn again)
  | _, _ => .next s

/-- The lowest handle free in the tile task. -/
def Member.freeHandle (m : Member) : Option Nat := (List.range 4).find? fun h => (m.subs.find? h).isNone

/-- The bytes of a record in scratchpad, read in program order (R103). -/
def State.recordBytes (s : State) (ag : Agent) (va n : Nat) (fuel : Nat) : Access × List Byte :=
  match fuel with
  | 0 => (.ok 0 none s, [])
  | k + 1 =>
    if n = 0 then (.ok 0 none s, [])
    else
      match s.load ag va 8 with
      | .ok v _ s1 =>
        let (r, bs) := s1.recordBytes ag (va + 8) (n - 8) k
        (r, bytesOf 8 v ++ bs)
      | r => (r, [])

def streamTrap (info : Nat) : Trap := { code := cStreamState, info := info }

/-- The stack that holds an address, whose feeder serves a stream (R97). -/
def State.stackAt (s : State) (p va : Nat) : Option Nat :=
  match s.walk p va with
  | .leaf l => (stackOf (l.addr + va % l.size)).map Prod.fst
  | _ => none

/-- A trap for an address that no engine reaches (R372). -/
def unreachedTrap (a : Word) : Trap := { code := cNonCanonical, badaddr := some a }

/-- `cp.sub` (R244): the record, in the activation's area (R97), is read at issue, the stream opens, the handle is written. DESIGN CHOICE
(log 89): R244 names a slot tag that a command holds; one that another open subscription holds meets the same condition. DESIGN CHOICE
(log 96): a base that lies in no DRAM stack has no feeder by R97; the stream is served all the same. -/
def execCpSub (o : XX) (s : State) : Out :=
  issue o.m o.needSub .none s fun c k s =>
    let b := (k.xr o.b).toNat
    if b / 2 ^ 56 == 0xFE then s.raise c (unreachedTrap (k.xr o.b))
    else if !inScratch b || b % 64 != 0 then s.raise c (streamTrap 0)
    else
      match s.recordBytes (agentOf c k) b 128 16 with
      | (.trap t s1, _) => s1.raise c t
      | (.wait s1, _) => s1
      | (.gone s1, _) => s1
      | (.ok _ _ s1, bs) =>
        match s1.acts.find? k.act, s1.memberOf k with
        | some a, some m =>
          let off := b % 2 ^ 56
          match streamUnreached bs with
          | some x => s1.raise c (unreachedTrap x)
          | none =>
          match (if a.areaBase ≤ off && off + 128 ≤ a.areaBase + a.areaSize then parseStream bs a.areaBase a.areaSize c else none) with
          | none => s1.raise c (streamTrap 0)
          | some u0 =>
            let u := { u0 with stack := s1.stackAt a.p u0.base.toNat }
            match m.freeHandle with
            | none => s1.raise c { code := cResourceLimit }
            | some h =>
              let slots := (List.range u.nslots).map fun i => u.tagbase + i
              match slots.find? fun t => m.held.getLsbD t || m.subTag t with
              | some t => s1.raise c (streamTrap t)
              | none =>
                let s2 := slots.foldl (fun st t => st.clearTag k.act k.member t) s1
                let s3 := s2.putSub k.act k.member h u
                let s4 := if u.store then slots.foldl (fun st t => st.setSlot k.act k.member t false) s3 else s3
                ((s4.fill c .state [.x o.a (BitVec.ofNat 64 h)]).postIn (.feederTile k.act k.member h)).advance c
        | _, _ => s1.advance c

/-- An open stream of a handle. -/
def State.openSub (s : State) (k : Ctx) (h : Word) : Option Sub :=
  match s.subOf k.act k.member h.toNat with
  | some u => if u.ending.isNone then some u else none
  | none => none

/-- `cp.slot` (R98, R244): the slot is finished, its tag clears. -/
def execCpSlot (o : XN6) (s : State) : Out :=
  issue o.m o.needSlot .none s fun c k s =>
    match s.openSub k (k.xr o.a) with
    | none => s.raise c (streamTrap 0)
    | some u =>
      let t := u.tagbase + o.n.toNat
      if u.nslots ≤ o.n.toNat then s.raise c (streamTrap 0)
      else if !(s.tagsOf k).getLsbD t then s.raise c (streamTrap t)
      else (((s.modCtx c Ctx.settleAll).clearTag k.act k.member t).postIn (.feederTile k.act k.member (k.xr o.a).toNat)).advance c

/-- `cp.unsub` (R244): the stream ends as at `retire`, and tag t is set when no feeder write remains. -/
def execCpUnsub (o : XN6) (s : State) : Out :=
  issue o.m o.needUnsub .none s fun c k s =>
    match s.openSub k (k.xr o.a) with
    | none => s.raise c (streamTrap 0)
    | some u =>
      let h := (k.xr o.a).toNat
      let s1 := (s.takeTag k.act k.member o.n.toNat).putSub k.act k.member h { u with ending := some o.n.toNat }
      (s1.postIn (.feederTile k.act k.member h)).advance c

end Sys2Proof.Machine
end

