-- ==== Sys2Proof/Machine/Matrix.lean ====
section
/-! DEFINITION. The matrix unit: format contexts, the command queue, the products, franked commands (R140, R257 to R285, R335,
R355, R380). -/

namespace Sys2Proof.Machine

/-! ## Formats (R260, R261, R262) -/

def mxType (fmt : Nat) : NType :=
  match fmt with
  | 0 => .taper 8
  | 1 => .taper 6
  | 2 => .taper 16
  | 3 => .ieee bf16
  | 4 => .ieee fp16
  | 5 => .ieee fp32
  | 6 => .sint 8
  | 7 => .uint 8
  | 8 => .sint 4
  | 9 => .uint 4
  | _ => .uint 32
def acc32 : Nat := 10
def isIntFmt (fmt : Nat) : Bool := 6 ≤ fmt && fmt ≤ 9
/-- Bytes of n packed elements (R123, R265). -/
def rowBytes (fmt n : Nat) : Nat :=
  match (mxType fmt).width with
  | 6 => (n + 3) / 4 * 3
  | 4 => (n + 1) / 2
  | w => n * (w / 8)
/-- Element e of packed bytes. -/
def packedElem (fmt : Nat) (bs : List Byte) (e : Nat) : Nat :=
  let w := (mxType fmt).width
  numOf ((bs.drop (e * w / 8)).take ((w + 15) / 8)) / 2 ^ (e * w % 8) % 2 ^ w
/-- Elements packed into bytes. -/
def packElems (fmt : Nat) (es : List Nat) : List Byte :=
  let w := (mxType fmt).width
  bytesOf (rowBytes fmt es.length) (es.reverse.foldl (fun a e => a * 2 ^ w + e % 2 ^ w) 0)

namespace Fmt
def a (r : FmtRec) : Nat := bits r.control 0 4
def b (r : FmtRec) : Nat := bits r.control 4 4
def isI32 (r : FmtRec) : Bool := r.control.getLsbD 8
def scaleA (r : FmtRec) : Bool := r.control.getLsbD 9
def scaleB (r : FmtRec) : Bool := r.control.getLsbD 10
def sat (r : FmtRec) : Bool := r.control.getLsbD 11
def rm (r : FmtRec) : Rm := rmOf (r.control.extractLsb' 12 2)
end Fmt

/-- A record of 64 bytes that R262 accepts. -/
def parseRecord (bs : List Byte) : Option FmtRec :=
  let w (o : Nat) : Word := BitVec.ofNat 64 (numOf ((bs.drop o).take 8))
  let r : FmtRec := ⟨w 0, w 8, w 16⟩
  let scalable (f : Nat) : Bool := !isIntFmt f && f != 5
  let ok :=
    Fmt.a r ≤ 9 && Fmt.b r ≤ 9 && (!Fmt.isI32 r || (isIntFmt (Fmt.a r) && isIntFmt (Fmt.b r))) &&
    (!Fmt.scaleA r || scalable (Fmt.a r)) && (!Fmt.scaleB r || scalable (Fmt.b r)) &&
    bits r.control 14 50 == 0 && bits r.window 32 32 == 0 && (bs.drop 24).all fun x => x == 0
  if ok then some r else none

/-! ## The unfold of `mx.conv` (R277) -/

structure Unfold where
  (n h w c kh kw sh sw ph pw dh dw : Nat)

def unfoldOf (r : FmtRec) : Unfold where
  n := bits r.shape 48 16
  h := bits r.shape 32 16
  w := bits r.shape 16 16
  c := bits r.shape 0 16
  kh := bits r.window 0 4 + 1
  kw := bits r.window 4 4 + 1
  sh := bits r.window 8 4 + 1
  sw := bits r.window 12 4 + 1
  ph := bits r.window 16 4
  pw := bits r.window 20 4
  dh := bits r.window 24 4 + 1
  dw := bits r.window 28 4 + 1

def Unfold.oh (u : Unfold) : Int := ((u.h + 2 * u.ph : Nat) - (u.dh * (u.kh - 1) + 1 : Nat) : Int) / u.sh + 1
def Unfold.ow (u : Unfold) : Int := ((u.w + 2 * u.pw : Nat) - (u.dw * (u.kw - 1) + 1 : Nat) : Int) / u.sw + 1
def Unfold.k (u : Unfold) : Nat := u.kh * u.kw * u.c
def Unfold.valid (u : Unfold) : Bool :=
  1 ≤ u.n && 1 ≤ u.h && 1 ≤ u.w && 1 ≤ u.c && u.k ≤ 65535 && 1 ≤ u.oh && 1 ≤ u.ow
/-- The tensor element of A[i][k], or none for padding and rows at or beyond P. -/
def Unfold.elem (u : Unfold) (p0 i k : Nat) : Option Nat :=
  let (oh, ow) := (u.oh.toNat, u.ow.toNat)
  let p := p0 + i
  if u.n * oh * ow ≤ p then none
  else
    let img := p / (oh * ow)
    let q := p % (oh * ow)
    let ch := k % u.c
    let s := k / u.c % u.kw
    let r := k / (u.c * u.kw)
    let y : Int := (q / ow * u.sh + r * u.dh : Nat) - (u.ph : Int)
    let x : Int := (q % ow * u.sw + s * u.dw : Nat) - (u.pw : Int)
    if 0 ≤ y && y < u.h && 0 ≤ x && x < u.w then some (((img * u.h + y.toNat) * u.w + x.toNat) * u.c + ch) else none

/-! ## Operand words (R264, R265) -/

def opOff (w : Word) : Nat := bits w 0 22
def opStride (w : Word) : Nat := bits w 32 16
def opAux (w : Word) : Nat := bits w 48 16 * 64
def opRsv (w : Word) : Nat := bits w 22 10
/-- A scratchpad offset as an address of window 0xFD. -/
def scratchVa (off : Nat) : Nat := 0xFD00000000000000 + off

/-- The byte ranges of n rows; equal rows once. -/
def rowRanges (w : Word) (n bytes : Nat) : List (Nat × Nat) :=
  if n = 0 then []
  else if opStride w = 0 then [(opOff w, bytes)]
  else (List.range n).map fun i => (opOff w + i * opStride w, bytes)

end Sys2Proof.Machine

namespace Sys2Proof

open Machine

/-- Terms of the product of a command. -/
def MxCmd.terms (c : MxCmd) (r : FmtRec) : Nat :=
  match c.op with
  | .conv => (unfoldOf r).k
  | _ => c.k

end Sys2Proof

namespace Sys2Proof.Machine

/-- 32-term blocks of K terms (R276). -/
def scaleBlocks (k : Nat) : Nat := (k + 31) / 32

def aScales (r : FmtRec) (c : MxCmd) : List (Nat × Nat) :=
  if Fmt.scaleA r then [(opAux c.aw, 64 * scaleBlocks c.k)] else []

def bScales (r : FmtRec) (c : MxCmd) : List (Nat × Nat) :=
  if Fmt.scaleB r then [(opAux c.bw, 64 * scaleBlocks c.k)] else []

end Sys2Proof.Machine

namespace Sys2Proof

open Machine

/-- The ranges of a command known at issue (R284). -/
def MxCmd.ranges (c : MxCmd) (r : FmtRec) : List (Nat × Nat) :=
  let a := rowRanges c.aw 64 (rowBytes (Fmt.a r) c.k)
  let b := rowRanges c.bw (c.terms r) (rowBytes (Fmt.b r) 64)
  match c.op with
  | .mm => a ++ b
  | .mms => a ++ b ++ aScales r c ++ bScales r c
  | .conv => b
  | .gmm => a ++ [(opAux c.bw, 65)]
  | .ld f => rowRanges c.aw 64 (rowBytes f.toNat 64)
  | .st f => rowRanges c.aw 64 (rowBytes f.toNat 64)
  | _ => []
/-- The bytes of the tensor of `mx.conv`. -/
def MxCmd.tensor (c : MxCmd) (r : FmtRec) : List (Nat × Nat) :=
  match c.op with
  | .conv => let u := unfoldOf r; [(opOff c.aw, rowBytes (Fmt.a r) (u.n * u.h * u.w * u.c))]
  | _ => []
/-- The operand of `mx.ctx` and `mx.ctx.st`, in the issuer's area (R272). -/
def MxCmd.local_ (c : MxCmd) : List (Nat × Nat) :=
  match c.op with
  | .ctx _ => [(opOff c.aw, 64)]
  | .ctxSt _ => [(opOff c.aw, 128)]
  | _ => []

end Sys2Proof

namespace Sys2Proof.Machine

/-- The lines of a range. -/
def lineRanges (off n : Nat) : List (Nat × Nat) :=
  (List.range ((off % 64 + n + 63) / 64)).map fun i =>
    let lo := max off (off / 64 * 64 + 64 * i)
    (lo, min (off + n) (off / 64 * 64 + 64 * i + 64) - lo)

end Sys2Proof.Machine

namespace Sys2Proof

open Machine

/-- The engine agent of a matrix command. -/
def MxCmd.agent (c : MxCmd) : Agent :=
  { act := c.act, ctx := none, cluster := c.cluster, member := c.member, tag := 128 + c.tag.getD 64, engine := matrixNo c.cluster }

end Sys2Proof

namespace Sys2Proof.Machine

/-- The condition a range meets at a cluster (R85, R264, R372): cause and address. -/
def State.mxBound (s : State) (ag : Agent) (r : Nat × Nat) : Option (Nat × Nat) :=
  if 0x400000 < r.1 + r.2 then some (cNotPresent, scratchVa r.1)
  else (lineRanges r.1 r.2).findSome? fun l =>
    match (s.check ag (scratchVa l.1) l.2 .read).1 with
    | .bad code _ _ => some (code, scratchVa l.1)
    | .ok _ => none

/-- What an operand word breaks (R264, R271, R355): reserved bits or a nonzero aux or stride, then alignment. -/
def wordBad (w : Word) (stride aux : Bool) : Bool :=
  opRsv w != 0 || (!stride && opStride w != 0) || (!aux && bits w 48 16 != 0)

end Sys2Proof.Machine

namespace Sys2Proof

open Machine

def MxCmd.badWords (c : MxCmd) (r : FmtRec) : Bool :=
  match c.op with
  | .ctx _ => wordBad c.aw false false
  | .ctxSt _ => wordBad c.aw false false
  | .zero => false
  | .mm => wordBad c.aw true false || wordBad c.bw true false
  | .mms => wordBad c.aw true (Fmt.scaleA r || c.cap.isSome) || wordBad c.bw true (Fmt.scaleB r || c.cap.isSome)
  | .conv => opRsv c.aw != 0 || wordBad c.bw true false
  | .gmm => wordBad c.aw true false || wordBad c.bw true true
  | .ld _ => wordBad c.aw true false
  | .st _ => wordBad c.aw true false

/-- The offset of a misaligned word. -/
def MxCmd.misaligned (c : MxCmd) : Option Nat :=
  let off (w : Word) (n : Nat) (stride : Bool) : Option Nat :=
    if opOff w % n != 0 || (stride && opStride w % 16 != 0) then some (opOff w) else none
  match c.op with
  | .ctx _ => off c.aw 64 false
  | .ctxSt _ => off c.aw 64 false
  | .zero => none
  | .conv => (off c.aw 16 false).orElse fun _ => off c.bw 16 true
  | .ld _ => off c.aw 16 true
  | .st _ => off c.aw 16 true
  | _ => (off c.aw 16 true).orElse fun _ => off c.bw 16 true

end Sys2Proof

namespace Sys2Proof.Machine

/-! ## Format contexts (R257 to R259, R283) -/

def Cluster.fctx (k : Cluster) (f : Nat) : Fctx := k.fctxs.get f {}
def Cluster.setFctx (k : Cluster) (f : Nat) (x : Fctx) : Cluster := { k with fctxs := k.fctxs.set f x }
def State.setFctx (s : State) (cl f : Nat) (x : Fctx) : State := s.modCluster cl fun k => k.setFctx f x
def State.modFctx (s : State) (cl f : Nat) (g : Fctx → Fctx) : State := s.modCluster cl fun k => k.setFctx f (g (k.fctx f))

/-- Elements of one tile. -/
def Cluster.elem (k : Cluster) (tile e : Nat) : Half32 := k.tiles.get (4096 * tile + e) 0
/-- One tile replaced; an element 0 is not listed. -/
def Cluster.setTile (k : Cluster) (tile : Nat) (g : Nat → Half32) : Cluster :=
  let mine := (List.range 4096).filterMap fun e => if g e = 0 then none else some (4096 * tile + e, g e)
  { k with tiles := (k.tiles.filter fun t => t.1 < 4096 * tile) ++ mine ++ (k.tiles.filter fun t => 4096 * tile + 4096 ≤ t.1) }
/-- Both tiles of a format context zeroed. -/
def Cluster.zeroTiles (k : Cluster) (f : Nat) : Cluster :=
  { k with tiles := k.tiles.filter fun t => !(8192 * f ≤ t.1 && t.1 < 8192 * f + 8192) }

/-- A claim or a franking (R258, R281). -/
def Cluster.clearFctx (k : Cluster) (f : Nat) (x : Fctx) : Cluster :=
  (k.zeroTiles f).setFctx f { x with rcd := ⟨0, 0, 0⟩, mxstat := 0, w := 0, step := 0, pre := [] }
def State.claim (s : State) (cl f : Nat) (k : Ctx) : State :=
  if (s.cluster cl).fctx f |>.holds k then s
  else s.modCluster cl fun q => (q.clearFctx f (q.fctx f)).setFctx f
    { (q.clearFctx f (q.fctx f)).fctx f with holder := some (k.act, k.member), pri := 1 }

/-- The registers of a format context as `mx.ctx.st` writes them: 128 bytes (R272). -/
def Fctx.dump (x : Fctx) : List Byte :=
  bytesOf 8 x.rcd.control.toNat ++ bytesOf 8 x.rcd.shape.toNat ++ bytesOf 8 x.rcd.window.toNat ++ bytesOf 40 0 ++
    bytesOf 8 x.mxstat.toNat ++ bytesOf 8 x.pri ++ bytesOf 48 0
/-- A format context and its tiles in 33,024 bytes: 256 bytes of registers, then the accumulators (R75); and read back. -/
def formatImage (x : Fctx) (ts : Tbl Half32) : List Byte :=
  x.dump ++ List.replicate 128 0 ++ (List.range 8192).flatMap fun e => bytesOf 4 (ts.get e 0).toNat
def readImage (bs : List Byte) : Fctx × Tbl Half32 :=
  let q (o : Nat) : Word := BitVec.ofNat 64 (numOf ((bs.drop o).take 8))
  let acc (e : Nat) : Half32 := BitVec.ofNat 32 (numOf ((bs.drop (256 + 4 * e)).take 4))
  ({ rcd := ⟨q 0, q 8, q 16⟩, mxstat := q 64, pri := (q 72).toNat },
   (List.range 8192).filterMap fun e => if acc e = 0 then none else some (e, acc e))
/-- What an image holds: what stands in the row save area, or what was set aside. -/
def State.imageOf (s : State) (i : SavedImage) : Fctx × Tbl Half32 :=
  match i.place with
  | some a => readImage (s.dram.read a 33024)
  | none => (i.fctx, i.tiles)

/-- The image of a restored member is loaded before its first matrix instruction (R259). -/
def Cluster.loadImage (k : Cluster) (f : Nat) (x : Fctx) (ts : Tbl Half32) : Cluster :=
  let tile (n : Nat) (e : Nat) : Half32 := ts.get (4096 * n + e) 0
  (((k.setFctx f x).setTile (2 * f) (tile 0)).setTile (2 * f + 1) (tile 1))
def State.loadImage (s : State) (c : Nat) (k : Ctx) : State :=
  match (s.memberOf k).bind fun m => m.image with
  | none => s
  | some i =>
    let (x, ts) := s.imageOf i
    (s.modCluster (clusterOf c) fun q => q.loadImage (coreOf c % 16) { x with holder := some (k.act, k.member) } ts).modMember
      k.act k.member fun m => { m with image := none }
/-- The image of a format context that is saved (R73, R75). -/
def Cluster.image (k : Cluster) (f : Nat) : Fctx × Tbl Half32 :=
  (k.fctx f, (k.tiles.filter fun t => 8192 * f ≤ t.1 && t.1 < 8192 * f + 8192).map fun t => (t.1 - 8192 * f, t.2))

/-- A franked format context is franked no more once no valid entry names it and its franked commands are over (R283). -/
def Cluster.unfrank (k : Cluster) (f : Nat) : Cluster :=
  let x := k.fctx f
  if x.franked && !k.frankValid f && !(x.queue.any fun c => c.cap.isSome) then k.setFctx f { x with franked := false } else k
/-- Engines still work for an activation (R109). -/
def State.engineBusy (s : State) (a : Nat) : Bool :=
  (s.clusters.any fun kv => (kv.2.courier.any fun c => c.act == a) || kv.2.fctxs.any fun f => f.2.queue.any fun c => c.act == a) ||
  (s.fab.any fun f => f.cmd.act == a) ||
  (s.timers.any fun t => match t.2 with
    | .frankedCommandArrival _ c => c.act == a
    | _ => false) ||
  match s.acts.find? a with
  | some k => k.members.any fun m => !m.subs.isEmpty
  | none => false

/-- The failure of an activation with an error no one has acknowledged (R357). -/
def Act.engineFailure (a : Act) : Failure :=
  let (code, ctx, addr) := a.firstErr.getD (0, 0, 0)
  { cause := code, info := 0, ctx := ctx, flags := 4, epc := 0, enpc := 0, badaddr := addr, progress := 0 }

/-- The check of R357 once every member has retired. -/
def State.unackCheck (s : State) (a : Nat) : State :=
  match s.acts.find? a with
  | none => s
  | some k =>
    let bad := (k.members.any fun m => m.tagerr != 0) ||
      s.clusters.any fun kv => kv.2.fctxs.any fun f => f.2.mxstat.getLsbD 7 && match f.2.holder with
        | some (h, _) => h == a
        | none => false
    if k.phase == .running && (k.members.all fun m => m.retired) && bad then s.failAct a k.engineFailure else s

/-- A holder whose tile task has retired leaves once its commands are over (R258); the last completion of the activation checks
its errors first (R357). -/
def State.leaveFctx (s : State) (cl f : Nat) : State :=
  let x := (s.cluster cl).fctx f
  match x.holder with
  | none => s
  | some (a, m) =>
    let done := match (s.acts.find? a).bind fun q => q.member? m with
      | some u => u.retired
      | none => true
    if done && x.queue.isEmpty && !(x.mxstat.getLsbD 7 && s.engineBusy a) then
      let s1 := if s.engineBusy a then s else s.unackCheck a
      s1.modFctx cl f fun x => if x.holder == some (a, m) then { x with holder := none } else x
    else s

/-- sr.progress.mxstep of the thread context that holds a format context (R269). -/
def State.setMxstep (s : State) (cl f n : Nat) : State :=
  match ((s.cluster cl).fctx f).holder with
  | none => s
  | some (a, m) =>
    { s with ctxs := s.ctxs.mapVals fun _ k => if k.act == a && k.member == m then { k with mxstep := BitVec.ofNat 16 n } else k }

/-! ## The end of a command (R235, R266, R285, R356) -/

/-- A tagged command sets its tag; writes of the untagged commands before it are told by it too. -/
def State.mxTagDone (s : State) (c : MxCmd) (err : Bool) : State :=
  match c.tag with
  | none => s
  | some t =>
    let past (e : Stale) : Stale :=
      if e.act == c.act && e.engine == some (c.member, 192) then { e with engine := some (c.member, 128 + t) } else e
    { s with stale := s.stale.map past }.setTag c.act c.member t err

/-- mxstat.err and ecode of an untagged command that failed (R263). -/
def Fctx.failStat (x : Fctx) (code : Nat) : Fctx :=
  if x.mxstat.getLsbD 7 then x else { x with mxstat := setBits (x.mxstat ||| 0x80) 8 8 code }

/-- Records at the head of the queue take effect in the cycle they reach it (R272). -/
def State.settle (s : State) (cl f fuel : Nat) : State :=
  match fuel with
  | 0 => s
  | n + 1 =>
    let x := (s.cluster cl).fctx f
    match x.queue with
    | c :: r =>
      match c.op with
      | .ctx rcd => ((s.setFctx cl f { x with rcd := rcd, queue := r, w := 0, step := 0, pre := [] }).mxTagDone c false).settle cl f n
      | _ => s
    | [] => s

/-- A command joins the queue of a format context (R266). -/
def State.mxQueue (s : State) (cl f : Nat) (c : MxCmd) : State :=
  let s1 := s.modFctx cl f fun x => { x with queue := x.queue ++ [c] }
  s1.settle cl f (((s1.cluster cl).fctx f).queue.length + 1)

/-- The running command is over: its tag or mxstat, and the next head. -/
def execMxCommandComplete (cluster : Nat) (s : State) : Out :=
  match (s.cluster cluster).mxrun with
  | none => .next s
  | some r =>
    let x := (s.cluster cluster).fctx r.fctx
    match x.queue with
    | [] => .next (s.modCluster cluster fun k => { k with mxrun := none })
    | c :: rest =>
      let x1 := match r.failed, c.tag with
        | some code, none => x.failStat code
        | _, _ => x
      let s1 := s.modCluster cluster fun k =>
        { k.setFctx r.fctx { x1 with queue := rest, w := 0, step := 0, pre := [] } with mxrun := none }
      let s2 := (s1.mxTagDone c r.failed.isSome).settle cluster r.fctx (rest.length + 1)
      .next ((s2.leaveFctx cluster r.fctx).modCluster cluster fun k => k.unfrank r.fctx)

/-! ## Scratchpad accesses of the unit (R266, R282) -/

/-- A read at a cluster: the issuer's view of its area, or at a target what its activations have made visible. -/
def State.mxRead (s : State) (c : MxCmd) (cl off n : Nat) : List Byte × State :=
  let bs := s.scratch.read (scratchKey cl off) n
  match c.cap with
  | none => s.view c.agent (scratchVa off) bs bs
  | some _ =>
    (s.acts.filter fun kv => kv.2.cluster == cl).foldl
      (fun r kv => r.2.view { act := kv.1, ctx := none, cluster := cl, member := 0, engine := matrixNo cl } (scratchVa off) r.1 r.1) (bs, s)

/-- A write at a cluster, word by word (R102). -/
def State.mxWrite (s : State) (c : MxCmd) (remote : Bool) (cl off : Nat) (bs : List Byte) : State :=
  (List.range ((bs.length + 3) / 4)).foldl (fun st i =>
    let w := (bs.drop (4 * i)).take 4
    let key := scratchKey cl (off + 4 * i)
    let st1 := if remote then st else st.noteWrite c.agent (scratchVa (off + 4 * i)) ((st.scratch.read key w.length).map Before.byte)
    { st1 with scratch := st1.scratch.write key w }) s

/-- The elements lo to lo + n − 1 of rows of packed elements. -/
def State.mxRows (s : State) (c : MxCmd) (cl : Nat) (fmt off stride lo n : Nat) (rows : List Nat) : List (List Nat) × State :=
  rows.foldl (fun acc i =>
    let (bs, st) := acc.2.mxRead c cl (off + i * stride + rowBytes fmt lo) (rowBytes fmt n)
    (acc.1 ++ [(List.range n).map fun e => packedElem fmt bs e], st)) ([], s)

/-! ## Products (R140, R141, R275 to R278) -/

/-- The value of a finite integer operand. -/
def xInt (v : XVal) : Int :=
  match v with
  | .fin neg m _ => if neg then -(m : Int) else m
  | _ => 0

/-- acc = add32(acc, rne32(s)) with the flags of R263. -/
def accAdd (acc : Half32) (ps : List (XVal × XVal)) : Half32 × FFlags :=
  let g := groupSum ps
  let gf := g.2 &&& (fInvalid ||| fOverflow ||| fInexact)
  let sum := fadd acc (BitVec.ofNat 32 g.1)
  (sum.1, gf ||| (if isNan (f32v acc) || isNan (f32v (BitVec.ofNat 32 g.1)) then 0 else sum.2))

/-- acc = fma32(a, b, acc). -/
def accFma (acc : Half32) (p : XVal × XVal) : Half32 × FFlags :=
  let r := w32 (fmaVal p.1 p.2 (f32v acc))
  (r.1, if isNan (f32v acc) then flagIf (isSnan p.1 || isSnan p.2) fInvalid else r.2)

/-- An integer group into an INT32 accumulator. -/
def accInt (sat : Bool) (acc : Half32) (ps : List (XVal × XVal)) : Half32 × FFlags :=
  let t := acc.toInt + intGroup (ps.map fun p => (xInt p.1, xInt p.2))
  if sat then
    if t < -2147483648 then (BitVec.ofInt 32 (-2147483648), fSat)
    else if 2147483647 < t then (BitVec.ofInt 32 2147483647, fSat)
    else (BitVec.ofInt 32 t, 0)
  else (BitVec.ofInt 32 t, 0)

/-- One k-step of one element (R140): its two groups, or its terms one by one. -/
def accStep (r : FmtRec) (acc : Half32) (ps : List (XVal × XVal)) : Half32 × FFlags :=
  let go (f : Half32 → List (XVal × XVal) → Half32 × FFlags) : Half32 × FFlags :=
    let a := f acc (ps.take 32)
    if 32 < ps.length then let b := f a.1 (ps.drop 32); (b.1, a.2 ||| b.2) else a
  if Fmt.a r = 5 || Fmt.b r = 5 then
    ps.foldl (fun a p => let b := accFma a.1 p; (b.1, a.2 ||| b.2)) (acc, 0)
  else if Fmt.isI32 r then go (accInt (Fmt.sat r))
  else go accAdd

def xZero : XVal := .fin false 0 0

/-- One k-step: its rows of the tile, its terms, the A rows and B rows of values (none: an exact zero product). -/
structure KStep where
  rows : List Nat
  a : List (List (Option XVal))
  b : List (List XVal)

def State.addFlags (s : State) (cl f : Nat) (fl : FFlags) : State :=
  s.modFctx cl f fun x => { x with mxstat := x.mxstat ||| fl.setWidth 64 }

/-- Applies a k-step to a tile. -/
def State.applyStep (s : State) (cl f tile : Nat) (r : FmtRec) (q : KStep) : State :=
  let k := s.cluster cl
  let cols : List (List XVal) := (List.range 64).map fun j => q.b.map fun row => row.getD j xZero
  let res : List (Nat × Half32 × FFlags) := (q.rows.zip q.a).flatMap fun ia =>
    (cols.zipIdx).map fun cj =>
      let ps := (ia.2.zip cj.1).map fun p => match p.1 with
        | some v => (v, p.2)
        | none => (xZero, xZero)
      let e := 64 * ia.1 + cj.2
      (e, accStep r (k.elem tile e) ps)
  let tbl : Tbl (Half32 × FFlags) := res
  let s1 := s.modCluster cl fun k => k.setTile tile fun e => match tbl.find? e with
    | some v => v.1
    | none => k.elem tile e
  s1.addFlags cl f (res.foldl (fun a x => a ||| x.2.2) 0)

/-- The row counts of a list read by `mx.gmm` (R278). -/
def groupCounts (pre : List Byte) : List Nat := ((pre.drop 1).take ((pre.headD 0).toNat)).map fun b => b.toNat
/-- The groups of a list that have rows: number, first row, count. -/
def groupsFrom (g row : Nat) (cs : List Nat) : List (Nat × Nat × Nat) :=
  match cs with
  | [] => []
  | c :: r => (if c = 0 then [] else [(g, row, c)]) ++ groupsFrom (g + 1) (row + c) r

end Sys2Proof.Machine

namespace Sys2Proof

open Machine

/-- The k-steps of a command (R257, R267, R278). -/
def MxCmd.steps (c : MxCmd) (r : FmtRec) (pre : List Byte) : Nat :=
  match c.op with
  | .mm => (c.k + 63) / 64
  | .mms => (c.k + 63) / 64
  | .conv => (c.terms r + 63) / 64
  | .gmm => (groupsFrom 0 0 (groupCounts pre)).length * ((c.k + 63) / 64)
  | _ => 1

end Sys2Proof

namespace Sys2Proof.Machine

/-- The nominal cycles of a step (R267). -/
def fmtCycles (fmt : Nat) : Nat :=
  match fmt with
  | 1 => 8
  | 8 => 8
  | 9 => 8
  | 0 => 16
  | 6 => 16
  | 7 => 16
  | 5 => 128
  | _ => 32

end Sys2Proof.Machine

namespace Sys2Proof

open Machine

def MxCmd.cycles (c : MxCmd) (r : FmtRec) : Nat :=
  match c.op with
  | .ctx _ => 0
  | .ctxSt _ => 8
  | .zero => 16
  | .ld _ => 64
  | .st _ => 64
  | _ => max (fmtCycles (Fmt.a r)) (fmtCycles (Fmt.b r))

end Sys2Proof

namespace Sys2Proof.Machine

def valsOf (fmt : Nat) (rows : List (List Nat)) : List (List XVal) := rows.map fun r => r.map fun e => (mxType fmt).value e

/-- The scale bytes read before the first k-step: those of A, then those of B. -/
def scaleAt (pre : List Byte) (i : Nat) : Int := toSigned 8 (pre.getD i 0).toNat

/-- Step i of a product: its rows and their count, the offset of its B, and which 64 terms it takes (R267, R278). -/
def productPart (c : MxCmd) (r : FmtRec) (pre : List Byte) (i : Nat) : Nat × Nat × Nat × Nat :=
  let kt := c.terms r
  let nk := (kt + 63) / 64
  match c.op with
  | .gmm =>
    match (groupsFrom 0 0 (groupCounts pre))[i / nk]? with
    | some (g, row, n) => (row, n, opOff c.bw + g * kt * opStride c.bw, i % nk)
    | none => (0, 0, opOff c.bw, 0)
  | _ => (0, 64, opOff c.bw, i)

/-- The scratchpad ranges step i of a command reads or writes: its share of the words the banks grant (R83, R267). -/
def stepRanges (c : MxCmd) (r : FmtRec) (pre : List Byte) (i : Nat) : List (Nat × Nat) :=
  let rows (fmt off stride lo n : Nat) (xs : List Nat) : List (Nat × Nat) :=
    xs.map fun x => (off + x * stride + rowBytes fmt lo, rowBytes fmt n)
  match c.op with
  | .ctx _ => []
  | .ctxSt _ => if c.cap.isSome then [] else [(opOff c.aw, 128)]
  | .zero => []
  | .ld fmt => rows fmt.toNat (opOff c.aw) (opStride c.aw) 0 64 (List.range 64)
  | .st fmt => rows fmt.toNat (opOff c.aw) (opStride c.aw) 0 64 (List.range 64)
  | op =>
    let (row0, cnt, boff, ks) := productPart c r pre i
    let n := min 64 (c.terms r - 64 * ks)
    let xs := (List.range cnt).map fun x => row0 + x
    let b := rows (Fmt.b r) boff (opStride c.bw) 0 64 ((List.range n).map fun x => 64 * ks + x)
    let w := (mxType (Fmt.a r)).width
    let a := match op with
      | .conv => xs.flatMap fun p => (List.range n).filterMap fun e =>
          ((unfoldOf r).elem (bits c.aw 32 32) p (64 * ks + e)).map fun x => (opOff c.aw + x * w / 8, (x * w % 8 + w + 7) / 8)
      | _ => rows (Fmt.a r) (opOff c.aw) (opStride c.aw) (64 * ks) n xs
    let scales := match op, i with
      | .mms, 0 => aScales r c ++ bScales r c
      | .gmm, 0 => [(opAux c.bw, 65)]
      | _, _ => []
    scales ++ a ++ b
/-- The words of step i, as the banks grant them. -/
def stepWords (c : MxCmd) (r : FmtRec) (pre : List Byte) (i : Nat) : List Nat := (stepRanges c r pre i).flatMap fun x => wordsAt x.1 x.2
/-- A matrix unit asks its banks for the words of its step that are still to come, each bank for one (R83). -/
def State.askMatrix (s : State) (cl : Nat) : State :=
  match (s.cluster cl).mxrun with
  | none => s
  | some r =>
    let (left, s1) := r.words.foldl (fun (q : List Nat × State) w =>
      let (ok, st) := q.2.askBanks cl 16 [w]
      (if ok then q.1 else w :: q.1, st)) ([], s)
    s1.modCluster cl fun k => { k with mxrun := some { r with words := left.reverse } }

/-- Step i of a product: what it reads (R275 to R278). -/
def State.productStep (s : State) (cl : Nat) (c : MxCmd) (r : FmtRec) (pre : List Byte) (i : Nat) : KStep × State :=
  let kt := c.terms r
  let (row0, cnt, boff, ks) := productPart c r pre i
  let n := min 64 (kt - 64 * ks)
  let rows := (List.range cnt).map fun x => row0 + x
  let (a, s1) : List (List (Option XVal)) × State := match c.op with
    | .conv =>
      let u := unfoldOf r
      rows.foldl (fun acc i =>
        let (row, st) := (List.range n).foldl (fun (q : List (Option XVal) × State) e =>
          match u.elem (bits c.aw 32 32) i (64 * ks + e) with
          | none => (q.1 ++ [none], q.2)
          | some x =>
            let w := (mxType (Fmt.a r)).width
            let (bs, st) := q.2.mxRead c cl (opOff c.aw + x * w / 8) ((x * w % 8 + w + 7) / 8)
            (q.1 ++ [some ((mxType (Fmt.a r)).value (numOf bs / 2 ^ (x * w % 8)))], st)) ([], acc.2)
        (acc.1 ++ [row], st)) ([], s)
    | _ =>
      let (es, st) := s.mxRows c cl (Fmt.a r) (opOff c.aw) (opStride c.aw) (64 * ks) n rows
      ((valsOf (Fmt.a r) es).map fun row => row.map some, st)
  let (es, s2) := s1.mxRows c cl (Fmt.b r) boff (opStride c.bw) 0 64 ((List.range n).map fun x => 64 * ks + x)
  let b := valsOf (Fmt.b r) es
  let nb := scaleBlocks kt
  match c.op with
  | .mms =>
    let blk (x : Nat) : Nat := (64 * ks + x) / 32
    let a1 := if Fmt.scaleA r then
        (rows.zip a).map fun ra => ra.2.mapIdx fun x v => v.map fun v => scaleVal v (scaleAt pre (ra.1 * nb + blk x))
      else a
    let off := if Fmt.scaleA r then 64 * nb else 0
    let b1 := if Fmt.scaleB r then b.mapIdx fun x row => row.mapIdx fun j v => scaleVal v (scaleAt pre (off + blk x * 64 + j)) else b
    (⟨rows, a1, b1⟩, s2)
  | _ => (⟨rows, a, b⟩, s2)

/-! ## Loads and stores of a tile (R273, R274, R335) -/

/-- The element `mx.ld` writes. -/
def ldElem (r : FmtRec) (fmt e : Nat) : Half32 :=
  if fmt = acc32 || (!Fmt.isI32 r && fmt = 5) then BitVec.ofNat 32 e
  else if Fmt.isI32 r then BitVec.ofInt 32 (xInt ((mxType fmt).value e))
  else BitVec.ofNat 32 (convert (.ieee fp32) (mxType fmt) .rne e).1

/-- An INT32 element clamped to an integer format. -/
def clampInt (t : NType) (v : Int) : Nat × FFlags :=
  let (lo, hi) : Int × Int := match t with
    | .sint w => (-(2 ^ (w - 1)), 2 ^ (w - 1) - 1)
    | t => (0, 2 ^ t.width - 1)
  let c := max lo (min hi v)
  ((c % 2 ^ t.width).toNat, flagIf (c != v) fSat)

/-- The element `mx.st` writes, with its flags. -/
def stElem (r : FmtRec) (fmt : Nat) (t : Half32) : Nat × FFlags :=
  if fmt = acc32 || (!Fmt.isI32 r && fmt = 5) then (t.toNat, 0)
  else if Fmt.isI32 r then
    if isIntFmt fmt then clampInt (mxType fmt) t.toInt else convert (mxType fmt) (.sint 32) (Fmt.rm r) t.toNat
  else
    let q := convert (mxType fmt) (.ieee fp32) (Fmt.rm r) t.toNat
    match mxType fmt with
    | .taper _ => if isNan (f32v t) then (q.1, 0) else q
    | _ => q

/-- Step i of the head of a format context is performed. -/
def State.mxPerform (s : State) (cl f i : Nat) (c : MxCmd) : State :=
  let x := (s.cluster cl).fctx f
  let tile := 2 * f + c.tile
  match c.op with
  | .ctx _ => s
  | .ctxSt clr =>
    (s.mxWrite c false c.cluster (opOff c.aw) x.dump).modFctx cl f fun x => if clr then { x with mxstat := 0 } else x
  | .zero => s.modCluster cl fun k => k.setTile tile fun _ => 0
  | .ld fmt =>
    let (rows, s1) := s.mxRows c cl fmt.toNat (opOff c.aw) (opStride c.aw) 0 64 (List.range 64)
    s1.modCluster cl fun k => k.setTile tile fun e => ldElem x.rcd fmt.toNat ((rows.getD (e / 64) []).getD (e % 64) 0)
  | .st fmt =>
    (List.range 64).foldl (fun st i =>
      let es := (List.range 64).map fun j => stElem x.rcd fmt.toNat ((st.cluster cl).elem tile (64 * i + j))
      (st.mxWrite c c.cap.isSome cl (opOff c.aw + i * opStride c.aw) (packElems fmt.toNat (es.map fun e => e.1))).addFlags cl f
        (es.foldl (fun a e => a ||| e.2) 0)) s
  | _ =>
    let (q, s1) := s.productStep cl c x.rcd x.pre i
    s1.applyStep cl f tile x.rcd q

/-! ## Decisions (R268, R269, R285) -/

/-- The granted window of a franked command. -/
def Cluster.window (k : Cluster) (cap : Word) : Nat × Nat :=
  let e := k.frank.get (bits cap 32 8) 0
  ((e.extractLsb' 64 23).toNat, (e.extractLsb' 87 23).toNat)
def inWindow (w : Nat × Nat) (r : Nat × Nat) : Bool := w.1 ≤ r.1 && r.1 + r.2 ≤ w.2

/-- A range of the unit outside bounds: local, or outside the window granted at acceptance (R282). -/
def State.unitBound (s : State) (cl : Nat) (c : MxCmd) (r : Nat × Nat) : Option (Nat × Nat) :=
  match c.cap with
  | none => s.mxBound c.agent r
  | some _ => if inWindow c.win r then none else some (cFrankingRefused, scratchVa r.1)

/-- What the unit finds before the first step (R276 to R278, R285, R380): cause and address, or the bytes it keeps. -/
def State.mxBegin (s : State) (cl f : Nat) (c : MxCmd) : Except (Nat × Nat) (List Byte) × State :=
  let r := ((s.cluster cl).fctx f).rcd
  match (c.ranges r).findSome? (s.unitBound cl c), (c.local_).findSome? (s.mxBound c.agent) with
  | some e, _ => (.error e, s)
  | none, some e => (.error e, s)
  | none, none =>
    match c.op with
    | .mms =>
      let (bs, s1) := (aScales r c ++ bScales r c).foldl
        (fun (q : List Byte × State) (x : Nat × Nat) => let (b, st) := q.2.mxRead c cl x.1 x.2; (q.1 ++ b, st)) (([] : List Byte), s)
      match (bs.zipIdx).find? fun b => b.1 == 0x80 with
      | some b =>
        let off := if Fmt.scaleA r && b.2 < 64 * scaleBlocks c.k then opAux c.aw + b.2
          else if Fmt.scaleA r then opAux c.bw + b.2 - 64 * scaleBlocks c.k
          else opAux c.bw + b.2
        (.error (cReservedFormat, scratchVa off), s1)
      | none => (.ok bs, s1)
    | .gmm =>
      let (bs, s1) := s.mxRead c cl (opAux c.bw) 65
      let g := (bs.headD 0).toNat
      let cs := groupCounts bs
      if g = 0 || 64 < g || 64 < cs.foldl (· + ·) 0 then (.error (cGroupBounds, scratchVa (opAux c.bw)), s1)
      else
        let ext := (groupsFrom 0 0 cs).flatMap fun q =>
          (rowRanges c.bw c.k (rowBytes (Fmt.b r) 64)).map fun x => (x.1 + q.1 * c.k * opStride c.bw, x.2)
        match ext.findSome? (s1.unitBound cl c) with
        | some e => (.error e, s1)
        | none => (.ok bs, s1)
    | .conv =>
      if !(unfoldOf r).valid then (.error (cIllegalOperand, scratchVa (opOff c.aw)), s)
      else
        match (c.tensor r).findSome? (s.unitBound cl c) with
        | some e => (.error e, s)
        | none => (.ok [], s)
    | .ld fmt =>
      if Fmt.isI32 r && !isIntFmt fmt.toNat && fmt.toNat != acc32 then (.error (cIllegalOperand, scratchVa (opOff c.aw)), s)
      else (.ok [], s)
    | _ => (.ok [], s)

/-- eff of R268. -/
def Fctx.eff (x : Fctx) : Nat := min 3 (((x.queue.head?).map fun c => c.pri).getD 0 + x.w / 4096)
/-- The best head that is not running (R268). -/
def Cluster.best (k : Cluster) (running : Option Nat) : Option Nat :=
  (List.range 16).foldl (fun b f =>
    if (k.fctx f).queue.isEmpty || running == some f then b
    else
      match b with
      | none => some f
      | some g =>
        let (x, y) := (k.fctx f, k.fctx g)
        if y.eff < x.eff || (y.eff == x.eff && y.w < x.w) then some f else some g) none

/-- The head of a format context starts, or resumes at its k-step; one that fails or has no step is over at once. -/
def State.mxStart (s : State) (cl f : Nat) : State :=
  let x := (s.cluster cl).fctx f
  match x.queue with
  | [] => s
  | c :: _ =>
    let run (st : State) (step due : Nat) (failed : Option Nat) : State :=
      (st.modCluster cl fun k => { k.setFctx f { k.fctx f with w := 0, step := step } with
        mxrun := some { fctx := f, prun := x.eff, step := step, due := due, failed := failed
                        words := if failed.isSome then [] else stepWords c x.rcd (k.fctx f).pre step } }).setMxstep cl f 0
    let (d, s0) := s.delay
    if x.step ≠ 0 then run s0 x.step (s.clock + c.cycles x.rcd + d) none
    else
      match s0.mxBegin cl f c with
      | (.error (code, addr), s1) =>
        let (s2, ok) := s1.report c.act c.ctx (c.tag.getD 64) (0x80#8 ++ c.fn) code addr [.mxCommandComplete cl]
        let s3 := run s2 0 s.clock (some code)
        if ok then s3.post (.mxCommandComplete cl) else s3
      | (.ok pre, s1) =>
        let s2 := s1.modFctx cl f fun x => { x with pre := pre }
        if c.steps x.rcd pre = 0 then (run s2 0 s.clock none).post (.mxCommandComplete cl)
        else run s2 0 (s.clock + c.cycles x.rcd + d) none

/-- What a cancelled command leaves at a unit: records that have become heads take effect (R272), and a format context may be franked no
more (R283). -/
def State.tidyMatrix (s : State) (cl : Nat) : State :=
  let busy (st : State) (f : Nat) : Bool := (st.cluster cl).mxrun.any fun r => r.fctx == f
  (List.range 16).foldl (fun st f =>
    let st1 := if busy st f then st else st.settle cl f (((st.cluster cl).fctx f).queue.length + 1)
    st1.modCluster cl fun k => k.unfrank f) s
/-- A decision point (R268). -/
def execMxDecision (cluster : Nat) (s0 : State) : Out :=
  let s := s0.tidyMatrix cluster
  let k := s.cluster cluster
  match k.mxrun with
  | none =>
    match k.best none with
    | none => .next s
    | some f => .next (s.mxStart cluster f)
  | some r =>
    let x := k.fctx r.fctx
    match x.queue with
    | [] => .next (s.modCluster cluster fun k => { k with mxrun := none })
    | c :: _ =>
      let n := c.steps x.rcd x.pre
      if s.clock < r.due || r.failed.isSome || n ≤ r.step || !r.words.isEmpty then .next s
      else
        let s1 := s.mxPerform cluster r.fctx r.step c
        if n ≤ r.step + 1 then
          .next ((s1.modCluster cluster fun k => { k with mxrun := some { r with step := r.step + 1 } }).posts
            [.mxCommandComplete cluster, .mxDecision cluster])
        else
          let ahead := match (s1.cluster cluster).best (some r.fctx) with
            | some g => if r.prun < ((s1.cluster cluster).fctx g).eff then some g else none
            | none => none
          match ahead with
          | some g =>
            let s2 := (s1.modFctx cluster r.fctx fun x => { x with step := r.step + 1, w := 0 }).setMxstep cluster r.fctx (r.step + 1)
            .next (s2.mxStart cluster g)
          | none =>
            let (d, s2) := s1.delay
            .next (s2.modCluster cluster fun k =>
              { k with mxrun := some { r with
                  step := r.step + 1, due := s.clock + c.cycles x.rcd + d, words := stepWords c x.rcd x.pre (r.step + 1) } })

/-! ## Franked commands (R280 to R283) -/


/-- A cluster lies in a partition (R18). -/
def Part.holdsCluster (k : Part) (cl : Nat) : Bool := k.row0 ≤ cl / 16 && cl / 16 < k.row0 + k.nrows

/-- The record in force for the next command of a format context. -/
def Fctx.nextRecord (x : Fctx) : FmtRec :=
  x.queue.foldl (fun r c => match c.op with
    | .ctx r' => r'
    | _ => r) x.rcd

/-- The check of R282 at the target: the format context it is granted, with its highest priority. -/
def State.frankCheck (s : State) (cl : Nat) (c : MxCmd) (cap : Word) : Option (Nat × Nat) :=
  match s.acts.find? c.act with
  | none => none
  | some a =>
    let k := s.cluster cl
    let e := k.frank.get (bits cap 32 8) 0
    let d0 := e.extractLsb' 0 64
    let f := bits d0 36 4
    let r := (k.fctx f).nextRecord
    if (s.part a.p).holdsCluster cl && d0.getLsbD 0 && d0.getLsbD 1 && bits d0 40 24 == bits cap 40 24 && bits d0 16 16 == a.slot &&
        (c.ranges r ++ c.tensor r).all (inWindow (k.window cap)) then some (f, bits d0 34 2)
    else none

/-- A franked command reaches its target; one without its capability has been refused and its record has entered the ring. -/
def execFrankedCommandArrival (cluster : Nat) (c : MxCmd) (s : State) : Out :=
  let live := match s.acts.find? c.act with
    | some a => (match a.phase with
        | .failed _ _ => false
        | _ => true)
    | none => false
  if !live then .next s
  else
    let refused (st : State) : State :=
      match c.tag with
      | some t => st.setTag c.act c.member t true
      | none => st.modFctx c.cluster (coreOf c.ctx % 16) fun x =>
          if x.holder == some (c.act, c.member) then x.failStat cFrankingRefused else x
    match c.cap with
    | none => .next (refused s)
    | some cap =>
      match s.frankCheck cluster c cap with
      | some (f, mp) =>
        if 8 ≤ ((s.cluster cluster).fctx f).queue.length then .next (s.postAt 1 (.frankedCommandArrival cluster c))
        else
          .next (s.mxQueue cluster f { c with pri := min mp ((s.cluster cluster).fctx f).pri, win := (s.cluster cluster).window cap })
      | none =>
        let (s1, ok) := s.report c.act c.ctx (c.tag.getD 64) (0x80#8 ++ c.fn) cFrankingRefused (scratchVa (opOff c.aw))
          [.frankedCommandArrival cluster { c with cap := none }]
        .next (if ok then refused s1 else s1)

/-- Commands of one issuer to one target arrive in issue order (R282). -/
def State.sendFranked (s : State) (cl : Nat) (c : MxCmd) : State :=
  let (d, s1) := s.delay
  let earlier := s1.timers.filterMap fun t => match t.2 with
    | .frankedCommandArrival cl' c' => if cl' == cl && c'.act == c.act && c'.member == c.member then some t.1 else none
    | _ => none
  let due := earlier.foldl max (s.clock + 1 + d)
  { s1 with timers := s1.timers ++ [(due, .frankedCommandArrival cl c)] }

/-- An entry becomes active (R281, R283). -/
def Cluster.activate (k : Cluster) (index : Nat) : Cluster :=
  let e := k.frank.get index 0
  let f := (e.extractLsb' 36 4).toNat
  let x := k.fctx f
  if !e.getLsbD 0 || e.getLsbD 1 then k
  else
    let on : Cluster := { k with frank := k.frank.set index (e ||| 2#128) }
    if x.franked then on
    else if x.holder.isNone && x.queue.isEmpty then on.clearFctx f { x with franked := true }
    else k
def execFrankingEntryActivate (cluster index : Nat) (s : State) : Out := .next (s.modCluster cluster fun k => k.activate index)

/-! ## The instructions (R271 to R279, R284, R355) -/

/-- Everything a matrix command does at issue. -/
def State.mxIssue (s0 : State) (c : Nat) (k : Ctx) (op : MxOp) (fn : BitVec 8) (tile : Nat) (aw bw : Word) (kk : Nat) (tl : MxTail) : State :=
  let s := s0.loadImage c k
  let (cl, f) := (clusterOf c, coreOf c % 16)
  let x := s.fctxOf c
  let isCtx := match op with
    | .ctx _ => true
    | _ => false
  let far := tl.far.isSome
  let r := x.nextRecord
  let cmd : MxCmd :=
    { op := op, tile := tile, aw := aw, bw := bw, k := kk, tag := tl.tag.map BitVec.toNat, pri := x.pri, act := k.act
      member := k.member, cluster := cl, ctx := c, fn := fn, cap := tl.far.map k.xr }
  let here := { cmd with cap := none }
  let bounds := (if far then [] else cmd.ranges r) ++ cmd.local_
  if !far && (if isCtx then s.frankBars c && !x.holds k else !x.holds k) then s.raise c { code := cFmtctxState }
  else if cmd.badWords r then s.raise c { code := cIllegalOperand }
  else
    match cmd.misaligned with
    | some off => s.raise c { code := cMisaligned, badaddr := some (BitVec.ofNat 64 (scratchVa off)) }
    | none =>
      match bounds.findSome? (s.mxBound here.agent) with
      | some (code, addr) => s.raise c { code := code, badaddr := some (BitVec.ofNat 64 addr) }
      | none =>
        let send (cmd : MxCmd) (s : State) : State :=
          let s1 := match cmd.tag with
            | some t => s.takeTag k.act k.member t
            | none => s
          let s2 := match cmd.cap with
            | some cap => s1.sendFranked (capCluster cap) cmd
            | none => s1.mxQueue cl f cmd
          s2.advance c
        if isCtx then
          match s.recordBytes (agentOf c k) (scratchVa (opOff aw)) 64 8 with
          | (.ok _ _ s1, bs) =>
            match parseRecord bs with
            | none => s1.raise c { code := cIllegalOperand }
            | some rec_ => send { cmd with op := .ctx rec_ } (if far then s1 else s1.claim cl f k)
          | (.trap t s1, _) => s1.raise c t
          | (.wait s1, _) => s1
          | (.gone s1, _) => s1
        else send cmd s

def execMxCtx (o : MxB) (s : State) : Out :=
  issue o.m o.need .none s fun c k s => s.mxIssue c k (.ctx ⟨0, 0, 0⟩) 0x00 0 (k.xr o.b) 0 0 o.tl
def execMxCtxSt (o : MxCtxStOp) (s : State) : Out :=
  issue o.m o.need .none s fun c k s => s.mxIssue c k (.ctxSt o.clr) 0x01 0 (k.xr o.b) 0 0 o.tl
def execMxZero (o : MxT) (s : State) : Out :=
  issue o.m o.need .none s fun c k s => s.mxIssue c k .zero 0x02 o.tile.toNat 0 0 0 o.tl
def execMxMm (o : MxMm) (s : State) : Out :=
  issue o.m o.need .none s fun c k s => s.mxIssue c k .mm 0x03 o.tile.toNat (k.xr o.b) (k.xr o.c) o.k.toNat o.tl
def execMxMms (o : MxMm) (s : State) : Out :=
  issue o.m o.need .none s fun c k s => s.mxIssue c k .mms 0x04 o.tile.toNat (k.xr o.b) (k.xr o.c) o.k.toNat o.tl
def execMxConv (o : MxConvOp) (s : State) : Out :=
  issue o.m o.need .none s fun c k s => s.mxIssue c k .conv 0x05 o.tile.toNat (k.xr o.b) (k.xr o.c) 0 o.tl
def execMxGmm (o : MxMm) (s : State) : Out :=
  issue o.m o.need .none s fun c k s => s.mxIssue c k .gmm 0x06 o.tile.toNat (k.xr o.b) (k.xr o.c) o.k.toNat o.tl
def execMxLd (o : MxLdSt) (s : State) : Out :=
  issue o.m o.need .none s fun c k s => s.mxIssue c k (.ld o.fmt) 0x07 o.tile.toNat (k.xr o.b) 0 0 o.tl
def execMxSt (o : MxLdSt) (s : State) : Out :=
  issue o.m o.need .none s fun c k s => s.mxIssue c k (.st o.fmt) 0x08 o.tile.toNat (k.xr o.b) 0 0 o.tl
/-- `mx.pri` takes effect at issue (R279). -/
def execMxPri (o : MxPriOp) (s : State) : Out :=
  issue o.m mxPriNeed .none s fun c k s0 =>
    let s := s0.loadImage c k
    if (s.fctxOf c).holds k then
      (s.modFctx (clusterOf c) (coreOf c % 16) fun x => { x with pri := o.n.toNat }).advance c
    else s.raise c { code := cFmtctxState }

end Sys2Proof.Machine
end

