-- ==== Sys2Proof/Machine/Actors.lean ====
section
/-! DEFINITION. Letters, actor life, `retire` and the transaction instructions (R21, R34 to R36, R48, R52, R245 to R252, R256). -/

namespace Sys2Proof.Machine

/-! ## Postcodes (R20 to R22) -/

def pcDevice (w : Word) : Nat := bits w 48 16
def pcPart (w : Word) : Nat := bits w 44 4
def pcSlot (w : Word) : Nat := bits w 24 20
def pcInc (w : Word) : BitVec 24 := w.extractLsb' 0 24
def postcode (dev p slot : Nat) (inc : BitVec 24) : Word :=
  BitVec.ofNat 16 dev ++ BitVec.ofNat 4 p ++ BitVec.ofNat 20 slot ++ inc

/-- The pod-mask bit of a device (R303, R332). -/
def Part.podBit (k : Part) (d : Nat) : Bool := (k.word (0x100 + 8 * (d / 64))).getLsbD (d % 64)
/-- A device field names this device or one of the pod mask (R21). -/
def State.deviceOk (s : State) (p d : Nat) : Bool := d < 512 && (d == s.device || (s.part p).podBit d)
/-- A valid destination (R21). -/
def State.postcodeOk (s : State) (p : Nat) (w : Word) : Bool :=
  s.deviceOk p (pcDevice w) && pcPart w == p && pcSlot w < 0x10000 && pcInc w != 0

/-! ## `snd` and `sndp` (R246, R247) -/

/-- The letter a send builds (R246). -/
def buildLetter (a : Act) (dest : Word) (kind : BitVec 8) (bs : List Byte) : Letter :=
  let w (o n : Nat) : Nat := numOf ((bs.drop o).take n)
  { dest := dest, sender := a.self, postmark := BitVec.ofNat 64 (w 0x10 8), gid := BitVec.ofNat 32 (w 0x18 4)
    gsize := BitVec.ofNat 16 (w 0x1C 2), member := BitVec.ofNat 16 (w 0x1E 2)
    principal := if a.img.delegate && w 0x20 2 != 0 then BitVec.ofNat 16 (w 0x20 2) else a.letter.principal
    kind := kind, aux := 0, replay := false, nonotice := false, body := BitVec.ofNat 1664 (w 0x30 208) }

/-- Group fields that R246 accepts: none, or those of a group letter. -/
def groupOk (l : Letter) : Bool :=
  (l.gsize == 0 && l.gid == 0) ||
  (1 ≤ l.gsize.toNat && l.gsize.toNat ≤ 4096 && l.member.toNat < l.gsize.toNat && l.gid != 0 && l.postmark != 0)

def OutEntry.isLetter (o : OutEntry) : Bool :=
  match o with
  | .letter _ _ => true
  | _ => false
def OutEntry.isSpawn (o : OutEntry) : Bool :=
  match o with
  | .spawn _ _ _ _ _ => true
  | _ => false
/-- The 64 other actions of R248. -/
def OutEntry.isAction (o : OutEntry) : Bool :=
  match o with
  | .link _ => true
  | .unlink _ => true
  | .mon _ => true
  | .demon _ => true
  | .exit _ => true
  | .kill _ => true
  | .exitmail _ => true
  | _ => false
def Act.countOut (a : Act) (f : OutEntry → Bool) : Nat := (a.outbox.filter f).length
def State.addOut (s : State) (a : Nat) (o : OutEntry) : State := s.modAct a fun k => { k with outbox := k.outbox ++ [o] }

end Sys2Proof.Machine

namespace Sys2Proof

open Machine

/-- A letter the GX4 generates for the mailbox reserve (R30): EXIT, REFUSED, SPACE, SPAWNED. -/
def Letter.isReserve (l : Letter) : Bool := 2 ≤ l.kind.toNat && l.kind.toNat ≤ 5
/-- A letter of a launch group (R48). DESIGN CHOICE (log 79): a REFUSED letter keeps the gid and gsize of the letter it returns (R31) and
belongs to no group. -/
def Letter.inGroup (l : Letter) : Bool := l.gsize != 0 && !l.isReserve

/-- The parcel descriptor of a body (R34). -/
def Letter.parcel (l : Letter) : Parcel :=
  { base := l.body.extractLsb' 0 64, len := (l.body.extractLsb' 64 32).toNat, place := (l.body.extractLsb' 96 32).toNat }
/-- Size and alignment of a tile (R34, R35). -/
def Parcel.shapeOk (t : Parcel) : Bool :=
  let g := if t.place = 2 then 65536 else 64
  t.place ≤ 2 && 64 ≤ t.len && t.len ≤ 2097152 && t.len % g == 0 && t.base.toNat % g == 0

/-- The line or page size at which the ownership of a tile is checked. -/
def Parcel.grain (t : Parcel) : Nat := if t.place = 2 then 65536 else 64
def Parcel.units (t : Parcel) : List Nat := (List.range (t.len / t.grain)).map fun i => t.base.toNat + i * t.grain

end Sys2Proof

namespace Sys2Proof.Machine

/-- A tile of a 64 KiB page that lies in a larger one is no whole page (R35). -/
def State.tilePages (s : State) (a : Act) (t : Parcel) : Bool :=
  t.place != 2 || t.units.all fun va => match s.walk a.p va with
    | .leaf l => l.size == 65536
    | _ => true
/-- The actor owns a line of the tile where the descriptor places it (R35, R85, R88). -/
def State.ownsUnit (s : State) (ag : Agent) (a : Act) (t : Parcel) (va : Nat) : Bool :=
  !(a.gave.any fun g => tileTouches g va t.grain) &&
  if t.place = 0 then inScratch va && va % 2 ^ 56 ≤ 0x3FFFFF && s.scratchOk ag a (va % 2 ^ 56) 64
  else
    va < 2 ^ 52 && match s.walk a.p va with
      | .leaf l =>
        let pa := l.addr + va % l.size
        !l.cmn && s.owns a l pa && (if t.place = 1 then pa < sramTop else sramTop ≤ pa)
      | _ => false

/-- The owner change of a global tile, with the leaves of its lines or pages as they are now (R106, R110). -/
def State.ownerChange (s : State) (p : Nat) (dest : Word) (t : Parcel) : OwnerChange :=
  { tile := t, dest := dest
    leaves := t.units.filterMap fun va => match s.walk p va with
      | .leaf l => some (va, l)
      | _ => none }

/-- A send (R246, R247). -/
def State.send (s : State) (c : Nat) (k : Ctx) (dest img : Word) (kind : BitVec 8) : State :=
  match s.acts.find? k.act with
  | none => s.advance c
  | some a =>
    let b := img.toNat
    if !s.postcodeOk a.p dest then s.raise c { code := cBadPostcode }
    else if !inScratch b || b % 64 != 0 then s.raise c (misTrap b)
    else
      match s.recordBytes (agentOf c k) b 256 32 with
      | (.trap t s1, _) => s1.raise c t
      | (.wait s1, _) => s1
      | (.gone s1, _) => s1
      | (.ok _ _ s1, bs) =>
        let l := buildLetter a dest kind bs
        let t := l.parcel
        if !groupOk l then s1.raise c { code := cIllegalOperand }
        else if 64 ≤ a.countOut OutEntry.isLetter then s1.raise c { code := cResourceLimit }
        else if kind = 0 then (s1.addOut k.act (.letter l (l.postmark == 0))).advance c
        else if !t.shapeOk || !s1.tilePages a t then s1.raise c (misTrap t.base.toNat)
        else
          match t.units.find? fun va => !s1.ownsUnit (agentOf c k) a t va with
          | some va =>
            (s1.noteWalk a.p c 0 a.self a.letter.postmark va).raise c { code := cParcelNotOwned, badaddr := some (BitVec.ofNat 64 va) }
          | none =>
            let s2 := s1.modAct k.act fun a =>
              { a with
                gave := a.gave ++ [t]
                owners := if t.place = 0 then a.owners else a.owners ++ [s1.ownerChange a.p dest t]
                wsig := if t.place = 0 then a.wsig
                  else (List.range (t.len / 64)).foldl (fun g i => sigSet g (t.base.toNat + 64 * i)) a.wsig }
            (s2.addOut k.act (.letter l (l.postmark == 0))).advance c

def execSnd (o : XX) (s : State) : Out :=
  issue o.m o.needSnd .none s fun c k s => s.send c k (k.xr o.a) (k.xr o.b) 0
def execSndp (o : XX) (s : State) : Out :=
  issue o.m o.needSnd .none s fun c k s => s.send c k (k.xr o.a) (k.xr o.b) 1

/-! ## `spawn` (R52, R248, R249) -/

/-- The next incarnation of a slot (R22). -/
def nextInc (i : BitVec 24) : BitVec 24 := if i = BitVec.allOnes 24 then 1 else i + 1

/-- A slot is taken: an actor, a reservation, or a child whose rebuild is owed (R52, R61). -/
def State.slotTaken (s : State) (p slot : Nat) : Bool :=
  let k := s.part p
  slot == 0xFFFF || (k.actors.find? slot).isSome || (k.reserved.find? slot).isSome || (k.kept.find? slot).isSome ||
  k.actors.any fun w => w.2.children.any fun ch => pcDevice ch.code == s.device && pcSlot ch.code == slot

/-- Places of the 65,536 live actors of the device that are taken: actors, reservations, slots kept for a rebuild, those of children that
have exited and may be rebuilt (R17). -/
def State.liveActors (s : State) : Nat :=
  let gone (k : Part) (c : Child) : Bool := pcDevice c.code == s.device && !(k.actors.any fun w => w.2.code == c.code)
  (s.parts.map fun k => k.2.actors.length + k.2.reserved.length + k.2.kept.length +
    (k.2.actors.flatMap fun w => w.2.children.filter (gone k.2)).length).sum
/-- Places held back for the system actors of partitions that may still be set up (R17, R331). DESIGN CHOICE (log 101): that they are is the
model's reading of the limit, since a set-up has no refusal for it. -/
def State.heldBack (s : State) : Nat := 16 - (s.parts.filter fun k => (k.2.actors.find? 0xFFFF).isSome).length

/-- The first free slot from a start, which the model leaves open (log 12). -/
def State.freeSlot (s : State) (p start fuel : Nat) : Option Nat :=
  match fuel with
  | 0 => none
  | n + 1 => if s.slotTaken p (start % 65535) then s.freeSlot p (start + 1) n else some (start % 65535)

/-- A slot for one actor more of the device's 65,536 (R17). -/
def State.newSlot (s : State) (p start : Nat) : Option Nat :=
  if 65536 ≤ s.liveActors + s.heldBack then none else s.freeSlot p start 65535

/-- Reserves a slot: the postcode, or none with no slot free (R52). -/
def State.reserve (s : State) (p img : Nat) : Option Word × State :=
  let (i, s1) := s.pickN
  match s1.newSlot p i with
  | none => (none, s1)
  | some slot =>
    let inc := nextInc ((s1.part p).last.get slot 0)
    let code := postcode s.device p slot inc
    (some code, s1.modPart p fun k => { k with last := k.last.set slot inc, reserved := k.reserved.set slot (code, img) })

/-- The outbox entry of a spawn completes: its postcode, or void. -/
def OutEntry.setSpawn (o : OutEntry) (serial : Nat) (child : Word) (void : Bool) : OutEntry :=
  match o with
  | .spawn c i m v n => if n = serial then .spawn child i m void n else .spawn c i m v n
  | o => o

/-- A reservation on another device completes: the result fills, the outbox entry knows its postcode. -/
def State.spawnResult (s : State) (r : RemoteSpawn) (child : Word) (void : Bool) : State :=
  let s1 := { s with remote := s.remote.filter fun q => q.serial != r.serial }
  let s2 := s1.modAct r.act fun a => { a with outbox := a.outbox.map fun o => o.setSpawn r.serial child void }
  (s2.modCtx r.ctx fun k =>
    { k with vres := k.vres.map fun v => if v.serial = r.serial then { v with due := some (s.clock + 1), ws := [.x r.dest child] } else v })

/-- A void reservation with its kind-4 record (R249, R397). -/
def State.voidSpawn (s : State) (r : RemoteSpawn) (code : Nat) : State :=
  let s1 := match s.acts.find? r.act with
    | some a => s.note a.p (mkRecord s.now 4 code 0 r.ctx 4 0x41 a.self a.letter.postmark 0 0x9100 0 0)
    | none => s
  s1.spawnResult r 0 true

/-- A reservation goes to another device (R249). -/
def State.spawnFar (s : State) (c : Nat) (k : Ctx) (a : Act) (dest : BitVec 6) (d img : Nat) (sup : Option RestartMode) : State :=
  let (n, s1) := s.fresh
  let r : RemoteSpawn :=
    { serial := n, device := d, ctx := c, act := k.act, member := k.member, img := img, dest := dest
      epc := k.pc, enpc := k.nextPc, slot := k.slot.isSome }
  let s2 := (s1.modCtx c fun x => { x.emptyX dest with vres := x.vres ++ [{ serial := n, due := none, kind := .spawn, ws := [] }] }).addOut
    k.act (.spawn 0 img sup false n)
  let s3 := { s2 with remote := s2.remote ++ [r] }
  if s.lostmask.getLsbD d then (s3.voidSpawn r cDeviceLost).advance c
  else (s3.enqueue d a.p false a.self a.letter.postmark 0 64 (.remote (.reserve n img))).advance c

def modeOf (m : BitVec 2) : RestartMode :=
  match m.toNat with
  | 0 => .always
  | 1 => .onFault
  | _ => .never

def execSpawn (o : SpawnOp) (s : State) : Out :=
  issue o.m o.need .none s fun c k s =>
    match s.acts.find? k.act with
    | none => s.advance c
    | some a =>
      let img := bits (k.xr o.b) 0 16
      let d := bits (k.xr o.c) 0 16
      let sup := if o.sup then some (modeOf o.mode) else none
      if o.sup && !a.img.supervisor then s.raise c { code := cIllegalOperand }
      else if !s.deviceOk a.p d then s.raise c { code := cBadPostcode }
      else if d == s.device && ((s.part a.p).images.find? img).isNone then s.raise c { code := cNoImage }  -- elsewhere: R249, log 26
      else if 16 ≤ a.countOut OutEntry.isSpawn then s.raise c { code := cResourceLimit }
      else if d != s.device then s.spawnFar c k a o.a d img sup
      else
        match s.reserve a.p img with
        | (none, s1) => s1.raise c { code := cResourceLimit }
        | (some code, s1) =>
          let (s2, n) := s1.later c .spawn [.x o.a code] none
          (s2.addOut k.act (.spawn code img sup false n)).advance c

/-! ## The other actions (R248, R250) -/

/-- An action of the table of 64, checked and put into the outbox. -/
def State.act (s : State) (c : Nat) (k : Ctx) (code : Option Word) (o : OutEntry) : State :=
  match s.acts.find? k.act with
  | none => s.advance c
  | some a =>
    let bad := match code with
      | some w => !s.postcodeOk a.p w
      | none => false
    if bad then s.raise c { code := cBadPostcode }
    else if 64 ≤ a.countOut OutEntry.isAction then s.raise c { code := cResourceLimit }
    else (s.addOut k.act o).advance c

def opActor (o : XOp) (f : Word → OutEntry) (s : State) : Out :=
  issue o.m o.needActor .none s fun c k s => s.act c k (some (k.xr o.a)) (f (k.xr o.a))

def execLink (o : XOp) (s : State) : Out := opActor o .link s
def execUnlink (o : XOp) (s : State) : Out := opActor o .unlink s
def execMon (o : XOp) (s : State) : Out := opActor o .mon s
def execDemon (o : XOp) (s : State) : Out := opActor o .demon s
def execKill (o : XOp) (s : State) : Out := opActor o .kill s
def execExit (o : XOp) (s : State) : Out :=
  issue o.m o.needActor .none s fun c k s =>
    let r := (k.xr o.a).extractLsb' 0 8
    if 1 ≤ r.toNat && r.toNat ≤ 127 then s.raise c { code := cIllegalOperand } else s.act c k none (.exit r)
def execExitmail (o : FlagOp) (s : State) : Out :=
  issue o.m actorNeed .none s fun c k s => s.act c k none (.exitmail o.v)

/-! ## Invalidation (R256) -/

def opInv (o : XOp) (f : Word → OutEntry) (s : State) : Out :=
  issue o.m o.needActor .none s fun c k s => (s.addOut k.act (f (k.xr o.a))).advance c
def execIcinv (o : XOp) (s : State) : Out := opInv o (fun a => .icinv a false) s
def execIcinvAll (o : XOp) (s : State) : Out := opInv o (fun a => .icinv a true) s
def execTlbinv (o : XOp) (s : State) : Out := opInv o (fun a => .tlbinv a false) s
def execTlbinvAll (o : XOp) (s : State) : Out := opInv o (fun a => .tlbinv a true) s

/-! ## `retire` and the transaction (R109, R251, R252) -/

/-- The subscriptions of a member end: the feeder goes on with what was finished (R109). -/
def State.endSubs (s : State) (a m : Nat) : State :=
  let s1 := s.modMember a m fun u =>
    { u with subs := u.subs.mapVals fun _ v => if v.ending.isNone then { v with ending := some 64 } else v }
  match (s1.acts.find? a).bind fun k => k.member? m with
  | none => s1
  | some u => s1.posts (u.subs.map fun h => .feederTile a m h.1)

/-- The end of a tile task (R251). -/
def State.retire (s : State) (c : Nat) (k : Ctx) : State :=
  let s1 := s.endSubs k.act k.member
  let s2 := (List.range 8).foldl (fun st n => st.barLeave k.act n k.member) s1
  let last := match s2.acts.find? k.act with
    | some a => a.members.zipIdx.all fun m => m.1.retired || m.2 == k.member
    | none => false
  let s3 := if last then (s2.modAct k.act fun a => { a with holder := some k.member }).flushAct k.act else s2
  let left := ((s3.ctxs.find? c).map fun k => k.samples).getD []
  let s4 := { s3 with ctxs := s3.ctxs.erase c }.modMember k.act k.member fun m =>
    { m with ctx := none, retired := true, saving := false, samples := left }
  let s5 := if last then s4.unackCheck k.act else s4
  let s6 := match s.acts.find? k.act with
    | some a => s5.trace a.p 2 k.pc a.letter.postmark a.slot c 0 false
    | none => s5
  s6.leaveFctx (clusterOf c) (coreOf c % 16)

def execRetire (o : NoneOp) (s : State) : Out := issue o.m noNeed .none s fun c k s => s.retire c k

/-- An activation that discards everything and commits empty in its turn (R252). -/
def Act.dropAll (a : Act) : Act :=
  { a with
    lines := []
    pages := []
    rsig := 0
    wsig := 0
    outbox := []
    gave := []
    owners := []
    firstErr := none
    members := a.members.map fun m =>
      { m with ctx := none, saved := none, retired := true, tags := 0, tagerr := 0, held := 0, subs := [], image := none, saving := false } }

def execTxnAbort (o : NoneOp) (s : State) : Out := issue o.m noNeed .none s fun _ k s => s.abortAct k.act {}
def execTxnAbortDrop (o : NoneOp) (s : State) : Out :=
  issue o.m noNeed .none s fun _ k s => (s.stopAct k.act).modAct k.act Act.dropAll
def execTxnExcl (o : NoneOp) (s : State) : Out :=
  issue o.m noNeed .none s fun c k s =>
    match s.acts.find? k.act with
    | none => s.advance c
    | some a => if a.exclusive then s.advance c else s.abortAct k.act { exclusive := true }

end Sys2Proof.Machine
end

