-- ==== Sys2Proof/Machine/System.lean ====
section
/-! DEFINITION. System registers, traps, returns, the debug stop of `ebreak`, and the hint space (R159, R160, R253 to R255, R305,
R306, R317). -/

namespace Sys2Proof.Machine

/-! ## System registers (R253) -/

def srVer : Word := 0#16 ++ 4#16 ++ 1#8 ++ 0#8 ++ 1#8 ++ Config.stepping
/-- Bit 0 is the partition feature, absent on a GX4-M576 (R2, R306). -/
def State.srFeat (s : State) : Word := if s.code = 1 then 0x1E else 0x1F
/-- sr.gang, sr.tile, sr.group of a member (R40). -/
def Act.srGang (a : Act) (m : Nat) : Word := BitVec.ofNat 64 (m + 256 * a.img.g)
def Act.srTile (a : Act) (m : Nat) : Word :=
  BitVec.ofNat 64 (m % a.img.gx + 2 ^ 8 * (m / a.img.gx) + 2 ^ 16 * a.img.gx + 2 ^ 24 * (a.img.g / a.img.gx))
def Act.srGroup (a : Act) : Word :=
  let n := a.letter.member.toNat % 2 ^ 12
  BitVec.ofNat 64 (if a.letter.inGroup then n + 2 ^ 16 * (a.letter.gsize.toNat % 2 ^ 13) + 2 ^ 32 * a.letter.gid.toNat else n)
/-- sr.region (R253, R424). -/
def State.srRegion (s : State) (a : Act) : Word :=
  let k := s.part a.p
  if a.img.region = 0 then 0 else k.word 0x90 + k.word 0x98 * BitVec.ofNat 64 a.slot

/-- A register of integer-ALU latency as `rdsr` reads it. -/
def State.sysReg (s : State) (c : Nat) (k : Ctx) (r : SysReg) : Word :=
  let ofAct (f : Act → Word) : Word := ((s.acts.find? k.act).map f).getD 0
  match r with
  | .ver => srVer
  | .feat => s.srFeat
  | .self => ofAct fun a => a.self
  | .sender => ofAct fun a => a.letter.sender
  | .postmark => ofAct fun a => a.letter.postmark
  | .gang => ofAct fun a => a.srGang k.member
  | .tile => ofAct fun a => a.srTile k.member
  | .group => ofAct Act.srGroup
  | .clearance => ofAct fun a => a.clearance
  | .ctx => BitVec.ofNat 64 c
  | .region => ofAct s.srRegion
  | .fflags => k.fflags.setWidth 64
  | .cycle => BitVec.ofNat 64 s.now
  | .epc => k.epc
  | .enpc => k.enpc
  | .cause => k.cause
  | .badaddr => k.badaddr
  | .tags => s.tagsOf k
  | .tagerr => s.tagerrOf k
  | .progress => k.progress

def execRdsr (o : SrOp) (s : State) : Out :=
  issue o.m o.needR .none s fun c k s =>
    if o.r.variable then (s.later c .state [] (some (o.a, .sr o.r))).1.advance c
    else s.done c 1 [.x o.a (s.sysReg c k o.r)]

/-- What a `wrsr` writes: the writable registers alone (R253). -/
def wrsrWrites (r : SysReg) (v : Word) : List RegWrite :=
  match r with
  | .fflags => [.fflags (v.extractLsb' 0 7)]
  | .epc => [.epc v]
  | .enpc => [.enpc v]
  | _ => []
def execWrsr (o : SrOp) (s : State) : Out :=
  issue o.m o.needW .none s fun c k s => s.done c 1 (wrsrWrites o.r (k.xr o.a))

/-! ## Traps and returns (R255, R347) -/

def execTrap (o : N16) (s : State) : Out :=
  issue o.m noNeed .none s fun c _ s => s.raise c { code := cSoftTrap, info := o.n.toNat, course := .continue_ }
def execEret (o : NoneOp) (s : State) : Out := issue o.m noNeed .eret s fun c _ s => s.modCtx c Ctx.eret
def execEretRe (o : NoneOp) (s : State) : Out := issue o.m noNeed .eret s fun c _ s => s.modCtx c Ctx.eretRe

/-- The partition whose rows hold a cluster. -/
def State.partAt (s : State) (cluster : Nat) : Option Nat :=
  ((s.parts.filter fun k => k.2.state != .free && k.2.holdsCluster cluster).head?).map Prod.fst

/-- A stop of a core is requested, with its reason, and the context it is due to (R317, R320). -/
def Core.ask (k : Core) (why : Nat) (c : Option Nat) : Core :=
  if k.halted then k else { k with dbgctl := setBits (k.dbgctl ||| 1) 4 3 why, stopCtx := c }
/-- The trace record of a stop: of the context it is due to, for a request the core's current one (R320; log 91). -/
def State.traceStop (s : State) (n why : Nat) : State :=
  let q := s.core n
  let c := q.stopCtx.getD (8 * n + q.cur)
  match s.partAt (n / 16) with
  | none => s
  | some p =>
    match (s.ctxs.find? c).bind fun k => (s.acts.find? k.act).map fun a => (k, a) with
    | some (k, a) => s.trace p 9 k.pc a.letter.postmark a.slot c why false
    | none => s.trace p 9 0 0 0 c why false
/-- A context stands between a transfer and its slot, or in a microcoded sequence (R154, R220, R318). -/
def Ctx.inside (k : Ctx) (clock : Nat) : Bool :=
  (k.slot.isSome && k.wait.isNone) || k.pause == some .callx || k.pause == some .callxRecord || clock < k.busy
/-- A save of an activation with a member on a core that stops is called off (R318). -/
def State.callOff (s : State) (n : Nat) : State :=
  { s with acts := s.acts.mapVals fun _ a =>
      if a.contexts.any fun c => coreOf c == n then { a with members := a.members.map fun m => { m with saving := false } } else a }
/-- A stop takes force once no context of the core stands inside a transfer or a sequence (R318), with its trace record. -/
def State.settleStop (s : State) (n : Nat) : State :=
  let k := s.core n
  let mid := (List.range 8).any fun i => (s.ctxs.find? (8 * n + i)).any fun x => x.inside s.clock
  if k.dbgctl.getLsbD 0 && !k.halted && !mid then
    ((s.setCore n { k with dbgctl := k.dbgctl ||| 8 }).callOff n).traceStop n (bits k.dbgctl 4 3)
  else s

def execEbreak (o : NoneOp) (s : State) : Out :=
  issue o.m noNeed .none s fun c _ s =>
    if (s.core (coreOf c)).dbgctl.getLsbD 7 then ((s.modCore (coreOf c) fun k => k.ask 4 (some c)).advance c).settleStop (coreOf c)
    else s.raise c { code := cEbreak, course := .continue_ }

/-! ## The hint space (R159, R160) -/

/-- A hint-space word only moves on; its gap and sw act, nothing else of it is examined. -/
def hint (gap : Nat) (sw : Bool) (s : State) : Out :=
  match s.cur with
  | none => .fault .noIssuingContext
  | some c =>
    match s.ctxs.find? c with
    | none => .fault .noIssuingContext
    | some k => if s.runs k then .next ((s.charge c gap sw).advance c) else .next s

def execNop (o : NopRaw) (s : State) : Out := hint (o.rest.extractLsb' 12 4).toNat (o.rest.getLsbD 11) s
def execHintSpaceWord (o : HintRaw) (s : State) : Out := hint (o.word.extractLsb' 12 4).toNat (o.word.getLsbD 11) s

end Sys2Proof.Machine
end

