-- ==== Sys2Proof/Machine/Letters.lean ====
section
/-! DEFINITION. Letters on their way and in mailboxes: stamps, sending, dead letters, refusals, notices, launch groups (R24, R26, R28 to
R36, R48, R49, R288, R290, R362, R363, R366). -/

namespace Sys2Proof

open Machine


/-- The 256 bytes of a letter (R24). -/
def Letter.bytes (l : Letter) : List Byte :=
  bytesOf 8 l.dest.toNat ++ bytesOf 8 l.sender.toNat ++ bytesOf 8 l.postmark.toNat ++ bytesOf 4 l.gid.toNat ++
    bytesOf 2 l.gsize.toNat ++ bytesOf 2 l.member.toNat ++ bytesOf 2 l.principal.toNat ++
    [l.kind, l.aux, BitVec.ofNat 8 ((if l.replay then 1 else 0) + (if l.nonotice then 2 else 0))] ++
    List.replicate 11 (0 : Byte) ++ bytesOf 208 l.body.toNat

/-- Body word j (R24). -/
def Letter.word (l : Letter) (j : Nat) : BitVec 32 := l.body.extractLsb' (32 * j) 32

/-- newbase of a parcel descriptor (R34), and a letter with it filled in. -/
def Letter.newbase (l : Letter) : Word := l.body.extractLsb' 128 64
def Letter.setNewbase (l : Letter) (a : Word) : Letter :=
  let mask : BitVec 1664 := (BitVec.ofNat 1664 (2 ^ 64 - 1)) <<< 128
  { l with body := (l.body &&& ~~~mask) ||| (a.setWidth 1664 <<< 128) }

/-- The scratchpad tile a PARCEL letter brings (R36): newbase is filled in at delivery, and 0 where no tile comes with it. DESIGN CHOICE
(log 83): when the letter is refused or dies at the sorting frame the spec says nothing of its tile; the tags stay with the destination's
slot, and the range no longer counts as in use. -/
def Letter.tiles (l : Letter) : List Parcel :=
  let t := l.parcel
  if l.kind = 1 && t.place == 0 && l.newbase != 0 then [{ t with base := l.newbase }] else []

/-- A letter the GX4 makes: no group, principal 0. -/
def Letter.made (dest sender postmark : Word) (kind : BitVec 8) (body : BitVec 1664) : Letter :=
  { dest := dest, sender := sender, postmark := postmark, gid := 0, gsize := 0, member := 0, principal := 0, kind := kind, aux := 0
    replay := false, nonotice := false, body := body }

end Sys2Proof

namespace Sys2Proof.Machine

/-- A sender postcode of a host letter: slots 0x8_0000 + d (R21). -/
def isHostSender (w : Word) : Bool := 0x80000 ≤ pcSlot w

/-! ## Ownership of tiles (R36, R88) -/

/-- A 64 KiB page's owner field takes a slot: dword 1 of its leaf (R90). -/
def State.ownPage (s : State) (p va slot : Nat) : State :=
  match s.walk p va with
  | .leaf l => { s with dram := s.dram.setNum (l.entry + 10) 2 slot }
  | _ => s
/-- A shared SRAM line's tag takes a slot. -/
def State.ownLine (s : State) (p va slot : Nat) : State :=
  match s.walk p va with
  | .leaf l =>
    let n := (l.addr + va % l.size) / 64
    { s with sramTags := setTags s.sramTags n (n + 1) (BitVec.ofNat 16 slot) }
  | _ => s
/-- A tile's owner tags become a slot (R36). -/
def State.ownTile (s : State) (p cluster slot : Nat) (t : Parcel) : State :=
  match t.place with
  | 0 =>
    let lo := t.base.toNat % 2 ^ 56 / 64
    s.modCluster cluster fun k => { k with tags := setTags k.tags lo (lo + t.len / 64) (BitVec.ofNat 16 slot) }
  | 1 => t.units.foldl (fun st va => st.ownLine p va slot) s
  | _ => t.units.foldl (fun st va => st.ownPage p va slot) s
/-- Scratchpad tiles that nobody holds any more (R36, R62). -/
def State.freeTiles (s : State) (p cluster : Nat) (ts : List Parcel) : State := ts.foldl (fun st t => st.ownTile p cluster 0xFFFF t) s

/-! ## Dead letters (R363) -/

def State.deadLetter (s : State) (l : Letter) (reason : Nat) : State :=
  if l.isReserve then s
  else s.note (pcPart l.dest) (mkRecord s.now 3 l.kind.toNat reason 0 0 0 l.dest l.postmark l.sender (l.body.extractLsb' 0 64)
    (if l.kind = 1 then l.parcel.base else 0) 0)

/-! ## Sending (R23, R26, R288) -/

/-- Status of a staging slot of the letter window (R288). -/
def State.setLwstat (s : State) (p slot seq code : Nat) : State :=
  s.modPart p fun k =>
    let w := k.win.get slot {}
    { k with win := k.win.set slot { w with stat := BitVec.ofNat 64 (code + 2 ^ 8 * (seq % 2 ^ 32)) } }
def State.hostFate (s : State) (p : Nat) (host : Option (Nat × Nat)) (code : Nat) : State :=
  match host with
  | some (slot, seq) => s.setLwstat p slot seq code
  | none => s

/-- A letter does not overtake another on its way: one of the same sender to the same mailbox (log 22), and for a SPAWNED letter an EXIT
or SPAWNED letter to its supervisor (R61, R367). -/
def Letter.follows (l q : Letter) : Bool :=
  pcSlot q.dest == pcSlot l.dest && pcPart q.dest == pcPart l.dest &&
    (q.sender == l.sender || (l.kind == 5 && (q.kind == 2 || q.kind == 5)))
/-- Letters of one sender to one mailbox arrive in the order they were sent, after a free time in the mesh (log 22). -/
def State.postLetter (s : State) (l : Letter) (host : Option (Nat × Nat)) : State :=
  let (d, s1) := s.delay
  let earlier := s1.timers.filterMap fun t => match t.2 with
    | .letterArrival _ q _ => if Letter.follows l q then some t.1 else none
    | _ => none
  let due := earlier.foldl max (s.clock + 1 + d)
  { s1 with timers := s1.timers ++ [(due, .letterArrival (pcPart l.dest) l host)] }

/-- A letter departs, with the critical-path token or without (R324): through the mesh, or through a fabric courier; one for a lost device is
dead (R23, R397). -/
def State.sendToken (s : State) (l : Letter) (token : Bool) : State :=
  let d := pcDevice l.dest
  if d == s.device then
    let s1 := s.postLetter l none
    if token then { s1 with carry := s1.carry ++ [l] } else s1
  else if s.lostmask.getLsbD d then s.deadLetter l 6
  else s.enqueue d (pcPart l.dest) false l.sender l.postmark 0 256 (.letter l token)
def State.sendLetter (s : State) (l : Letter) : State := s.sendToken l false

/-- A letter generated by an agent of the device takes its postmark from the clock at the agent's turn (R26). -/
def State.sendMade (s : State) (turn : Nat) (dest sender : Word) (kind : BitVec 8) (body : BitVec 1664) : State :=
  let (t, s1) := s.stamp turn
  s1.sendLetter (Letter.made dest sender t kind body)
/-- A letter waits for the turn of the agent that stamps it. -/
def State.owe (s : State) (n : Owed) : State := { s with owed := s.owed ++ [n] }
/-- The die of the home cluster of an actor; die 0 for a postcode that names no actor here (log 94). -/
def State.homeDie (s : State) (p : Nat) (w : Word) : Nat := ((s.actor? p (pcSlot w)).map fun a => dieOfCluster a.cluster).getD 0

/-! ## Notices (R31, R33, R290) -/

/-- Words of the letter window: kept with the control block's, from 0x10000 on. -/
def Part.win' (k : Part) (off : Nat) : Word := k.word (0x10000 + off)
def Part.setWin (k : Part) (off : Nat) (v : Word) : Part := k.setWord (0x10000 + off) v
/-- The notice ring is enabled (R287). -/
def Part.noticeOn (k : Part) : Bool := powIn (k.win' 0x1308).toNat 4 12
/-- The device may write to host memory on behalf of a partition: its interface is in RUN (R294, R402); a GX4-M576 has none (R286). -/
def State.mayWriteHost (s : State) (p : Nat) : Bool := s.code == 1 || (s.part p).tdisp == .run
/-- Owed entries are written while the ring has room; a disabled ring discards them (R290). Each is signalled by vector 0, unless masked. -/
def State.payNotices (s : State) (p fuel : Nat) : State :=
  match fuel with
  | 0 => s
  | n + 1 =>
    let k := s.part p
    match k.owed with
    | [] => s
    | (actor, seq) :: r =>
      if !k.noticeOn then s.modPart p fun k => { k with owed := [] }
      else if !s.mayWriteHost p then s
      else if k.win' 0x1310 - k.win' 0x1318 == k.win' 0x1308 then s
      else
        let at_ := (k.win' 0x1300).toNat + 16 * ((k.win' 0x1310).toNat % (k.win' 0x1308).toNat)
        let s1 := s.modPart p fun k => { k.setWin 0x1310 (k.win' 0x1310 + 1) with owed := r }
        let s2 := s1.emit (.hostWrite (some p) at_ (bytesOf 8 actor.toNat ++ bytesOf 4 seq ++ bytesOf 4 0))
        (if k.msixMask.getLsbD 0 then s2 else s2.emit (.msi p 0)).payNotices p n
/-- A host sender is owed one entry. -/
def State.oweNotice (s : State) (p : Nat) (actor : Word) (seq : Nat) : State :=
  let s1 := s.modPart p fun k => { k with owed := k.owed ++ [(actor, seq)] }
  s1.payNotices p (s1.part p).owed.length

/-! ## Places of a mailbox (R30, R31, R366) -/

def Actor.ordinary (w : Actor) : Nat := (w.box.filter fun h => !h.reserve).length
def Actor.inReserve (w : Actor) : Nat := (w.box.filter fun h => h.reserve).length
def Actor.full (w : Actor) : Bool := w.img.depth ≤ w.ordinary
/-- A letter takes a place. -/
def Actor.put (w : Actor) (l : Letter) (reserve token : Bool) (now : Nat) : Actor :=
  { w with
    box := w.box ++ [{ place := w.nextPlace, letter := l, reserve := reserve, token := token, arrived := now, owns := l.tiles }]
    nextPlace := w.nextPlace + 1 }
/-- A letter of the reserve kinds finds a place: the reserve, else an ordinary one. -/
def Actor.putReserve (w : Actor) (l : Letter) (now : Nat) : Option Actor :=
  if w.inReserve < 4 then some (w.put l true false now)
  else if !w.full then some (w.put l false false now)
  else none
/-- Pending letters enter as places free, in arrival order (R366). -/
def Actor.enter (w : Actor) (now fuel : Nat) : Actor :=
  match fuel with
  | 0 => w
  | n + 1 =>
    match w.pending with
    | [] => w
    | l :: r =>
      match w.putReserve l now with
      | some w1 => Actor.enter { w1 with pending := r } now n
      | none => w

/-- SPACE notices to the refused senders, in the order they were first refused (R31): the letters wait for the frame's turn (R26). -/
def State.sendSpace (s : State) (p slot : Nat) : State :=
  match s.actor? p slot with
  | none => s
  | some w =>
    let one (st : State) (r : Refused) : State :=
      if isHostSender r.sender then st.oweNotice p w.code r.seq
      else st.owe ⟨Stamper.sortingFrame.turn (dieOfCluster w.cluster), r.sender, w.code, 4, 0, none⟩
    w.refused.foldl one (s.modActor p slot fun w => { w with refused := [] })

/-- An event becomes due as the letter just sent arrives. -/
def State.withLetter (s : State) (e : Event) : State :=
  { s with timers := s.timers ++ [((s.timers.getLast?.map Prod.fst).getD s.clock, e)] }
/-- Agents whose turn lies from the last turn taken to `upTo` send the letters they owe, in the order of their turns (R26). -/
def State.sendOwed (s : State) (upTo : Nat) : State :=
  let due (n : Owed) : Bool := s.turn ≤ n.turn && n.turn < upTo
  let ns := (List.range upTo).flatMap fun t => s.owed.filter fun n => n.turn == t && due n
  let one (st : State) (n : Owed) : State :=
    let st1 := st.sendMade n.turn n.dest n.sender n.kind n.body
    match n.after with
    | some e => st1.withLetter e
    | none => st1
  ns.foldl one { s with owed := s.owed.filter fun n => !due n }

/-- A letter leaves the mailbox and its place frees (R30, R31, R366). -/
def State.dropHeld (s : State) (p slot place : Nat) : State :=
  match s.actor? p slot with
  | none => s
  | some w =>
    match w.box.find? fun h => h.place == place with
    | none => s
    | some h =>
      let s1 := s.modActor p slot fun w => { w with box := w.box.filter fun h => h.place != place }
      let s2 := if h.reserve then s1 else s1.sendSpace p slot
      s2.modActor p slot fun w => w.enter s.clock w.pending.length

/-! ## Launch groups (R48, R49, R362) -/

def groupMs100 : Nat := 150000000

/-- A group is abandoned: its members abort, its letters are dead, a kind-6 record is written (R362). Letters of an actor that exits stay
with those it still holds, whose turn comes by key (R421). -/
def State.abandonBut (s : State) (p gid : Nat) (member : Word) (exits : Option Nat) : State :=
  match (s.part p).groups.find? gid with
  | none => s
  | some g =>
    let one (st : State) (q : GroupLetter) : State :=
      match (st.actor? p q.slot).bind fun w => w.box.find? fun h => h.place == q.place with
      | none => st
      | some h =>
        let acts := st.acts.filter fun a => a.2.p == p && a.2.slot == q.slot && a.2.place == q.place
        let st1 := acts.foldl (fun st a => st.removeAct a.1) st
        if exits == some q.slot then st1
        else
          let cl := ((st1.actor? p q.slot).map fun w => w.cluster).getD 0
          let st2 := { st1 with served := st1.served.filter fun e => !(e.2.1 == p && e.2.2.1 == q.slot && e.2.2.2 == q.place) }
          (((st2.freeTiles p cl h.owns).dropHeld p q.slot q.place)).deadLetter h.letter 5
    let s1 := s.modPart p fun k => { k with groups := k.groups.erase gid }
    let s2 := g.joined.foldl one s1
    s2.note p (mkRecord s.now 6 0 0 0 0 0 (BitVec.ofNat 64 (gid + 2 ^ 32 * g.gsize)) g.postmark g.sender member 0 0)
def State.abandonGroup (s : State) (p gid : Nat) (member : Word) : State := s.abandonBut p gid member none

/-- What the check of a group letter says as it joins (R49): the reason it is dead, or none. -/
inductive GroupCheck where
  | plain
  | opens
  | joins
  | dead (reason : Nat) (abandon : Bool)
  deriving DecidableEq, Repr

def Part.groupCheck (k : Part) (l : Letter) : GroupCheck :=
  if l.gsize = 0 && l.gid = 0 then .plain
  else if l.gsize = 0 || l.gid = 0 || l.gsize.toNat ≤ l.member.toNat then .dead 7 false
  else
    match k.groups.find? l.gid.toNat with
    | none => if 256 ≤ k.groups.length then .dead 8 false else .opens
    | some g =>
      if g.gsize != l.gsize.toNat || g.sender != l.sender || g.postmark != l.postmark ||
          g.joined.any (fun q => q.member == l.member.toNat) then .dead 7 true
      else .joins

/-! ## Arrival (R28 to R33, R49, R288, R366, R420) -/

/-- A host PARCEL transfers a global tile of the system actor (R288). DESIGN CHOICE (log 105): one whose tile has not the shape of R34 and R35,
or does not wholly belong to the system actor, is delivered with newbase 0 and moves no owner. -/
def State.hostParcel (s : State) (p slot : Nat) (l : Letter) : Letter × State :=
  let t := l.parcel
  let mine (va : Nat) : Bool := match s.walk p va with
    | .leaf f =>
      let pa := f.addr + va % f.size
      !f.cmn && (if t.place == 1 then pa < sramTop && tagOf s.sramTags (pa / 64) 0xFFFF == 0xFFFF
        else sramTop ≤ pa && f.size == 65536 && f.owner == 0xFFFF)
    | _ => false
  if l.kind = 1 && t.place != 0 && t.shapeOk && t.units.all mine then
    let s1 := s.ownTile p 0 slot t
    (l.setNewbase t.base, if t.place = 2 then s1.modActor p slot fun w => { w with tiles := w.tiles ++ [t] } else s1)
  else (if l.kind = 1 then l.setNewbase 0 else l, s)

/-- A letter joins its mailbox; a host letter's tile changes hands, be its fate known to the host or not (R288, R403). -/
def State.joinBox (s : State) (p slot : Nat) (l : Letter) (host : Option (Nat × Nat)) (token : Bool) : State :=
  let (l1, s1) := if isHostSender l.sender then s.hostParcel p slot l else (l, s)
  (s1.modActor p slot fun w => w.put l1 false token s.clock).hostFate p host 2

/-- A letter that opens or joins a group. -/
def State.joinGroup (s : State) (p slot : Nat) (l : Letter) (opens : Bool) : State :=
  let place := ((s.actor? p slot).map fun w => w.nextPlace).getD 0
  let gid := l.gid.toNat
  let add (g : Group) : Group := { g with joined := g.joined ++ [⟨slot, place, l.member.toNat⟩] }
  if opens then
    (s.modPart p fun k => { k with groups := k.groups.set gid (add ⟨l.gsize.toNat, l.sender, l.postmark, s.clock, [], false, false, false⟩) }).postAt
      groupMs100 (.groupTimeout p gid)
  else s.modPart p fun k => { k with groups := k.groups.modify gid add }

/-- A refusal (R31, R33): the letter returns, and its sender is listed while the list of eight has room. -/
def State.refuse (s : State) (p slot : Nat) (w : Actor) (l : Letter) (host : Option (Nat × Nat)) : State :=
  let listed := w.refused.any fun r => r.sender == l.sender
  let room := listed || w.refused.length < 8
  let note (seq : Nat) (s : State) : State := s.modActor p slot fun w =>
    { w with refused :=
        if listed then w.refused.map fun r => if r.sender == l.sender then { r with seq := seq } else r
        else w.refused ++ [⟨l.sender, seq⟩] }
  match host with
  | some (st, seq) =>
    let s1 := s.setLwstat p st seq 4
    if (s.part p).noticeOn && room then note seq s1 else s1
  | none =>
    let s1 := if room then note 0 s else s
    s1.sendLetter { l with dest := l.sender, sender := l.dest, kind := 3, aux := l.kind, nonotice := !room }

/-- Notes of a watched actor go with its exit signal (R54). -/
def State.dropWatch (s : State) (p slot : Nat) (l : Letter) : State :=
  if l.kind = 2 then s.modActor p slot fun w => { w with watches := w.watches.filter fun c => c != l.sender } else s

/-- The restart event that comes with the EXIT letter of a child on another device, whose completion it is (R61, R367). -/
def State.childEvent (s : State) (p slot : Nat) (w : Actor) (l : Letter) : Option Event :=
  let mine := w.children.any fun c => c.code == l.sender && pcDevice c.code != s.device
  if l.kind = 2 && mine then
    let reason := (l.body.extractLsb' 64 8)
    let killing := w.children.any fun c => c.code == l.sender && c.killing
    some (.restartEvent p slot l.sender reason (reason == 1 && l.body.extractLsb' 320 64 == w.code && !killing))
  else none

/-- A letter of an actor or agent of another device has come over the fabric. An EXIT letter from there is an exit signal: the device makes
the letters of refused actions (R57) for itself, so none of those comes this way. The bearer of a PARCEL letter left no tile here. -/
def State.farLetter (s : State) (l : Letter) (token : Bool) : State :=
  let p := pcPart l.dest
  let slot := pcSlot l.dest
  let l1 := if l.kind = 1 then l.setNewbase 0 else l
  let go (st : State) : State := (if token then { st with carry := st.carry ++ [l1] } else st).postLetter l1 none
  match s.actor? p slot with
  | some w =>
    if w.code = l.dest then
      let s1 := go (s.dropWatch p slot l)
      match s.childEvent p slot w l with
      | some e => s1.withLetter e
      | none => s1
    else go s
  | none => go s

/-- A letter reaches the sorting frame. DESIGN CHOICE (log 79): a REFUSED letter keeps the gid and gsize of the letter it returns (R31), and
neither opens nor joins a launch group. -/
def execLetterArrival (p : Nat) (l : Letter) (host : Option (Nat × Nat)) (s : State) : Out :=
  let slot := pcSlot l.dest
  let token := host.isSome || s.carry.contains l
  let s := { s with carry := s.carry.erase l }
  match s.actor? p slot with
  | none => .next ((s.deadLetter l 2).hostFate p host 5)
  | some w =>
    if w.code != l.dest then .next ((s.deadLetter l 1).hostFate p host 5)
    else if l.isReserve then
      match w.putReserve l s.clock with
      | some _ => .next (s.modActor p slot fun w => (w.putReserve l s.clock).getD w)
      | none =>
        if w.pending.length < 64 then .next (s.modActor p slot fun w => { w with pending := w.pending ++ [l] })
        else .next (s.post (.killPoint p w.code (.overflow l)))
    else if w.full then
      if w.img.overflowFail then .next ((s.hostFate p host 5).post (.killPoint p w.code (.overflow l)))
      else .next (s.refuse p slot w l host)
    else
      match (s.part p).groupCheck l with
      | .dead reason abandon =>
        let s1 := (s.deadLetter l reason).hostFate p host 5
        .next (if abandon then s1.abandonGroup p l.gid.toNat 0 else s1)
      | .plain => .next (s.joinBox p slot l host token)
      | .opens => .next ((s.joinGroup p slot l true).joinBox p slot l host token)
      | .joins => .next ((s.joinGroup p slot l false).joinBox p slot l host token)

/-- A group not complete 100 ms after its first letter joined is abandoned (R49). -/
def execGroupTimeout (p gid : Nat) (s : State) : Out :=
  match (s.part p).groups.find? gid with
  | none => .next s
  | some g =>
    if groupMs100 ≤ s.clock - g.opened && g.joined.length < g.gsize then .next (s.abandonGroup p gid 0) else .next s

end Sys2Proof.Machine
end

