-- ==== Sys2Proof/Machine/Exits.lean ====
section
/-! DEFINITION. How actors come into being and exit: regions, EXIT letters, exit signals, links and monitors (R52, R54 to R62, R361,
R364 to R367, R420, R421, R424). -/

namespace Sys2Proof.Machine

/-! ## Global regions (R424) -/

/-- The level-0 entry of a virtual address, with no valid leaf above it. -/
def entryFrom (m : Mem) (table va level : Nat) : Option Nat :=
  let e := table + 16 * vaIndex va level
  match level with
  | 0 => some e
  | l + 1 =>
    let d0 := m.word e
    if !d0.getLsbD 0 || d0.getLsbD 3 || (entryError (l + 1) d0 (m.word (e + 8))).isSome then none
    else entryFrom m (bits d0 9 39 * 512) va l
def State.leafEntry (s : State) (p va : Nat) : Option Nat := entryFrom s.dram (bits ((s.part p).word 0x80) 17 31 * 2 ^ 17) va 3

/-- A level-0 table covers a 2 MiB stretch whose level-1 entry is clear: the restart engine puts one, 512 bytes aligned to its size, in
lines of shared SRAM that the system actor owns and that hold zero, at or after a place left open (R89, R424; log 37). -/
def State.tableSpot (s : State) (start fuel : Nat) : Option Nat :=
  match fuel with
  | 0 => none
  | n + 1 =>
    let a := start % 327680 * 512
    if (List.range 8).all (fun i => tagOf s.sramTags (a / 64 + i) 0xFFFF == 0xFFFF) && (s.dram.read a 512).all (fun b => b == 0) then some a
    else s.tableSpot (start + 1) n

/-- The level-1 entry of a virtual address. -/
def entry1 (m : Mem) (table va : Nat) : Option Nat :=
  let down (t level : Nat) : Option Nat :=
    let e := t + 16 * vaIndex va level
    let d0 := m.word e
    if !d0.getLsbD 0 || d0.getLsbD 3 || (entryError level d0 (m.word (e + 8))).isSome then none else some (bits d0 9 39 * 512)
  ((down table 3).bind fun t2 => down t2 2).map fun t1 => t1 + 16 * vaIndex va 1

/-- The level-0 entry of a virtual address, with its table made when only that is missing; none without a covering level-1 table. -/
def State.openEntry (s : State) (p va : Nat) : Option (Nat × State) :=
  match entry1 s.dram (bits ((s.part p).word 0x80) 17 31 * 2 ^ 17) va with
  | none => none
  | some e1 =>
    if (s.dram.word e1).getLsbD 0 then (s.leafEntry p va).map fun e => (e, s)
    else
      let (i, s1) := s.pickN
      (s1.tableSpot i 327680).map fun t =>
        (t + 16 * vaIndex va 0, { s1 with dram := (s1.dram.setNum e1 8 (1 + t)).setNum (e1 + 8) 8 0 })

/-- The level-0 entries of a range of pages, in order. -/
def State.openEntries (s : State) (p va n : Nat) : Option (List Nat × State) :=
  match n with
  | 0 => some ([], s)
  | m + 1 =>
    match s.openEntry p va with
    | none => none
    | some (e, s1) => (s1.openEntries p (va + 65536) m).map fun r => (e :: r.1, r.2)

/-- Frames an image's region needs, and the address of a slot's region. -/
def regionFrames (img : Image) : Nat := (img.region + 65535) / 65536
def State.regionBase (s : State) (p slot : Nat) : Nat := ((s.part p).word 0x90 + (s.part p).word 0x98 * BitVec.ofNat 64 slot).toNat

/-- Frames of the region pool in use. -/
def Part.poolUsed (k : Part) : List Nat := k.actors.flatMap fun w => w.2.frames
/-- A frame of the range that rgnpool names. -/
def Part.inRange (k : Part) (f : Nat) : Bool :=
  let base := (k.word 0xA0).toNat
  base ≤ f && f < base + 65536 * (k.word 0xA8).toNat && (f - base) % 65536 == 0
/-- Numbers in ascending order. -/
def sortNats (l : List Nat) : List Nat := l.foldl (fun r n => r.filter (· < n) ++ [n] ++ r.filter (n < ·)) []
/-- The first n free frames of the region pool, in ascending address: its range but what flips took out, and what exits brought in. -/
def Part.freeRegion (k : Part) (n : Nat) : Option (List Nat) :=
  let base := (k.word 0xA0).toNat
  let used := k.poolUsed
  let fs := ((List.range (min (k.word 0xA8).toNat (2 ^ 24))).map (fun i => base + 65536 * i)).filter fun f =>
    !used.contains f && !k.rgnOut.contains f
  let more := k.rgnIn.filter fun f => !used.contains f && !k.inRange f
  let all := (sortNats more).filter (· < base) ++ fs ++ (sortNats more).filter (base ≤ ·)
  if all.length < n then none else some (all.take n)
/-- A commit flips a page of an actor's region to a scaffold frame: the actor holds the new frame, and the old one is the scaffold pool's
(R106, R110, R424). -/
def Part.flipFrame (k : Part) (old new : Nat) : Part :=
  if k.poolUsed.contains old then
    { k with
      actors := k.actors.mapVals fun _ w => { w with frames := w.frames.map fun f => if f == old then new else f }
      rgnOut := (if k.inRange old then k.rgnOut ++ [old] else k.rgnOut).filter fun f => f != new
      rgnIn := k.rgnIn.filter fun f => f != old }
  else k
/-- An exit returns an actor's frames to the region pool (R424). -/
def Part.giveFrames (k : Part) (fs : List Nat) : Part :=
  { k with
    rgnIn := k.rgnIn ++ fs.filter fun f => !k.inRange f && !k.rgnIn.contains f
    rgnOut := k.rgnOut.filter fun f => !fs.contains f }

/-- One frame of a region: its contents and its leaf. -/
def State.buildFrame (s : State) (slot : Nat) (entry frame : Nat) (init : List (Nat × Byte)) : State :=
  let d0 : Nat := 1 + 8 + 16 + 32 + frame
  let m := s.dram.clear frame 65536
  let m1 := init.foldl (fun (m : Mem) c => m.set (frame + c.1) c.2) m
  { s.cleanLines frame 65536 with dram := (m1.setNum entry 8 d0).setNum (entry + 8) 8 (slot * 65536) }

/-- A region is built, or cannot be. -/
def State.buildRegion (s : State) (p slot : Nat) (img : Image) : Option (List Nat × State) :=
  let n := regionFrames img
  let base := s.regionBase p slot
  if n = 0 then some ([], s)
  else
    match (s.part p).freeRegion n, s.openEntries p base n with
    | some fs, some (es, s1) =>
      let one (st : State) (x : (Nat × Nat) × Nat) : State :=
        st.buildFrame slot x.1.1 x.1.2
          ((img.init.filter fun c => 65536 * x.2 ≤ c.1 && c.1 < 65536 * x.2 + 65536 && c.1 < img.region).map fun c => (c.1 - 65536 * x.2, c.2))
      some (fs, (((es.zip fs).zipIdx).foldl one s1))
    | _, _ => none

/-- TLB entries of a range of addresses go, in every cluster of the partition (R91, R110, R424). -/
def State.dropTlb (s : State) (p va n : Nat) : State :=
  let k := s.part p
  { s with clusters := s.clusters.mapVals fun c q =>
      if k.holdsCluster c then { q with tlb := q.tlb.filter fun e => !(e.va < va + n && va < e.va + e.leaf.size) } else q }

/-- A region is reclaimed: leaves invalid, `tlbinv` of the range, frames back in the pool (R424). -/
def State.dropRegion (s : State) (p slot : Nat) (n : Nat) : State :=
  let base := s.regionBase p slot
  let one (st : State) (i : Nat) : State :=
    match st.leafEntry p (base + 65536 * i) with
    | some e => { st with dram := st.dram.setNum e 8 0 }
    | none => st
  if n = 0 then s else ((List.range n).foldl one s).dropTlb p base (65536 * n)

/-! ## An actor comes into being (R52, R61, R66) -/

/-- A home cluster in the partition: the image's, or one left open (R52; log 12). -/
def State.homeOf (s : State) (p : Nat) (img : Image) : Nat × State :=
  match img.home with
  | some c => (c, s)
  | none =>
    let (i, s1) := s.pickN
    let k := s.part p
    (16 * k.row0 + i % (16 * max 1 k.nrows), s1)

/-- A fresh actor of an image. -/
def newActor (code : Word) (img : Image) (idx cluster specMax : Nat) (frames : List Nat) (sup : Option Word) : Actor :=
  { code := code, img := img, imgIndex := idx, cluster := cluster, exitMail := img.exitMail, depth := specMax, supervisor := sup, frames := frames }

/-- Why an actor does not come into being (R47, R52, R371, R424): DENIED-IMAGE 10 or CAPACITY 9. -/
def State.birth (s : State) (p idx : Nat) (code : Word) (home : Option Nat) (sup : Option Word) : Except Nat State :=
  match (s.part p).images.find? idx with
  | none => .error 10
  | some img =>
    let noCommons := match img.commons with
      | some c => ((s.part p).commons.find? c).isNone
      | none => false
    if noCommons then .error 10
    else
      match s.buildRegion p (pcSlot code) img with
      | none => .error 9
      | some (fs, s1) =>
        let (cl, s2) := match home with
          | some c => (c, s1)
          | none => s1.homeOf p img
        .ok (s2.modPart p fun k =>
          { k with
            actors := k.actors.set (pcSlot code) (newActor code img idx cl k.specMax fs sup)
            last := k.last.set (pcSlot code) (pcInc code)
            homes := k.homes.set (pcSlot code) cl
            reserved := k.reserved.erase (pcSlot code)
            kept := k.kept.erase (pcSlot code) })

/-! ## EXIT letters (R364) -/


/-- The body of an EXIT letter. -/
def ExitRec.body (e : ExitRec) (who : Word) : BitVec 1664 :=
  BitVec.ofNat 1664 (who.toNat + 2 ^ 64 * e.reason + 2 ^ 72 * e.cause + 2 ^ 80 * e.info + 2 ^ 128 * e.pc.toNat + 2 ^ 192 * e.badaddr.toNat +
    2 ^ 256 * e.postmark.toNat + 2 ^ 320 * e.origin.toNat)

/-- An EXIT letter that names an actor, to a receiver: a keystone stamps it (R364). -/
def State.exitLetter (s : State) (die : Nat) (dest who : Word) (e : ExitRec) : State :=
  s.sendMade (Stamper.keystone.turn die) dest who 2 (e.body who)

/-- A NOCONNECT letter to an actor of this device: the keystone of its home die stamps it, at its turn (R398). An event may be due as it
arrives. -/
def State.noConnect (s : State) (p : Nat) (dest who : Word) (after : Option Event) : State :=
  s.owe ⟨Stamper.keystone.turn (s.homeDie p dest), dest, who, 2, ExitRec.body { reason := 5 } who, after⟩

/-- The actor of this device that a postcode names. -/
def State.living (s : State) (p : Nat) (w : Word) : Option Actor :=
  if pcDevice w != s.device then none
  else
    match s.actor? p (pcSlot w) with
    | some a => if a.code = w then some a else none
    | none => none

/-- An exit signal through a link, at the receiver's device (R55): nothing, an exit with LINKED, or the letter. A child's exit never makes
its supervisor exit with LINKED, be there a plain link between them too (R58). -/
def State.linkSignal (s : State) (p : Nat) (receiver who : Word) (normal : Bool) (l : Letter) : State :=
  match s.living p receiver with
  | none => s
  | some a =>
    let s1 := s.modActor p (pcSlot receiver) fun w => { w with links := w.links.filter fun c => c != who }
    if a.exitMail then s1.sendLetter l
    else if normal || a.children.any (fun c => c.code == who) then s1
    else s1.post (.killPoint p receiver (.linked who))

/-- A signal to a linked actor of any device: the stamped letter, or what stands for it. -/
def State.signalLink (s : State) (p die : Nat) (receiver who : Word) (e : ExitRec) : State :=
  let here := pcDevice receiver == s.device
  let made := if here then (s.living p receiver).any fun a => a.exitMail else !s.lostmask.getLsbD (pcDevice receiver)
  let (t, s1) := if made then s.stamp (Stamper.keystone.turn die) else (0, s)
  let l := Letter.made receiver who t 2 (e.body who)
  if here then s1.linkSignal p receiver who (e.reason == 0) l
  else if made then s1.enqueue (pcDevice receiver) p false who t 0 256 (.remote (.linkSignal l))
  else s1

/-! ## Links and monitors (R54, R56, R57) -/

def tableFull : Nat := 32

/-- A refused `link` or `mon`: an EXIT letter to the issuer, or its exit (R56, R57). -/
def State.refuseLink (s : State) (p : Nat) (issuer named : Word) (reason : Nat) (isLink : Bool) : State :=
  match s.living p issuer with
  | none => s
  | some a =>
    let s1 := s.modActor p (pcSlot issuer) fun w =>
      if isLink then { w with links := w.links.filter fun c => c != named } else { w with watches := w.watches.filter fun c => c != named }
    if isLink && !a.exitMail then s1.post (.killPoint p issuer (if reason = 9 then .capacity else .linked named))
    else s1.exitLetter (dieOfCluster a.cluster) issuer named { reason := reason }

def addOnce (l : List Word) (w : Word) : List Word := if l.contains w then l else l ++ [w]

/-- A `link` takes effect where the named actor lives (R54, R56, R57); `here` when the issuer lives on this device too. Answers the
reason of a refusal. -/
def State.enterLink (s : State) (p : Nat) (issuer named : Word) (isLink here : Bool) : Except Nat State :=
  match s.living p named with
  | none => .error 5
  | some a =>
    let full (w : Actor) (c : Word) : Bool := !w.links.contains c && tableFull ≤ w.links.length
    if isLink then
      let mine := if here then (s.living p issuer).any fun w => full w named else false
      if full a issuer || mine then .error 9
      else
        let s1 := s.modActor p (pcSlot named) fun w => { w with links := addOnce w.links issuer }
        .ok (if here then s1.modActor p (pcSlot issuer) fun w => { w with links := addOnce w.links named } else s1)
    else if !a.monitors.contains issuer && tableFull ≤ a.monitors.length then .error 9
    else .ok (s.modActor p (pcSlot named) fun w => { w with monitors := addOnce w.monitors issuer })

def State.dropLink (s : State) (p : Nat) (holder other : Word) (isLink : Bool) : State :=
  match s.living p holder with
  | none => s
  | some _ => s.modActor p (pcSlot holder) fun w =>
      if isLink then { w with links := w.links.filter fun c => c != other } else { w with monitors := w.monitors.filter fun c => c != other }

/-! ## Kills of children (R369, R370) -/

/-- A kill goes to the keystone of the target's home die, on this device or another, in a free time (R361); the kills of a restart engine act
one after the other, in the order it makes them (R369, R370). -/
def State.sendKill (s : State) (p : Nat) (target killer : Word) (bySup : Bool) : State :=
  let d := pcDevice target
  if d == s.device then
    if bySup then
      let (n, s1) := s.delay
      let earlier := s1.timers.filterMap fun t => match t.2 with
        | .killPoint _ _ (.bySupervisor k) => if k = killer then some (t.1 + 1) else none
        | _ => none
      { s1 with timers := s1.timers ++ [(earlier.foldl max (s.clock + 1 + n), .killPoint p target (.bySupervisor killer))] }
    else s.postIn (.killPoint p target (.byActor killer))
  else if s.lostmask.getLsbD d then s
  else s.enqueue d p false killer 0 0 64 (.remote (if bySup then .killChild killer target else .kill target killer))

/-- A child on another device will not be rebuilt: its slot there is kept no longer (R61; log 80). -/
def State.letGo (s : State) (p : Nat) (sup child : Word) : State :=
  let d := pcDevice child
  if d == s.device || s.lostmask.getLsbD d then s else s.enqueue d p false sup 0 0 64 (.remote (.release child))

/-- A supervisor kills children of its list, in reverse order (R369, R370); `last` when none of them is rebuilt. -/
def State.killChildren (s : State) (p : Nat) (sup : Word) (cs : List Child) (last : Bool) : State :=
  let s1 := s.modActor p (pcSlot sup) fun w =>
    { w with children := w.children.map fun c => if cs.any (fun x => x.code == c.code) then { c with killing := true } else c }
  let one (st : State) (c : Child) : State :=
    let st1 := st.sendKill p c.code sup true
    if last then st1.letGo p sup c.code else st1
  cs.reverse.foldl one s1
/-- Children whose exit, or whose rebuild on another device, an exit in progress awaits. -/
def Actor.awaits (w : Actor) : Bool := w.children.any fun c => c.killing || c.asked

/-! ## The exit (R62, R361, R362, R420, R421) -/

/-- Inserts by key (R28). -/
def insertKey (h : Held) (l : List Held) : List Held :=
  match l with
  | [] => [h]
  | x :: r => if letterKey h.letter < letterKey x.letter then h :: x :: r else x :: insertKey h r
def byKey (l : List Held) : List Held := l.foldl (fun a h => insertKey h a) []

/-- The activations of an actor. -/
def State.actsOf (s : State) (p slot : Nat) : List Nat := (s.acts.filter fun a => a.2.p == p && a.2.slot == slot).map Prod.fst

/-- Step 4: signals to links, monitors and the supervisor, in that order. The restart engine of a supervisor here acts as the EXIT letter
arrives (R367). -/
def State.exitSignals (s : State) (p : Nat) (w : Actor) (e : ExitRec) (bySup : Bool) : State :=
  let die := dieOfCluster w.cluster
  let s1 := w.links.foldl (fun st c => st.signalLink p die c w.code e) s
  let s2 := w.monitors.foldl (fun st c => st.exitLetter die c w.code e) s1
  match w.supervisor with
  | none => s2
  | some sup =>
    let s3 := s2.exitLetter die sup w.code e
    if pcDevice sup == s.device then s3.withLetter (.restartEvent p (pcSlot sup) w.code (BitVec.ofNat 8 e.reason) bySup) else s3

/-- Shared SRAM lines lo to hi owned by a slot become the system actor's (R62). -/
def retag (ts : List TagRange) (lo hi : Nat) (slot : BitVec 16) : List TagRange :=
  ts.flatMap fun t =>
    let a := max lo t.lo
    let b := min hi t.hi
    if t.owner == slot && a < b then
      (if t.lo < a then [{ t with hi := a }] else []) ++ [⟨a, b, 0xFFFF⟩] ++ (if b < t.hi then [{ t with lo := b }] else [])
    else [t]
/-- The lines and pages of a partition that a slot owns are reclaimed: they become system memory (R62 step 3, R88). A line is the
partition's when a page of its table holds it. -/
def State.reclaimLines (s : State) (p slot : Nat) : State :=
  (s.leaves p).foldl (fun st x =>
    let l := x.2
    if l.cmn then st
    else if l.addr < sramTop then { st with sramTags := retag st.sramTags (l.addr / 64) ((l.addr + l.size) / 64) (BitVec.ofNat 16 slot) }
    else if l.owner == BitVec.ofNat 16 slot then { st with dram := st.dram.setNum (l.entry + 10) 2 0xFFFF }
    else st) s

/-- Steps 2 to 5 of an exit, its activations gone and its children's exits over. -/
def State.endExit (s : State) (p slot : Nat) : State :=
  match s.actor? p slot with
  | none => s
  | some w1 =>
    match w1.leaving with
    | none => s
    | some q =>
      let s4 := (byKey w1.box).foldl (fun st h => st.deadLetter h.letter (if q.abandoned.contains h.place then 5 else 3)) s
      let s5 := w1.box.foldl (fun st h => st.freeTiles p w1.cluster h.owns) s4
      let s6 := ((w1.tiles.foldl (fun st t => st.ownTile p w1.cluster 0xFFFF t) s5).dropRegion p slot w1.frames.length)
      let s7 := if slot = 0xFFFF then s6 else s6.reclaimLines p slot
      let keep (k : Part) : Tbl (Word × Word) := match w1.supervisor with
        | some sup =>
          if w1.kept && pcDevice sup != s.device && !s.lostmask.getLsbD (pcDevice sup) then k.kept.set slot (w1.code, sup) else k.kept
        | none => k.kept
      let s8 := { s7 with served := s7.served.filter fun e => !(e.2.1 == p && e.2.2.1 == slot) }.modPart p fun k =>
        { (k.giveFrames w1.frames) with actors := k.actors.erase slot, kept := keep k }
      s8.exitSignals p w1 q.exit q.bySup
/-- An exit in progress goes on once it awaits no child (R370). -/
def State.checkExit (s : State) (p slot : Nat) : State :=
  if (s.actor? p slot).any fun w => w.leaving.isSome && !w.awaits then s.endExit p slot else s

/-- An actor exits (R62): its activations abort, the groups it is in are abandoned, its children are killed (R370), and once they have exited
the steps that follow are taken. `ovf` is a letter that overflowed its mailbox, whose record stands before the others (R421). DEDUCED
(log 102): the activations go at once, as the exit point of R361 asks, and everything else once the children have exited, since their EXIT
letters become dead letters of its mailbox. -/
def State.exitActor (s : State) (p slot : Nat) (e : ExitRec) (ovf : Option Letter) : State :=
  match s.actor? p slot with
  | none => s
  | some w =>
    let s1 := match ovf with
      | some l => s.deadLetter l 4
      | none => s
    if w.leaving.isSome then s1
    else
      let bySup := e.reason == 1 && w.supervisor == some e.origin &&
        !(((s.actor? p (pcSlot e.origin)).map fun q => q.children.any fun c => c.code == w.code && c.killing).getD false)
      let gs := (s1.part p).groups.filter fun g => g.2.joined.any fun q => q.slot == slot
      let s2 := gs.foldl (fun st g => st.abandonBut p g.1 w.code (some slot)) s1
      let s3 := (s2.actsOf p slot).foldl (fun st a => st.removeAct a) s2
      let places := gs.flatMap fun g => (g.2.joined.filter fun q => q.slot == slot).map fun q => q.place
      let isOf (q : QEntry) : Bool := match q with
        | .candidate p' slot' _ _ => p' == p && slot' == slot
        | .saved _ _ => false
      let s4 := (s3.modCluster w.cluster fun k => { k with queue := k.queue.filter fun q => !isOf q }).modActor p slot fun w =>
        { w with leaving := some ⟨e, bySup, places⟩, whole := none, children := w.children.filter fun c => !c.dead || c.asked }
      let s5 := s4.killChildren p w.code (w.children.filter fun c => !c.dead && !c.killing) true
      let s6 := (w.children.filter fun c => c.killing).foldl (fun st c => st.letGo p w.code c.code) s5
      s6.checkExit p slot

end Sys2Proof.Machine

namespace Sys2Proof

open Machine

/-- The reason and origin of an exit at a kill point (R365). -/
def KillWhy.exit (w : KillWhy) : ExitRec :=
  match w with
  | .byActor k => { reason := 1, origin := k }
  | .bySupervisor k => { reason := 1, origin := k }
  | .byRuntime => { reason := 1 }
  | .overflow _ => { reason := 3 }
  | .memory => { reason := 7 }
  | .linked o => { reason := 8, origin := o }
  | .capacity => { reason := 9 }
  | .escalate o => { reason := 6, origin := o }
def KillWhy.letter (w : KillWhy) : Option Letter :=
  match w with
  | .overflow l => some l
  | _ => none

end Sys2Proof

namespace Sys2Proof.Machine

/-- Groups of an actor between their phases 2a and 2c, but those withdrawn: the gid, and whether 2b is entered (R361). -/
def State.lockedGroups (s : State) (p slot : Nat) : List (Nat × Bool) :=
  (s.acts.filter fun a => a.2.p == p && a.2.slot == slot && a.2.phase == .locked &&
      !(((s.part p).groups.find? a.2.letter.gid.toNat).any fun g => g.withdrawn)).map fun a =>
    (a.2.letter.gid.toNat, (s.part p).closing.any fun g => g.2.joined.any fun q => q.slot == slot && q.place == a.2.place)

/-- A kill is applied (R361): discarded for an actor that no longer lives; withdrawn from a locked group first. Nothing exits in a fatal
partition (R406). -/
def execKillPoint (p : Nat) (target : Word) (why : KillWhy) (s : State) : Out :=
  match s.living p target with
  | none =>
    match why with
    | .overflow l => .next (s.deadLetter l 4)
    | _ => .next s
  | some _ =>
    if (s.part p).fatal.isSome then .next s
    else
    match (s.lockedGroups p (pcSlot target)).head? with
    | some (gid, committed) =>
      if committed then .next (s.postAt 1 (.killPoint p target why)) else .next (s.postIn (.groupWithdrawal p gid target why))
    | none => .next (s.exitActor p (pcSlot target) why.exit why.letter)

end Sys2Proof.Machine
end

