-- ==== Sys2Proof/Machine/Schedule.lean ====
section
/-! DEFINITION. Candidates, placement, drain mode, pre-emption, save and restore (R38 to R44, R63 to R75, R232, R252, R324, R358, R359,
R389). -/

namespace Sys2Proof

open Machine

/-- The letter an arrival event brings. -/
def Event.arriving (e : Event) : Option Letter :=
  match e with
  | .letterArrival _ l _ => some l
  | _ => none

end Sys2Proof

namespace Sys2Proof.Machine

/-! ## Candidates (R29, R43, R44, R65, R66) -/

/-- A letter that its actor has not released: HELD or CANDIDATE. -/
def Held.unreleased (h : Held) : Bool :=
  match h.state with
  | .active _ => false
  | _ => true

/-- A held letter is released before another: by key, then one requeued, then the first to arrive (R28, R44). -/
def Held.before (h x : Held) : Bool :=
  letterKey h.letter < letterKey x.letter ||
    (letterKey h.letter == letterKey x.letter &&
      match h.requeued, x.requeued with
      | some i, some j => i < j
      | some _, none => true
      | none, some _ => false
      | none, none => h.place < x.place)
/-- The head of a mailbox: the first of its held letters to be released. -/
def Actor.head (w : Actor) : Option Held :=
  (w.box.filter Held.unreleased).foldl (fun b h =>
    match b with
    | none => some h
    | some x => if h.before x then some h else b) none

/-- Activations in flight of an actor, and its limit (R43, R44, R66). -/
def State.inFlight (s : State) (p slot : Nat) : Nat := (s.acts.filter fun a => a.2.p == p && a.2.slot == slot).length
def Actor.limit (w : Actor) : Nat := if w.leaving.isSome then 0 else if w.img.ordered then min 4 w.depth else 1

/-- The candidate of an actor. Letters to the system actor stay HELD while sysentry is 0 (R331). -/
def State.candidateOf (s : State) (p slot : Nat) (w : Actor) : Option Held :=
  let k := s.part p
  if k.fatal.isSome || (slot == 0xFFFF && k.word 0x10 == 0) || w.limit ≤ s.inFlight p slot then none else w.head

/-- A letter in the queue order of R67: saved activations first, then by key. -/
def State.queueKey (s : State) (e : QEntry) : Nat × Nat :=
  match e with
  | .saved a _ => (0, ((s.acts.find? a).map fun k => letterKey k.letter).getD 0)
  | .candidate p slot place _ =>
    (1, ((((s.actor? p slot).bind fun w => w.box.find? fun h => h.place == place).map fun h => letterKey h.letter).getD 0))
def State.queueBefore (s : State) (a b : QEntry) : Bool :=
  let (x, y) := (s.queueKey a, s.queueKey b)
  x.1 < y.1 || (x.1 == y.1 && x.2 < y.2)
/-- DESIGN CHOICE (log 84): entries of equal key keep the order in which they entered, and those of one cycle stand by partition and slot. -/
def State.insertQ (s : State) (e : QEntry) (l : List QEntry) : List QEntry :=
  match l with
  | [] => [e]
  | x :: r => if s.queueBefore e x then e :: x :: r else x :: s.insertQ e r
def State.sortQ (s : State) (l : List QEntry) : List QEntry := l.foldl (fun q e => s.insertQ e q) []
/-- Same entry, whenever it entered. -/
def QEntry.same (a b : QEntry) : Bool :=
  match a, b with
  | .saved x _, .saved y _ => x == y
  | .candidate p s n _, .candidate q t m _ => p == q && s == t && n == m
  | _, _ => false
def QEntry.since (e : QEntry) : Nat :=
  match e with
  | .saved _ t => t
  | .candidate _ _ _ t => t

/-- The candidates homed on a cluster. -/
def State.candidatesAt (s : State) (cluster : Nat) : List QEntry :=
  s.parts.flatMap fun k => if k.2.state != .ready then [] else
    k.2.actors.filterMap fun w =>
      if w.2.cluster == cluster then (s.candidateOf k.1 w.1 w.2).map fun h => .candidate k.1 w.1 h.place s.clock else none

/-- The sorting frame brings the placement queue of a cluster up to date (R65 to R67). DESIGN CHOICE (log 85): drain mode ends also when its
entry leaves the queue unplaced, since a letter of lower key replaces it or its actor exits. -/
def State.refreshQueue (s : State) (cluster : Nat) : State :=
  let want := s.candidatesAt cluster
  let k := s.cluster cluster
  let old := k.queue.filter fun e => match e with
    | .saved _ _ => true
    | _ => want.any (QEntry.same e)
  let fresh := want.filter fun e => !(old.any (QEntry.same e))
  let drain := k.drain.bind fun d => if (old ++ fresh).any (QEntry.same d) then some d else none
  s.setCluster cluster { k with queue := s.sortQ (old ++ fresh), drain := drain }
/-- Letters of an actor marked CANDIDATE or HELD. -/
def Actor.mark (w : Actor) (place : Option Nat) : Actor :=
  { w with box := w.box.map fun h => if h.unreleased then { h with state := if place == some h.place then .candidate else .held } else h }
def State.markCandidates (s : State) : State :=
  { s with parts := s.parts.mapVals fun p k =>
      { k with actors := k.actors.mapVals fun slot w => w.mark ((s.candidateOf p slot w).map fun h => h.place) } }

/-! ## Contexts and areas (R38, R41, R68, R318) -/

/-- Free contexts of a core, lowest first; a halted core counts none. -/
def State.freeCtxs (s : State) (cluster core : Nat) : List Nat :=
  if (s.core (16 * cluster + core)).halted || (s.core (16 * cluster + core)).dbgctl.getLsbD 0 then []
  else ((List.range 8).map fun i => 128 * cluster + 8 * core + i).filter fun c => (s.ctxs.find? c).isNone
/-- The g cores with the most free contexts, lower number first on a tie, in ascending number. -/
def State.chooseCores (s : State) (cluster g : Nat) : Option (List Nat) :=
  let counts := (List.range 16).map fun c => (c, (s.freeCtxs cluster c).length)
  let best := (List.range 8).flatMap fun i => (counts.filter fun c => c.2 == 8 - i).map Prod.fst
  if best.length < g then none else some ((List.range 16).filter ((best.take g).contains ·))
/-- The contexts of a gang of g: the lowest free one of each chosen core. -/
def State.chooseCtxs (s : State) (cluster g : Nat) : Option (List Nat) :=
  (s.chooseCores cluster g).bind fun cs => cs.mapM fun c => (s.freeCtxs cluster c).head?

/-- Tiles in the scratchpad of a cluster: held by letters, owned by activations, on their way. -/
def State.tilesAt (s : State) (cluster : Nat) : List Parcel :=
  let boxes := s.parts.flatMap fun k => k.2.actors.flatMap fun w => if w.2.cluster == cluster then w.2.box.flatMap fun h => h.owns else []
  let acts := s.acts.flatMap fun a => if a.2.cluster == cluster then a.2.owns else []
  let homed (l : Letter) : Bool := ((s.actor? (pcPart l.dest) (pcSlot l.dest)).map fun w => w.cluster) == some cluster
  let ls := (s.timers.filterMap fun t => t.2.arriving) ++ s.agenda.filterMap Event.arriving
  boxes ++ acts ++ (ls.filter homed).flatMap Letter.tiles ++
    (s.moving.filter fun m => m.tile && m.cluster == cluster).map fun m => m.letter.parcel
/-- Ranges of the scratchpad of a cluster in use: base and size. -/
def State.usedAt (s : State) (cluster : Nat) : List (Nat × Nat) :=
  ((s.acts.filter fun a => a.2.cluster == cluster && a.2.areaSize != 0).map fun a => (a.2.areaBase, a.2.areaSize)) ++
    (s.tilesAt cluster).map fun t => (t.base.toNat % 2 ^ 56, t.len)
/-- First fit from the lowest address, in 4 KiB units (R68). -/
def State.fitArea (s : State) (cluster n : Nat) : Option Nat :=
  let used := s.usedAt cluster
  (((List.range 1024).map (4096 * ·)).filter fun b =>
    b + n ≤ 0x400000 && used.all fun u => b + n ≤ u.1 || u.1 + u.2 ≤ b).head?

/-! ## Exclusive activations (R252, R389) -/

/-- An activation of an image and slot belongs to a domain (R45). -/
def inDomain (p slot : Nat) (img : Image) (a : Act) : Bool :=
  a.p == p && match img.commons, a.img.commons with
    | some i, some j => i == j
    | none, none => a.slot == slot
    | _, _ => false
/-- Nothing of the domain is placed beside an exclusive activation; a served exclusive letter waits for its reservations. -/
def State.exclusiveOk (s : State) (p slot place cluster : Nat) (img : Image) (excl : Bool) : Bool :=
  let mine := s.acts.filter fun a => inDomain p slot img a.2
  if excl then
    let die := dieOfCluster cluster
    s.served.find? die == some (p, slot, place) && mine.isEmpty && s.linesUsed die == 0 &&
      s.acts.all fun a => a.2.p != p || a.2.pages.isEmpty
  else mine.all fun a => !a.2.exclusive

/-! ## A gang is placed (R38 to R41, R68, R92, R93, R232) -/

/-- The clearance set of a principal (R93). -/
def State.clearanceOf (s : State) (p : Nat) (principal : BitVec 16) : List (BitVec 16) :=
  let k := s.part p
  let q := principal.toNat
  let at_ := (k.word 0xD0).toNat + 256 * q
  let head := s.dram.word at_
  let n := bits head 0 7
  if (k.word 0xD8).toNat ≤ q || !head.getLsbD 7 || 64 < n || bits head 8 56 != 0 || (s.dram.read (at_ + 0x88) 120).any (fun b => b != 0) then []
  else (List.range n).map fun i => BitVec.ofNat 16 (s.dram.num (at_ + 8 + 2 * i) 2)
/-- sr.clearance of a set (R92). -/
def srClearance (principal : BitVec 16) (ls : List (BitVec 16)) : Word := BitVec.ofNat 64 (ls.length + 2 ^ 32 * principal.toNat)

/-- The registers a member starts with (R39). -/
def startRegs (l : Letter) (areaBase areaSize : Nat) : Vector Word 64 :=
  Vector.ofFn fun i =>
    if 1 ≤ i.val && i.val ≤ 8 then (l.word (i.val - 1)).setWidth 64
    else if i.val = 9 then BitVec.ofNat 64 (0xFD00000000000000 + areaBase)
    else if i.val = 10 then BitVec.ofNat 64 areaSize
    else 0

/-- Entry PC: the image's, or sysentry of the system actor (R331). -/
def State.entryPc (s : State) (p slot : Nat) (img : Image) : Word := if slot == 0xFFFF then (s.part p).word 0x10 else img.entry

/-- A letter is released. The activation order is the release order; a requeued letter keeps the place it had (R29, R44, R337; log 17). -/
def Actor.release (w : Actor) (h : Held) (a : Nat) : Actor :=
  { w with
    nextOrder := w.nextOrder + 1
    box := w.box.map fun x => if x.place == h.place then { x with state := .active a, requeued := none } else x }
/-- Bytes of the area of the activation that handles a letter: the quota less what the letter's scratchpad tiles are charged (R36, R68).
DESIGN CHOICE (log 86): a tile is charged in the 4 KiB units of the quota, and the area keeps one unit for the letter (R41). -/
def Actor.areaFor (w : Actor) (h : Held) : Nat :=
  let charged := (h.owns.map fun t => if t.place = 0 then (t.len + 4095) / 4096 * 4096 else 0).sum
  if charged = 0 then w.img.quota else max 4096 (w.img.quota - charged)

/-- A new activation is placed: one step (R38, R68). -/
def State.placeNew (s : State) (p slot : Nat) (w : Actor) (h : Held) (cs : List Nat) (base : Nat) : State :=
  let (a, s1) := s.fresh
  let cl := w.cluster
  let l := h.letter
  let img := w.img
  let labels := s.clearanceOf p l.principal
  let key := scratchKey cl base
  let size := w.areaFor h
  let token := if h.arrived < w.lastCommit then w.lastToken else h.token
  let act : Act :=
    { p := p, slot := slot, self := w.code, letter := l, img := img, cluster := cl, areaBase := base, areaSize := size
      members := cs.map fun c => { ctx := some c }
      bars := (List.range 8).map fun n => (n, { members := BitVec.ofNat 16 (2 ^ img.g - 1) })
      order := h.requeued.getD w.nextOrder, place := h.place
      labels := labels, clearance := srClearance l.principal labels, owns := h.owns, exclusive := h.exclusive
      placedAt := s.clock, ranSince := s.clock, ranOn := cs, token := token }
  let entry := s.entryPc p slot img
  let ctx (m : Nat) : Ctx := { act := a, member := m, start := s.clock + 1, x := startRegs l base size, pc := entry }
  let lo := base / 64
  let s2 := { s1 with
    acts := s1.acts.set a act
    ctxs := (cs.zipIdx).foldl (fun (t : Tbl Ctx) (c : Nat × Nat) => t.set c.1 (ctx c.2)) s1.ctxs
    scratch := (s1.scratch.clear key size).write key l.bytes }
  let s3 := (s2.cleanScratch cl base size).modCluster cl fun k => { k with tags := setTags k.tags lo (lo + size / 64) (BitVec.ofNat 16 slot) }
  let s4 := s3.modActor p slot fun w => w.release h a
  (cs).foldl (fun st c => st.trace p 1 entry l.postmark slot c 0 false) s4

/-! ## Context records (R73 to R75, R82, R259) -/

/-- The wait condition of a record. -/
def WaitFor.code (w : WaitFor) : Nat :=
  match w with
  | .bar n _ => 1 + 16 * n.toNat
  | .tag all xd _ d => (if all then 3 else 2) + (if xd then 8 else 0) + 256 * d.toNat
  | .park left => 4 + 2 ^ 32 * left
def WaitFor.mask (w : WaitFor) : Nat :=
  match w with
  | .tag _ _ m _ => m.toNat
  | _ => 0

/-- The 3,072 bytes of a context record (R74). -/
def Ctx.record (k : Ctx) : List Byte :=
  let q (w : Nat) : List Byte := bytesOf 8 w
  (k.x.toList.zipIdx.flatMap fun r => q (if r.2 = 0 then 0 else r.1.toNat)) ++
    (k.v.toList.flatMap fun l => l.toList.flatMap fun e => bytesOf 4 e.toNat) ++
    (k.m.toList.flatMap fun b => bytesOf 2 b.toNat) ++
    q (setBit k.p 0 true).toNat ++ q k.fullX.toNat ++ q k.fullV.toNat ++ q k.pc.toNat ++ q (k.slot.getD 0).toNat ++
    q ((if k.slot.isSome then 1 else 0) + (if k.wait.isSome then 2 else 0) + 16 * k.gap) ++
    q k.epc.toNat ++ q k.enpc.toNat ++ q k.cause.toNat ++ q k.badaddr.toNat ++ q k.fflags.toNat ++ q k.progress.toNat ++
    q ((k.wait.map WaitFor.code).getD 0) ++ q ((k.wait.map WaitFor.mask).getD 0) ++ List.replicate 384 0

/-- A cluster's block of the row save area and of the TCM save area (R75, R82). -/
def State.rowBlock (s : State) (p cluster : Nat) : Nat :=
  ((s.part p).word 0xC0).toNat + 0x100000 * (cluster - 16 * (s.part p).row0)
def State.tcmBlock (s : State) (p cluster : Nat) : Nat :=
  ((s.part p).word 0xC8).toNat + 655360 * (cluster - 16 * (s.part p).row0)

/-- The wait condition a record holds; the phase of a barrier wait is the member's own. -/
def readWait (code mask : Nat) (was : Option WaitFor) : Option WaitFor :=
  match code % 8 with
  | 1 => some (.bar (BitVec.ofNat 3 (code / 16)) (match was with
      | some (.bar _ ph) => ph
      | _ => 0))
  | 2 => some (.tag false (code / 8 % 2 == 1) (BitVec.ofNat 64 mask) (BitVec.ofNat 6 (code / 256)))
  | 3 => some (.tag true (code / 8 % 2 == 1) (BitVec.ofNat 64 mask) (BitVec.ofNat 6 (code / 256)))
  | 4 => some (.park (code / 2 ^ 32 % 2 ^ 32))
  | _ => none
/-- A context with what a record of 3,072 bytes holds (R74). -/
def Ctx.readRecord (k : Ctx) (bs : List Byte) : Ctx :=
  let num (o n : Nat) : Nat := numOf ((bs.drop o).take n)
  let q (o : Nat) : Word := BitVec.ofNat 64 (num o 8)
  let st := q 0xA38
  let pr := q 0xA68
  { k with
    x := Vector.ofFn fun i => if i.val = 0 then 0 else q (8 * i.val)
    v := Vector.ofFn fun i => Vector.ofFn fun j => BitVec.ofNat 32 (num (0x200 + 64 * i.val + 4 * j.val) 4)
    m := Vector.ofFn fun i => BitVec.ofNat 16 (num (0xA00 + 2 * i.val) 2)
    p := (q 0xA10).setWidth 16
    fullX := q 0xA18
    fullV := (q 0xA20).setWidth 32
    pc := q 0xA28
    slot := if st.getLsbD 0 then some (q 0xA30) else none
    wait := if st.getLsbD 1 then readWait (num 0xA70 8) (num 0xA78 8) k.wait else none
    gap := bits st 4 4
    epc := q 0xA40, enpc := q 0xA48, cause := q 0xA50, badaddr := q 0xA58, fflags := (q 0xA60).setWidth 7
    vlane := bits pr 0 5, ustep := pr.extractLsb' 16 16, mxstep := pr.extractLsb' 32 16 }
/-- What a saved member resumes with: its record and TCM slice from wherever they lie (R75, R82). -/
def State.savedCtx (s : State) (v : Saved) : Ctx :=
  match v.row with
  | some (r, t) => { v.ctx.readRecord (s.dram.read r 3072) with tcm := Mem.write [] 0 (s.dram.read t 5120) }
  | none => v.ctx
/-- A saved member's record, or image, is set aside before another takes its place in the row save area. -/
def State.asideImage (s : State) (a : Nat) (i : SavedImage) : SavedImage :=
  if i.place == some a then
    let (x, ts) := s.imageOf i
    { place := none, fctx := x, tiles := ts }
  else i
def State.asideSaved (s : State) (a : Nat) (v : Saved) : Saved :=
  let v1 := if (v.row.map Prod.fst) == some a then { v with ctx := s.savedCtx v, row := none } else v
  { v1 with fctx := v1.fctx.map (s.asideImage a) }
/-- DESIGN CHOICE (log 90): R75 gives one place to the records, and the images, of all members saved from one context or core; what stands in a
place that another takes is set aside and still restored. -/
def State.setAside (s : State) (a : Nat) : State :=
  { s with acts := s.acts.mapVals fun _ k => { k with members := k.members.map fun m =>
      { m with saved := m.saved.map (s.asideSaved a), image := m.image.map (s.asideImage a) } } }

/-- A context is claimed: the record and TCM slice left in it by a saved member go to the save areas (R75, R82). -/
def State.streamOut (s : State) (c : Nat) : State :=
  let n := c % 128
  match (s.core (coreOf c)).tail.find? (c % 8) with
  | none => s
  | some (a, m) =>
    let s1 := s.modCore (coreOf c) fun k => { k with tail := k.tail.erase (c % 8) }
    match ((s1.acts.find? a).bind fun k => (k.member? m).bind fun u => u.saved.map fun v => (k.p, v)) with
    | some (p, v) =>
      let (r, t) := (s.rowBlock p (clusterOf c) + 3072 * n, s.tcmBlock p (clusterOf c) + 5120 * n)
      let s2 := (s1.setAside r).modMember a m fun u => { u with saved := u.saved.map fun v => { v with inTail := none, row := some (r, t) } }
      { s2 with dram := (s2.dram.write r v.ctx.record).write t (v.ctx.tcm.read 0 5120) }
    | none => s1

/-- A member's format context, if it holds one. -/
def State.heldFctx (s : State) (c : Nat) (k : Ctx) : Bool := (s.fctxOf c).holds k

/-- One member is saved (R73). -/
def State.saveMember (s : State) (p : Nat) (c : Nat) : State :=
  match s.ctxs.find? c with
  | none => s
  | some k =>
    let (cl, f) := (clusterOf c, coreOf c % 16)
    let s1 := s.arrive fun t => t.issuers.contains (k.act, k.member)
    let k1 := (s1.ctxs.find? c).getD k
    let at_ := s.rowBlock p cl + 0x60000 + 33024 * f
    let (img, s2) : Option SavedImage × State :=
      if s.heldFctx c k then
        let (x, ts) := (s.cluster cl).image f
        let s' := (s1.setAside at_).modFctx cl f fun x => { x with holder := none }
        (some { place := some at_ }, { s' with dram := s'.dram.write at_ (formatImage x ts) })
      else ((s.memberOf k).bind fun m => m.image, s1)
    let s3 := s2.modMember k.act k.member fun u =>
      { u with ctx := none, saved := some { ctx := k1, inTail := some c, fctx := img, home := c }, image := none, saving := false }
    { s3.modCore (coreOf c) fun q => { q with tail := q.tail.set (c % 8) (k.act, k.member) } with ctxs := s3.ctxs.erase c }

/-- A member may be saved now: its slot issued or in WAIT in it, no sequence running, its results and matrix commands complete, nothing held
back, and its core neither halted nor asked to halt (R73, R220, R318). -/
def State.quiet (s : State) (c : Nat) : Bool :=
  match s.ctxs.find? c with
  | none => true
  | some k =>
    !(k.inside s.clock) && k.vres.isEmpty && k.pend.isEmpty && k.pause.isNone && (!(s.heldFctx c k) || (s.fctxOf c).queue.isEmpty) &&
      bits (s.core (coreOf c)).dbgctl 0 4 == 0
def State.savable (s : State) (a : Nat) : Bool :=
  match s.acts.find? a with
  | some k => (k.members.any fun m => m.saving && m.ctx.isSome) && k.contexts.all s.quiet
  | none => false

/-- The whole gang is saved and queued (R73). -/
def execGangSave (act : Nat) (s : State) : Out :=
  match s.acts.find? act with
  | none => .next s
  | some k =>
    if s.savable act then
      let s1 := k.contexts.foldl (fun st c => st.saveMember k.p c) s
      .next (s1.modCluster k.cluster fun q => { q with queue := s1.sortQ (q.queue ++ [.saved act s.clock]) })
    else .next s

/-- A format context that a member held is loaded at its new core at once if it is free there, and otherwise before the member's first matrix
instruction (R259). -/
def State.loadRestored (s : State) (c : Nat) : State :=
  match s.ctxs.find? c with
  | some k => if (s.fctxOf c).holder.isNone && !s.frankBars c then s.loadImage c k else s
  | none => s
/-- A saved `park` whose event came goes on as soon as it is restored; every other wait is tested again then (R73). -/
def Saved.wait (v : Saved) (w : Option WaitFor) : Option WaitFor :=
  match w with
  | some (.park left) => some (.park (if v.woke then 1 else left))
  | w => w
/-- A saved gang resumes on other contexts, a member that waited still in WAIT (R73, R259). A claim may move a record to its place in the save
area; the member's own is read from wherever it lies then (R75). -/
def State.restore (s : State) (a : Nat) (ms cs : List Nat) : State :=
  let one (st : State) (x : Nat × Nat) : State :=
    let st1 := st.streamOut x.2
    match (st1.acts.find? a).bind fun q => (q.member? x.1).bind fun u => u.saved with
    | none => st1
    | some v =>
      let k := st1.savedCtx v
      ({ st1.modMember a x.1 (fun u => { u with ctx := some x.2, saved := none, image := v.fctx }) with
        ctxs := st1.ctxs.set x.2 { k with start := s.clock + 1, wait := v.wait k.wait } } : State).loadRestored x.2
  let gone := { s with cores := s.cores.mapVals fun _ q => { q with tail := q.tail.filter fun e => !(e.2.1 == a && ms.contains e.2.2) } }
  ((ms.zip cs).foldl one gone).modAct a fun q => { q with ranSince := s.clock, ranOn := q.ranOn ++ cs.filter fun c => !q.ranOn.contains c }

/-! ## The placer (R67, R71, R72) -/

/-- Whether an entry fits, and what it takes. -/
inductive Fit where
  | new (p slot : Nat) (w : Actor) (h : Held) (cs : List Nat) (base : Nat)
  | old (a : Nat) (ms cs : List Nat)
  deriving DecidableEq, Repr

/-- Members of a saved activation still to run. -/
def Act.savedMembers (k : Act) : List Nat := (k.members.zipIdx.filter fun m => m.1.saved.isSome).map Prod.snd

def State.fits (s : State) (cluster : Nat) (e : QEntry) : Option Fit :=
  match e with
  | .saved a _ =>
    match s.acts.find? a with
    | none => none
    | some k => (s.chooseCtxs cluster k.savedMembers.length).map fun cs => .old a k.savedMembers cs
  | .candidate p slot place _ =>
    match s.actor? p slot with
    | none => none
    | some w =>
      match w.box.find? fun h => h.place == place with
      | none => none
      | some h =>
        if !s.exclusiveOk p slot place cluster w.img h.exclusive then none
        else
          match s.chooseCtxs cluster w.img.g, s.fitArea cluster (w.areaFor h) with
          | some cs, some b => some (.new p slot w h cs b)
          | _, _ => none

def State.dropEntry (s : State) (cluster : Nat) (e : QEntry) : State :=
  s.modCluster cluster fun k => { k with queue := k.queue.filter fun x => !(x.same e), drain := none }
def State.takeFit (s : State) (cluster : Nat) (e : QEntry) (f : Fit) : State :=
  let s1 := s.dropEntry cluster e
  match f with
  | .new p slot w h cs b => (cs.foldl State.streamOut s1).placeNew p slot w h cs b
  | .old a ms cs => s1.restore a ms cs

/-- The quantum of the scheduling word, in cycles (R64, R358). -/
def Part.quantum (k : Part) : Nat :=
  let w := k.word 0x40
  1500 * max (max 1 (bits w 0 20)) (bits w 40 8 + 50)
/-- The quantum of one that began in a cycle: that of the last write before it, at first the reset value's (R64). -/
def Part.quantumAt (k : Part) (t : Nat) : Nat :=
  match k.quanta.find? fun q => q.1 < t with
  | some q => q.2
  | none => ({} : Part).quantum

/-- Victims of a cluster, greatest key first (R72). -/
def State.victims (s : State) (cluster : Nat) : List Nat :=
  let ok (a : Act) : Bool :=
    a.cluster == cluster && a.phase == .running && !(a.contexts.isEmpty) && a.ranSince + (s.part a.p).quantumAt a.ranSince ≤ s.clock &&
      a.members.all (fun m => !m.saving) && a.contexts.all fun c => !(s.core (coreOf c)).halted
  let vs := s.acts.filter fun a => ok a.2
  let ins (l : List (Nat × Act)) (v : Nat × Act) : List (Nat × Act) :=
    (l.filter fun x => letterKey v.2.letter < letterKey x.2.letter) ++ [v] ++ l.filter fun x => !(letterKey v.2.letter < letterKey x.2.letter)
  (vs.foldl ins []).map Prod.fst
/-- Pre-emption for the first entry of the queue (R72). -/
def State.preempt (s : State) (cluster : Nat) : State :=
  match (s.cluster cluster).queue.head? with
  | none => s
  | some e =>
    let (p, area) : Nat × Bool := match e with
      | .saved a _ => (((s.acts.find? a).map fun k => k.p).getD 0, true)
      | .candidate p slot place _ =>
        (p, match s.actor? p slot with
          | some w => match w.box.find? fun h => h.place == place with
            | some h => (s.fitArea cluster (w.areaFor h)).isSome && s.exclusiveOk p slot place cluster w.img h.exclusive
            | none => false
          | none => false)
    let k := s.part p
    let saving := s.acts.any fun a => a.2.cluster == cluster && a.2.members.any fun m => m.saving
    let vs := s.victims cluster
    let would := (vs.foldl (fun st a => st.freeContexts a) s).fits cluster e
    if (k.word 0x40).getLsbD 33 && area && e.since + k.quantumAt e.since ≤ s.clock && !saving && (s.fits cluster e).isNone && would.isSome then
      match vs with
      | v :: _ => s.modAct v fun a => { a with members := a.members.map fun m => if m.ctx.isSome then { m with saving := true } else m }
      | [] => s
    else s

/-- The placer's state word of a cluster (R71). -/
def State.clsched (s : State) (cluster : Nat) : Word :=
  let k := s.cluster cluster
  let busy := (s.ctxs.filter fun c => clusterOf c.1 == cluster).length
  let wait := match k.queue.head? with
    | some e => min ((s.clock - e.since) / 1500) 0xFFFFF
    | none => 0
  let saved := k.queue.any fun e => match e with
    | .saved _ _ => true
    | _ => false
  BitVec.ofNat 64 ((if k.drain.isSome then 1 else 0) + (if saved then 2 else 0) + 4 * min k.queue.length 1023 + 2 ^ 12 * wait + 2 ^ 32 * (128 - busy))

/-- One cycle of a cluster's placer. -/
def execPlace (cluster : Nat) (s : State) : Out :=
  let k := s.cluster cluster
  match k.drain with
  | some e =>
    match s.fits cluster e with
    | some f => .next (s.takeFit cluster e f)
    | none => .next s
  | none =>
    match k.queue.findSome? fun e => (s.fits cluster e).map fun f => (e, f) with
    | some (e, f) => .next ((s.takeFit cluster e f).preempt cluster)
    | none => .next (s.preempt cluster)

/-- Drain mode begins for the first entry, with its kind-7 record (R71, R359). -/
def execDrainEnter (cluster : Nat) (s : State) : Out :=
  let k := s.cluster cluster
  match k.drain, k.queue.head? with
  | none, some e =>
    if s.clock < e.since + 3000000 then .next s
    else
      let l : Option (Nat × Letter) := match e with
        | .saved a _ => (s.acts.find? a).map fun a => (a.p, a.letter)
        | .candidate p slot place _ => ((s.actor? p slot).bind fun w => w.box.find? fun h => h.place == place).map fun h => (p, h.letter)
      let s1 := s.setCluster cluster { k with drain := some e }
      match l with
      | some (p, l) => .next (s1.note p (mkRecord s.now 7 0 0 0 0 0 (BitVec.ofNat 64 cluster) l.postmark l.sender 0 0 0))
      | none => .next s1
  | _, _ => .next s

end Sys2Proof.Machine
end

