-- ==== Sys2Proof/Machine/Commit.lean ====
section
/-! DEFINITION. The keystone: readiness, commits and their outboxes, line commits of the host and of other devices, launch groups,
failed activations at their turn, the budget watchdog (R26, R36, R41 to R53, R105, R109 to R114, R120, R121, R241, R242, R248, R250, R256,
R348, R357, R360 to R362). -/

namespace Sys2Proof.Machine

/-! ## Turn and readiness (R44 to R46, R50, R109) -/

/-- The actors of an activation's domain. -/
def State.domainActors (s : State) (a : Act) : Tbl Actor :=
  (s.part a.p).actors.filter fun w => match a.img.commons with
    | some i => w.2.img.commons == some i
    | none => w.1 == a.slot
/-- A requeued letter stands before an activation: the actor may release it, and its aborted activation stood first, or in an ordered commons
its key does. -/
def State.standsBefore (s : State) (a : Act) (w : Nat × Actor) (h : Held) : Bool :=
  h.unreleased && s.inFlight a.p w.1 < w.2.limit && match h.requeued with
    | some o => if w.1 == a.slot then o < a.order else s.orderedDomain a && letterKey h.letter < s.commonsKey a
    | none => false
/-- An aborted activation's letter that will run again commits before those behind it (R44, R109, R337, R338). DESIGN CHOICE (log 17): not while an
exclusive letter of the domain waits, which waits for all of them. -/
def State.requeuedBefore (s : State) (a : Act) : Bool :=
  let ws := s.domainActors a
  ws.all (fun w => w.2.box.all fun h => !(h.unreleased && h.exclusive)) && ws.any fun w => w.2.box.any (s.standsBefore a w)
/-- The oldest uncommitted activation of its domain; in an unordered commons, of its actor. -/
def State.oldest (s : State) (n : Nat) (a : Act) : Bool :=
  (s.acts.all fun b => b.1 == n || !(sameDomain a b.2 && s.before b.2 a)) && !s.requeuedBefore a

/-- A line of a partition that a host or remote write may not touch now: locked, or read by an activation a group has locked. -/
def State.lineBusy (s : State) (p va pa : Nat) : Bool :=
  s.lockedLine 0 pa || s.acts.any fun a => a.2.p == p && a.2.phase == .locked && sigMeets a.2.rsig (sigSet 0 va)

def State.rangeBusy (s : State) (p va len : Nat) : Bool :=
  (pieces va len).any fun q => match s.walk p q.va with
    | .leaf l => s.lineBusy p q.va (l.addr + q.va % l.size)
    | _ => false

end Sys2Proof.Machine

namespace Sys2Proof

open Machine

def FabWork.range (w : FabWork) : Option (Nat × Nat) :=
  match w with
  | .write a d => some (a.toNat, d.length)
  | .red _ a d => some (a.toNat, d.length)
  | _ => none

end Sys2Proof

namespace Sys2Proof.Machine

def OutEntry.isPosted (o : OutEntry) : Bool :=
  match o with
  | .posted _ _ _ _ _ => true
  | _ => false

/-- Work an activation posts to its own device can be performed at once. -/
def State.postsFree (s : State) (a : Act) : Bool :=
  a.outbox.all fun o => match o with
    | .posted d _ _ _ (some w) => if d == s.device then match FabWork.range w with
        | some (va, n) => !s.rangeBusy a.p va n
        | none => true
      else true
    | _ => true

/-- Every member has retired, every atomic it sent has been performed, every engine is done, every reservation answered (R109). -/
def State.finished (s : State) (n : Nat) (a : Act) : Bool :=
  a.phase == .running && (s.part a.p).fatal.isNone && (a.members.all fun m => m.retired) && !s.engineBusy n && !(s.remote.any fun r => r.act == n) &&
    !(s.transit.any fun t => t.issuers.any fun i => i.1 == n)
/-- No activation that a group has locked posts to this device a line that one has read (R114, R121): its own group's aside, such a write
departs before the reader is locked. -/
def State.readsFree (s : State) (a : Act) : Bool :=
  s.acts.all fun b => b.2.phase != .locked || b.2.outbox.all fun o => match o with
    | .posted d _ _ _ (some w) => d != s.device || b.2.p != a.p || match FabWork.range w with
        | some (va, n) => (pieces va n).all fun q => !sigMeets a.rsig (sigSet 0 q.va)
        | none => true
    | _ => true
/-- No member of its domain is locked by a group (log 24). -/
def State.domainFree (s : State) (n : Nat) (a : Act) : Bool :=
  s.acts.all fun b => b.1 == n || b.2.phase != .locked || !sameDomain a b.2
/-- Posted work of an activation keeps to the order of commit points (R299): no group past its own still waits to depart. -/
def State.inTurn (s : State) (a : Act) : Bool := !(a.outbox.any OutEntry.isPosted) || s.parts.all fun k => k.2.closing.isEmpty
/-- Ready to commit (R109). -/
def State.ready (s : State) (n : Nat) (a : Act) : Bool :=
  s.finished n a && s.oldest n a && s.domainFree n a && s.postsFree a && s.inTurn a

/-! ## Steps 1 and 2 (R110, R112) -/

/-- No conflict reaches it any more: a group has locked it (R114), or it has failed and its turn has come (R348). -/
def Act.settled (a : Act) : Bool :=
  match a.phase with
  | .locked => true
  | .failed _ recorded => recorded
  | .running => false
/-- The activations a commit tests (R112). -/
def State.tested (s : State) (n : Nat) (a : Act) : List (Nat × Act) :=
  s.acts.filter fun b => b.1 != n && !b.2.settled && sameDomain a b.2 && (!(s.orderedDomain a) || s.before a b.2)

/-- A leaf recorded is valid now and does not differ in addr, attributes, owner or label, so that its address translates as before; the
entry may stand elsewhere. -/
def State.leafSame (s : State) (p va : Nat) (l : Leaf) : Bool :=
  match s.walk p va with
  | .leaf m => va % m.size == va % l.size && { m with size := l.size, entry := l.entry } == l
  | _ => false
def State.leavesSame (s : State) (a : Act) : Bool :=
  (a.lines.all fun e => s.leafSame a.p (e.1 * 64) e.2.leaf) && (a.pages.all fun g => s.leafSame a.p (g.1 * 65536) g.2.leaf) &&
    a.owners.all fun o => o.leaves.all fun x => s.leafSame a.p x.1 x.2
/-- The table errors the check finds (R373). -/
def State.noteLeaves (s : State) (a : Act) : State :=
  let vas := a.lines.map (fun e => e.1 * 64) ++ a.pages.map (fun g => g.1 * 65536) ++ a.owners.flatMap fun o => o.leaves.map Prod.fst
  vas.foldl (fun st va => st.noteWalk a.p 0 0 a.self a.letter.postmark va) s

/-- An entry of the keystone log (R414): actor, postmark, sender, the postmark clock at the commit point; a bit says later that its outbox has
departed whole (log 27). -/
def Act.logEntry (a : Act) : BitVec 512 :=
  BitVec.ofNat 512 (a.self.toNat + 2 ^ 64 * a.letter.postmark.toNat + 2 ^ 128 * a.letter.sender.toNat + 2 ^ 192 * (a.base % 2 ^ 64))
/-- An entry of the log whose outbox has departed whole, once none of its letters waits (R414). -/
def State.markDeparted (s : State) (p : Nat) (e : BitVec 512) : State :=
  if s.moving.any fun m => m.entry == e then s
  else s.modPart p fun k => { k with log := k.log.map fun x => if x = e then x ||| 2 ^ 256 else x }
/-- The entry of a line the host or another device writes, which commits alone (R120, R121): no actor and no letter (log 27). -/
def lineEntry (time : Nat) : BitVec 512 := BitVec.ofNat 512 (2 ^ 192 * (time % 2 ^ 64) + 2 ^ 256)
/-- An entry is put at the end of the last 4,096. -/
def Part.enterLog (k : Part) (e : BitVec 512) : Part := { k with log := (k.log ++ [e]).drop (k.log.length + 1 - 4096) }

/-- Clean commits restore the speculation depth (R66). -/
def Actor.countCommit (w : Actor) (specMax : Nat) : Actor :=
  if w.commits + 1 = 16 then { w with commits := 0, depth := min specMax (w.depth + 1) } else { w with commits := w.commits + 1 }

/-- Every tested activation whose read signature meets the write signature aborts (R44, R66, R112). -/
def State.checkConflicts (s : State) (n : Nat) (a : Act) : State :=
  let hit := (s.tested n a).filter fun b => sigMeets b.2.rsig a.wsig
  (hit.foldl (fun st b => st.abortAct b.1 { conflict := true }) s).modAct n fun k =>
    { k with clean := k.clean && !(hit.any fun b => b.2.p == a.p && b.2.slot == a.slot) }

/-! ## Step 4 (R110) -/

/-- The bytes of line entries, the flips of scaffold pages, whose old frames return to the pool, and the owner changes of parcelled tiles:
the slot of the destination, or the system actor's once it has exited (R36, R363). -/
def State.applyAct (s : State) (n : Nat) (a : Act) : State :=
  let line (m : Mem) (e : Nat × LineEntry) : Mem := e.2.bytes.foldl (fun m b => m.set (e.2.pa + b.1) b.2) m
  let whole (t : Tbl Byte) (base : Nat) : Bool := (List.range 64).all fun i => (t.find? (base + i)).isSome
  let fresh := (a.lines.filter fun e => whole e.2.bytes 0).map fun e => e.2.pa / 64
  let pages := a.pages.flatMap fun g =>
    ((List.range 1024).filter fun i => whole g.2.written (64 * i)).map fun i => g.2.frame / 64 + i
  let s1 := { s with
    dram := a.lines.foldl line s.dram
    poison := s.poison.filter fun n => !(fresh.contains n || pages.contains n) }
  let flip (st : State) (g : Nat × ScaffPage) : State :=
    let at_ := match st.walk a.p (g.1 * 65536) with
      | .leaf l => l.entry
      | _ => g.2.leaf.entry
    let d0 := setBits (st.dram.word at_) 9 39 (g.2.frame / 512)
    let st1 := { st with dram := st.dram.setNum at_ 8 d0.toNat }.modPart a.p fun k =>
      { (k.flipFrame g.2.leaf.addr g.2.frame) with poolBack := k.poolBack ++ [g.2.leaf.addr] }
    st1.dropTlb a.p (g.1 * 65536) 65536
  let own (st : State) (o : OwnerChange) : State :=
    st.ownTile a.p a.cluster (if (st.living a.p o.dest).isSome then pcSlot o.dest else 0xFFFF) o.tile
  (a.owners.foldl own (a.pages.foldl flip s1)).modAct n fun k => { k with lines := [], pages := [], owners := [] }

/-! ## Line commits of the host and of other devices (R120, R121, R289, R400) -/

/-- A write to one line from outside commits alone (R120): the activations of the partition whose read signature meets it abort, the log
takes an entry, the bytes are written. A line that a locked activation has read waits (lineBusy), but for a write its own group posts, which
commits with it (R114). -/
def State.lineWrite (s : State) (p va pa : Nat) (bs : List Byte) : State :=
  let hit := s.acts.filter fun a => a.2.p == p && !a.2.settled && sigMeets a.2.rsig (sigSet 0 va)
  let s1 := (hit.foldl (fun st a => st.abortAct a.1 {}) s).modPart p fun k => k.enterLog (lineEntry s.now)
  { s1 with
    dram := s1.dram.write pa bs
    poison := if bs.length = 64 then s1.poison.filter fun n => n != pa / 64 else s1.poison }

/-- One element of a reduction (R241). -/
def redElem (op : Nat) (d s : Nat) : Nat :=
  let sg (x : Nat) : Int := toSigned 32 x
  match op with
  | 0 => (d + s) % 2 ^ 32
  | 1 => (fadd (BitVec.ofNat 32 d) (BitVec.ofNat 32 s)).1.toNat
  | 2 => if sg d ≤ sg s then d else s
  | 3 => if sg d ≤ sg s then s else d
  | 4 => (fmin (BitVec.ofNat 32 d) (BitVec.ofNat 32 s)).1.toNat
  | _ => (fmax (BitVec.ofNat 32 d) (BitVec.ofNat 32 s)).1.toNat
/-- The 4-byte elements of a line reduced. -/
def redBytes (op : Nat) (old new : List Byte) : List Byte :=
  ((List.range (new.length / 4)).map fun i =>
    bytesOf 4 (redElem op (numOf ((old.drop (4 * i)).take 4)) (numOf ((new.drop (4 * i)).take 4)))).flatten

/-- The condition a line of a remote write meets (R400): its physical address, or the cause. -/
def State.remoteLine (s : State) (p va : Nat) (poster : Nat) : Except Nat Nat :=
  if 2 ^ 52 ≤ va then .error cNonCanonical
  else
    match s.walk p va with
    | .leaf l =>
      let pa := l.addr + va % l.size
      if !s.posterOwns p poster l pa then .error cNotPresent
      else if l.cow || !l.w || l.atomic then .error cWriteProtect
      else .ok pa
    | _ => .error cNotPresent

/-- Lines of posted work in address order: those before a failing line stand (R400). Answers the cause and the bytes lost. The poster is an
actor and its letter's postmark. -/
def State.remoteLines (s : State) (p : Nat) (poster postmark : Word) (op : Option Nat) (ps : List Piece) (bs : List Byte) :
    Option (Nat × Nat) × State :=
  match ps with
  | [] => (none, s)
  | q :: r =>
    match s.remoteLine p q.va (pcSlot poster) with
    | .error c => (some (c, bs.length), s.noteWalk p 0 4 poster postmark q.va)
    | .ok pa =>
      let new := bs.take q.n
      let data := match op with
        | some o => redBytes o (s.dram.read pa q.n) new
        | none => new
      (s.lineWrite p q.va pa data).remoteLines p poster postmark op r (bs.drop q.n)

/-- A signal adds to a word of an atomic-class page (R242, R400). -/
def State.signal (s : State) (p : Nat) (poster postmark : Word) (va : Nat) (v : Word) : Option (Nat × Nat) × State :=
  if 2 ^ 52 ≤ va then (some (cNonCanonical, 8), s)
  else
    match s.walk p va with
    | .leaf l =>
      let pa := l.addr + va % l.size
      if !s.posterOwns p (pcSlot poster) l pa then (some (cNotPresent, 8), s)
      else if !l.atomic then (some (cWriteProtect, 8), s)
      else (none, { s with dram := s.dram.setNum pa 8 ((s.dram.num pa 8 + v.toNat) % 2 ^ 64) })
    | _ => (some (cNotPresent, 8), s.noteWalk p 0 4 poster postmark va)

/-- The work of a posted command left after its first n bytes. -/
def workRest (w : FabWork) (n : Nat) : FabWork :=
  match w with
  | .write a d => .write (a + BitVec.ofNat 64 n) (d.drop n)
  | .red op a d => .red op (a + BitVec.ofNat 64 n) (d.drop n)
  | w => w
/-- What becomes of posted work at its target: its first line, or all of it, is performed; it is refused, with the cause and the bytes not
performed; or it waits for a line that a commit holds. -/
inductive LineDone where
  | more (w : FabWork) (s : State)
  | done (s : State)
  | refused (cause lost : Nat) (s : State)
  | locked
/-- The first line of a remote write or reduction commits alone (R121, R400). -/
def State.firstLine (s : State) (p : Nat) (poster postmark : Word) (op : Option Nat) (a : Nat) (d : List Byte) (w : FabWork) : LineDone :=
  match pieces a d.length with
  | [] => .done s
  | q :: r =>
    if s.rangeBusy p q.va q.n then .locked
    else
      match s.remoteLines p poster postmark op [q] d with
      | (some (cause, _), s1) => .refused cause d.length s1
      | (none, s1) => if r.isEmpty then .done s1 else .more (workRest w q.n) s1
/-- Posted work of another device, one line at a time (R121). -/
def State.performLine (s : State) (p : Nat) (poster postmark : Word) (w : FabWork) : LineDone :=
  if (s.part p).state != .ready then
    let lost := match FabWork.range w with
      | some (_, n) => n
      | none => 8
    .refused cNotPresent lost s
  else
    match w with
    | .write a d => s.firstLine p poster postmark none a.toNat d w
    | .red op a d => s.firstLine p poster postmark (some op.toNat) a.toNat d w
    | .signal a v =>
      match s.signal p poster postmark a.toNat v with
      | (some (cause, lost), s1) => .refused cause lost s1
      | (none, s1) => .done s1
    | _ => .done s

/-- Posted work performed at a target partition: the cause and the bytes not performed, if it is refused. -/
def State.perform (s : State) (p : Nat) (poster postmark : Word) (w : FabWork) : Option (Nat × Nat) × State :=
  if (s.part p).state != .ready then (some (cNotPresent, match FabWork.range w with
      | some (_, n) => n
      | none => 8), s)
  else
    match w with
    | .write a d => s.remoteLines p poster postmark none (pieces a.toNat d.length) d
    | .red op a d => s.remoteLines p poster postmark (some op.toNat) (pieces a.toNat d.length) d
    | .signal a v => s.signal p poster postmark a.toNat v
    | _ => (none, s)

/-- A kind-32 record (R404). -/
def State.notePosted (s : State) (p : Nat) (poster postmark : Word) (w : FabWork) (device fn cause lost : Nat) : State :=
  let addr := match w with
    | .write a _ => a
    | .red _ a _ => a
    | .signal a _ => a
    | _ => 0
  s.note p (mkRecord s.now 32 cause 0 0 0 0 poster postmark addr (BitVec.ofNat 64 (device + 2 ^ 16 * fn)) (BitVec.ofNat 64 lost) 0)

end Sys2Proof.Machine

namespace Sys2Proof

open Machine

def FabWork.bytes (w : FabWork) : Nat :=
  match w with
  | .write _ d => d.length
  | .red _ _ d => d.length
  | .signal _ _ => 8
  | _ => 0

end Sys2Proof

namespace Sys2Proof.Machine

/-- The items of a posted command: up to 4,096 bytes, within a 4 KiB boundary of the remote address (R299). -/
def splitWork (mk : Word → List Byte → FabWork) (a : Word) (d : List Byte) (fuel : Nat) : List FabWork :=
  match fuel with
  | 0 => []
  | n + 1 =>
    if d.isEmpty then []
    else
      let k := 4096 - a.toNat % 4096
      mk a (d.take k) :: splitWork mk (a + BitVec.ofNat 64 k) (d.drop k) n

end Sys2Proof.Machine

namespace Sys2Proof

open Machine

def FabWork.items (w : FabWork) : List FabWork :=
  match w with
  | .write a d => splitWork .write a d (d.length / 4096 + 2)
  | .red op a d => splitWork (.red op) a d (d.length / 4096 + 2)
  | w => [w]

end Sys2Proof

namespace Sys2Proof.Machine

/-- Posted work departs (R240, R299, R397). -/
def State.departWork (s : State) (a : Act) (device : Nat) (rlx : Bool) (fn : Nat) (w : FabWork) : State :=
  if device == s.device then
    match s.perform a.p a.self a.letter.postmark w with
    | (none, s1) => s1
    | (some (cause, lost), s1) => s1.notePosted a.p a.self a.letter.postmark w device (0x7400 + fn) cause lost
  else if s.lostmask.getLsbD device then s.notePosted a.p a.self a.letter.postmark w device (0x7400 + fn) 0 (FabWork.bytes w)
  else
    let (n, s1) := s.fresh
    (FabWork.items w).foldl (fun st i => st.enqueue device a.p rlx a.self a.letter.postmark (BitVec.ofNat 8 fn) (FabWork.bytes i) i (n + 1)) s1

/-! ## Step 5 (R36, R52 to R58, R110, R248, R250, R256) -/

/-- What is left of a tile an actor holds once another has been parcelled on: the parts before and behind it. -/
def tileWithout (q t : Parcel) : List Parcel :=
  let (a, b) := (q.base.toNat, q.base.toNat + q.len)
  let (c, d) := (t.base.toNat, t.base.toNat + t.len)
  if b ≤ c || d ≤ a then [q]
  else (if a < c then [{ q with len := c - a }] else []) ++ (if d < b then [{ q with base := BitVec.ofNat 64 d, len := b - d }] else [])
/-- The tile of a PARCEL letter changes hands at commit: the owner tags of a scratchpad tile become the destination's slot, or the system
actor's (R36, R363); those of a global tile have at step 4. The letter says where the tile lies, and whether the courier has still to copy it
to another cluster. -/
def State.handTile (s : State) (a : Act) (l : Letter) : Letter × State × Bool :=
  let t := l.parcel
  if l.kind != 1 then (l, s, false)
  else
    match s.living a.p l.dest with
    | none => (l.setNewbase 0, if t.place = 0 then s.ownTile a.p a.cluster 0xFFFF t else s, false)
    | some w =>
      let slot := pcSlot l.dest
      let s1 := if t.place = 0 then s.ownTile a.p a.cluster slot t else s
      let s2 := if t.place = 2 then (s1.modActor a.p a.slot fun w =>
          { w with tiles := w.tiles.flatMap fun q => tileWithout q t }).modActor a.p slot fun w => { w with tiles := w.tiles ++ [t] } else s1
      (l.setNewbase t.base, s2, t.place == 0 && w.cluster != a.cluster)

/-- The courier copies a scratchpad tile to the cluster of the letter's destination and frees the source, once there is room (R36). -/
def State.moveTile (s : State) (p cluster : Nat) (l : Letter) : Option (Letter × State) :=
  let t := l.parcel
  match s.living p l.dest with
  | none => some (l.setNewbase 0, s.ownTile p cluster 0xFFFF t)
  | some w =>
    (s.fitArea w.cluster ((t.len + 4095) / 4096 * 4096)).map fun b =>
      let bs := s.scratch.read (scratchKey cluster (t.base.toNat % 2 ^ 56)) t.len
      let base : Word := BitVec.ofNat 64 (0xFD00000000000000 + b)
      let from_ := t.base.toNat % 2 ^ 56 / 64
      let bad := (s.cluster cluster).poison.filter fun l => from_ ≤ l && l < from_ + t.len / 64
      let s0 := (s.cleanScratch w.cluster b t.len).modCluster w.cluster fun k => { k with poison := k.poison ++ bad.map fun l => l - from_ + b / 64 }
      let s1 := { s0 with scratch := s0.scratch.write (scratchKey w.cluster b) bs }
      (l.setNewbase base, (s1.ownTile p cluster 0xFFFF t).ownTile p w.cluster (pcSlot l.dest) { t with base := base })

/-- A letter of the same sender to the same mailbox still waits at the cluster. -/
def Moving.holds (m : Moving) (l : Letter) : Bool := m.letter.sender == l.sender && m.letter.dest == l.dest
/-- The letters that wait go on, in order, those with a tile once it has been copied; none of a fatal partition departs (R406). -/
def State.moveLetters (s : State) : State :=
  let one (st : State) (m : Moving) : State :=
    let p := pcPart m.letter.dest
    if (st.moving.find? fun x => x.holds m.letter) != some m || (st.part p).fatal.isSome then st
    else
      let go (l : Letter) (st : State) : State :=
        ({ st with moving := st.moving.erase m }.sendToken l m.token).markDeparted (pcPart l.sender) m.entry
      if m.tile then match st.moveTile p m.cluster m.letter with
        | some (l, st1) => go l st1
        | none => st
      else go m.letter st
  s.moving.foldl one s
/-- A letter of an outbox departs, behind those of its sender that wait for room (log 23). -/
def State.departLetter (s : State) (a : Act) (l : Letter) : State :=
  let (l1, s1, tile) := s.handTile a l
  let m : Moving := { entry := a.logEntry, cluster := a.cluster, letter := l1, token := a.token, tile := tile }
  if tile || s1.moving.any (fun m => m.holds l1) then { s1 with moving := s1.moving ++ [m] }.moveLetters
  else s1.sendToken l1 a.token

/-- A dead letter of an action bound for a lost device (R397). -/
def State.deadAction (s : State) (p : Nat) (self target postmark : Word) : State :=
  s.note p (mkRecord s.now 3 0 6 0 0 0 target postmark self 0 0 0)

/-- A spawn takes effect (R52, R53, R57, R58, R397). DESIGN CHOICE (log 103): where the child list is full and the image or commons is missing
too, the reason is CAPACITY. -/
def State.departSpawn (s : State) (a : Act) (child : Word) (img : Nat) (sup : Option RestartMode) : State :=
  let d := pcDevice child
  let here := d == s.device
  let full := sup.isSome && ((s.living a.p a.self).any fun w => 256 ≤ w.children.length)
  let dropSlot (st : State) : State :=
    if here then st.modPart a.p fun k => { k with reserved := k.reserved.erase (pcSlot child) }
    else if st.lostmask.getLsbD d then st
    else st.enqueue d a.p false a.self a.letter.postmark 0 64 (.remote (.release child))
  let list (st : State) : State :=
    match sup with
    | some m => st.modActor a.p a.slot fun w => { w with children := w.children ++ [{ code := child, img := img, mode := m }] }
    | none => st
  let parent := sup.map fun _ => a.self
  let die := dieOfCluster a.cluster
  if full then (dropSlot s).exitLetter die a.self child { reason := 9 }
  else if here then
    match s.birth a.p img child none parent with
    | .ok s1 => list s1
    | .error r => (dropSlot s).exitLetter die a.self child { reason := r }
  else if s.lostmask.getLsbD d then (s.deadAction a.p a.self child a.letter.postmark).exitLetter die a.self child { reason := 5 }
  else list (s.enqueue d a.p false a.self a.letter.postmark 0 64 (.remote (.bear child img a.self sup)))

/-- A `link` or `mon` takes effect, here or on another device (R54, R56, R57, R397). DESIGN CHOICE (log 87): the issuer's own entry of a link
to another device is made at commit, before that device has judged whether the named actor exists, and goes when it refuses. -/
def State.departLink (s : State) (a : Act) (t : Word) (isLink : Bool) : State :=
  let d := pcDevice t
  if d == s.device then
    match s.enterLink a.p a.self t isLink true with
    | .ok s1 => s1
    | .error r => s.refuseLink a.p a.self t r isLink
  else if s.lostmask.getLsbD d then (s.deadAction a.p a.self t a.letter.postmark).refuseLink a.p a.self t 5 isLink
  else
    let full := isLink && (s.living a.p a.self).any fun w => !w.links.contains t && tableFull ≤ w.links.length
    if full then s.refuseLink a.p a.self t 9 isLink
    else
      let s1 := s.modActor a.p a.slot fun w =>
        if isLink then { w with links := addOnce w.links t } else { w with watches := addOnce w.watches t }
      s1.enqueue d a.p false a.self a.letter.postmark 0 64 (.remote (if isLink then .link a.self t else .mon a.self t))
def State.departUnlink (s : State) (a : Act) (t : Word) (isLink : Bool) : State :=
  let d := pcDevice t
  let s1 := if isLink then s.dropLink a.p a.self t true else s.modActor a.p a.slot fun w => { w with watches := w.watches.filter fun c => c != t }
  if d == s.device then s1.dropLink a.p t a.self isLink
  else if s.lostmask.getLsbD d then s1
  else s1.enqueue d a.p false a.self a.letter.postmark 0 64 (.remote (if isLink then .unlink a.self t else .demon a.self t))

/-- Fetched instructions and translations go, on every cluster of the partition (R256). -/
def State.invalidate (s : State) (p : Nat) (a : Word) (all code : Bool) : State :=
  let k := s.part p
  let one (q : Cluster) : Cluster :=
    if code then { q with icache := if all then [] else q.icache.erase (a.toNat / 64) }
    else { q with tlb := if all then [] else q.tlb.filter fun e => !(e.va ≤ a.toNat && a.toNat < e.va + e.leaf.size) }
  { s with clusters := s.clusters.mapVals fun c q => if k.holdsCluster c then one q else q }

/-- One entry of the outbox acts; `base` is the stamp of letter 0, `i` the index of the next letter (R26). -/
def State.depart (s : State) (a : Act) (base : Nat) (o : OutEntry) (i : Nat) : State :=
  match o with
  | .letter l stamp =>
    s.departLetter a (if stamp then { l with postmark := BitVec.ofNat 64 (base + i) } else l)
  | .spawn child img sup void _ => if void then s else s.departSpawn a child img sup
  | .link t => s.departLink a t true
  | .unlink t => s.departUnlink a t true
  | .mon t => s.departLink a t false
  | .demon t => s.departUnlink a t false
  | .exit _ => s
  | .kill t => if t = a.self then s else s.sendKill a.p t a.self false
  | .exitmail v => s.modActor a.p a.slot fun w => { w with exitMail := v }
  | .icinv w all => s.invalidate a.p w all true
  | .tlbinv w all => s.invalidate a.p w all false
  | .posted d rlx fn _ (some w) => s.departWork a d rlx fn.toNat w
  | .posted _ _ _ _ none => s
def State.departAll (s : State) (a : Act) (base : Nat) (os : List OutEntry) (i : Nat) : State :=
  match os with
  | [] => s
  | o :: r => (s.depart a base o i).departAll a base r (if o.isLetter then i + 1 else i)
/-- The end an activation asked for: the first `exit` or kill of its own actor (R250). -/
def OutEntry.ends (self : Word) (o : OutEntry) : Option ExitRec :=
  match o with
  | .exit r => some { reason := r.toNat }
  | .kill t => if t = self then some { reason := 1, origin := self } else none
  | _ => none

/-- A `kill` by a supervisor's own activation of its child goes with its own name; the entry order is kept. -/
def Act.ending (a : Act) : Option ExitRec := a.outbox.findSome? (OutEntry.ends a.self)

/-- Values the stamps of an outbox take (R26). -/
def stampsOf (os : List OutEntry) : Nat :=
  let ls := os.filter OutEntry.isLetter
  (ls.zipIdx.foldl (fun n x => match x.1 with
    | .letter _ true => x.2 + 1
    | _ => n) 0)

/-- Step 3 (R110): the commit point. The commit enters the log, the stamps of its outbox are taken, and the actor's count of commits goes on
(R26, R66), but for a commit whose own check aborted an activation of the actor, from which the count restarts (R338). -/
def State.commitPoint (s : State) (n : Nat) (a : Act) : State :=
  let base := s.now + s.stamps
  let took := stampsOf a.outbox
  let s0 := { s with
    stamps := s.stamps + took
    turn := if took = 0 then s.turn else max s.turn (Stamper.keystone.turn (dieOfCluster a.cluster)) }
  let s1 := (s0.modAct n fun k => { k with base := base }).modPart a.p fun k => k.enterLog { a with base := base }.logEntry
  let clean := (s.acts.find? n).any fun k => k.clean
  (s1.modActor a.p a.slot fun w => if clean then w.countCommit (s.part a.p).specMax else w).trace a.p 3 0 a.letter.postmark a.slot (a.ranOn.head?.getD 0) 0 false

/-- Step 5 (R110): the outbox acts, the areas and the mailbox place are freed, and an actor that asked for it exits. -/
def State.departAct (s : State) (n : Nat) : State :=
  match s.acts.find? n with
  | none => s
  | some a =>
    let s1 := { s with
      acts := s.acts.erase n
      stale := s.stale.filter fun e => e.act != n
      releases := s.releases.filter fun e => e.act != n
      served := s.served.filter fun e => !(e.2.1 == a.p && e.2.2.1 == a.slot && e.2.2.2 == a.place) }
    let s2 := s1.modActor a.p a.slot fun w => { w with lastToken := a.token, lastCommit := s.clock }
    let s3 := ((s2.freeTiles a.p a.cluster a.owns).departAll a a.base a.outbox 0).markDeparted a.p a.logEntry
    let s4 := s3.dropHeld a.p a.slot a.place
    match a.ending with
    | some e => s4.exitActor a.p a.slot e none
    | none => s4

/-- Steps 3 to 5 of a commit (R110). -/
def State.finish (s : State) (n : Nat) (a : Act) : State := ((s.commitPoint n a).applyAct n a).departAct n

/-- The keystone commits a ready activation (R110). -/
def execActivationCommit (act : Nat) (s : State) : Out :=
  match s.acts.find? act with
  | none => .next s
  | some a =>
    if a.letter.inGroup || !s.ready act a then .next s
    else
      let s0 := s.unackCheck act
      match s0.acts.find? act with
      | none => .next s0
      | some a =>
        if a.phase != .running then .next s0
        else
          let s1 := s0.checkConflicts act a
          if s1.leavesSame a then .next (s1.finish act a) else .next ((s1.noteLeaves a).abortAct act {})

/-! ## Launch groups (R48 to R51, R114, R361) -/

/-- The activation of a group letter, if it is placed. -/
def State.groupAct (s : State) (p : Nat) (q : GroupLetter) : Option (Nat × Act) :=
  (s.acts.filter fun a => a.2.p == p && a.2.slot == q.slot && a.2.place == q.place).head?
/-- The activations of a group whose members are all placed. -/
def State.groupActs (s : State) (p : Nat) (g : Group) : Option (List (Nat × Act)) :=
  if g.joined.length < g.gsize then none else g.joined.mapM (s.groupAct p)
/-- Every member of a group is ready (R50, R114). -/
def State.groupReady (s : State) (p : Nat) (g : Group) : Bool :=
  match s.groupActs p g with
  | some as => as.all fun a => s.ready a.1 a.2 && s.readsFree a.2
  | none => false

/-- Members in ascending number of the die of their keystone (R26). -/
def byDie (as : List (Nat × Act)) : List (Nat × Act) :=
  (List.range 4).flatMap fun d => as.filter fun a => dieOfCluster a.2.cluster == d

/-- Phase 2a: lock and check at every keystone (R114). A member that another's check or a changed page aborts is requeued alone, and the
group stays open (R50). -/
def execGroupPrepare (p gid : Nat) (s : State) : Out :=
  match (s.part p).groups.find? gid with
  | none => .next s
  | some g =>
    if g.locked || g.withdrawn || !s.groupReady p g then .next s
    else
      match s.groupActs p g with
      | none => .next s
      | some as =>
        let s0 := as.foldl (fun st a => st.unackCheck a.1) s
        if as.any fun a => ((s0.acts.find? a.1).map fun k => k.phase) != some .running then .next s0
        else
          let s1 := as.foldl (fun st a => if (st.acts.find? a.1).isSome then st.checkConflicts a.1 a.2 else st) s0
          let bad := as.filter fun a => (s1.acts.find? a.1).isNone || !s1.leavesSame a.2
          if bad.isEmpty then
            let s2 := as.foldl (fun st a => st.modAct a.1 fun k => { k with phase := .locked }) s1
            .next ((s2.modPart p fun k => { k with groups := k.groups.modify gid fun g => { g with locked := true } }).postWithin 500000
              (.groupCommitPoint p gid))
          else .next (bad.foldl (fun st a => (st.noteLeaves a.2).abortAct a.1 {}) s1)

/-- Phase 2b: the group's single commit point (R114). It closes the group: its gid is free again (R48, R49). A group that is past its own and
not yet applied goes first, so that outboxes depart in the order of commit points (R299). -/
def execGroupCommitPoint (p gid : Nat) (s : State) : Out :=
  match (s.part p).groups.find? gid with
  | none => .next s
  | some g =>
    if !g.locked || g.withdrawn then .next s
    else if s.parts.any fun k => !k.2.closing.isEmpty then .next (s.postAt 1 (.groupCommitPoint p gid))
    else
      match s.groupActs p g with
      | none => .next s
      | some as =>
        let s1 := s.modPart p fun k =>
          { k with groups := k.groups.erase gid, closing := k.closing.set gid { g with committed := true } }
        .next (((byDie as).foldl (fun st a => st.commitPoint a.1 a.2) s1).postWithin 500000 (.groupApply p gid))

/-- Phase 2c: every keystone performs step 4, and then step 5 (R110, R114), in ascending die order. -/
def execGroupApply (p gid : Nat) (s : State) : Out :=
  match (s.part p).closing.find? gid with
  | none => .next s
  | some g =>
    match s.groupActs p g with
    | none => .next s
    | some as =>
      let s1 := s.modPart p fun k => { k with closing := k.closing.erase gid }
      let s2 := (byDie as).foldl (fun st a => st.applyAct a.1 a.2) s1
      .next ((byDie as).foldl (fun st a => st.departAct a.1) s2)

/-- A withdrawal reaches the coordinator (R361): before 2b the group has no commit point any more and the kill, which abandons it, goes on;
after it the kill waits. -/
def execGroupWithdrawal (p gid : Nat) (target : Word) (why : KillWhy) (s : State) : Out :=
  match (s.part p).groups.find? gid with
  | none => .next (s.postAt 1 (.killPoint p target why))
  | some _ =>
    .next ((s.modPart p fun k => { k with groups := k.groups.modify gid fun g => { g with withdrawn := true } }).post (.killPoint p target why))

/-! ### Groups that wait for each other (R51) -/

/-- A member's place in a domain: its activation in flight, or its letter held. -/
structure Standing where
  letter : GroupLetter
  act : Option (Nat × Act)
  key : Nat
  img : Image
  deriving DecidableEq, Repr
def State.standings (s : State) (p : Nat) (g : Group) : List Standing :=
  g.joined.filterMap fun q =>
    match s.actor? p q.slot with
    | none => none
    | some w => (w.box.find? fun h => h.place == q.place).map fun h => ⟨q, s.groupAct p q, letterKey h.letter, w.img⟩
/-- Members share a domain (R45), and one stands ahead of the other (R51). -/
def Standing.shares (x y : Standing) : Bool :=
  match x.img.commons, y.img.commons with
  | some i, some j => i == j
  | none, none => x.letter.slot == y.letter.slot
  | _, _ => false
def State.ahead (s : State) (x y : Standing) : Bool :=
  x.shares y &&
  match x.act, y.act with
  | some a, some b => s.before a.2 b.2
  | some _, none => true
  | none, some _ => false
  | none, none => x.key < y.key
def groupKey (g : Group) : Nat := g.postmark.toNat * 2 ^ 64 + g.sender.toNat
/-- The greater of two groups that stand ahead of each other yields: its members in flight that stand ahead abort, and their letters are
requeued behind the lesser keys held (R44). DESIGN CHOICE (log 98): of two groups of one key, but of different gid, the one of lesser gid
yields. -/
def State.yieldPair (s : State) (p : Nat) (x y : Group) : State :=
  let (lo, hi) := if groupKey x < groupKey y then (x, y) else (y, x)
  let (ls, hs) := (s.standings p lo, s.standings p hi)
  let front := hs.filter fun h => ls.any fun l => s.ahead h l
  if lo.locked || hi.locked || front.isEmpty || !(ls.any fun l => hs.any fun h => s.ahead l h) then s
  else front.foldl (fun st h =>
    match h.act with
    | some a => st.abortAct a.1 { passed := true }
    | none => st) s
/-- Every pair of open groups of every partition. -/
def State.yieldGroups (s : State) : State :=
  s.parts.foldl (fun st k =>
    let gs := if k.2.fatal.isSome then [] else k.2.groups.map Prod.fst
    gs.foldl (fun st i => gs.foldl (fun st j =>
      if i < j then
        match (st.part k.1).groups.find? i, (st.part k.1).groups.find? j with
        | some x, some y => st.yieldPair k.1 x y
        | _, _ => st
      else st) st) st) s

/-! ## Failures at their turn (R344, R348, R357, R362) -/

/-- Causes that name an address. -/
def isAddrCause (c : Nat) : Bool := c == 5 || c == 6 || c == 7 || c == 8 || c == 0xD || c == 0x31
/-- The exit a failure makes (R364). -/
def Failure.exit (f : Failure) (postmark : Word) : ExitRec :=
  let c := f.cause.toNat
  let timeout := c == cBudget
  { reason := if timeout then 4 else 2, cause := c, info := if timeout then 0 else f.info.toNat, pc := f.epc, postmark := postmark
    badaddr := if !timeout && (isAddrCause c || f.flags.getLsbD 2) then f.badaddr else 0 }

/-- The letter of a failed activation goes with it and leaves no record of its own (R348); a group's letters are the group's (R362). -/
def State.consume (s : State) (n : Nat) (a : Act) : State :=
  if !a.letter.inGroup then
    ((s.removeAct n).freeTiles a.p a.cluster a.owns).modActor a.p a.slot fun w => { w with box := w.box.filter fun h => h.place != a.place }
  else s

/-- A failed activation's turn has come: its record, then its actor's exit. -/
def execActivationFail (act : Nat) (s : State) : Out :=
  match s.acts.find? act with
  | none => .next s
  | some a =>
    match a.phase with
    | .failed f recorded =>
      let exit (st : State) : State := (st.consume act a).exitActor a.p a.slot (f.exit a.letter.postmark) none
      if recorded then .next (exit s)
      else if !s.oldest act a then .next s
      else
        let r := mkRecord s.now 1 f.cause.toNat f.info.toNat f.ctx.toNat f.flags.toNat 0 a.self a.letter.postmark f.epc f.enpc f.badaddr f.progress
        let (s1, ok) := s.record a.p r none [.activationFail act]
        if ok then .next (exit s1) else .next (s1.modAct act fun k => { k with phase := .failed f true })
    | _ => .next s

/-! ## The budget watchdog (R360) -/

/-- A member as its budget finds it: one that waits has issued its wait, so the instruction after it is the one it would issue next (R360). -/
def Ctx.stand (k : Ctx) : Ctx := if k.wait.isSome then { k.advance with wait := none } else k

/-- The trap of a member that the budget reaches: its saved registers and its trace record (R320, R360). -/
def State.budgetTrap (s : State) (a : Act) (c : Nat) : State :=
  match s.ctxs.find? c with
  | none => s
  | some k =>
    let v := k.stand.take { code := cBudget }
    (s.modCtx c fun _ => v).trace a.p 5 v.epc a.letter.postmark a.slot c cBudget false

/-- The failure the budget makes of an activation: the lowest member that still holds a context gives its record, a saved one where none does. -/
def State.budgetFailure (s : State) (a : Act) : Failure :=
  match a.members.findSome? fun m => m.ctx.bind fun c => (s.ctxs.find? c).map fun k => (c, k) with
  | some (c, k) => (k.stand.take { code := cBudget }).failure c
  | none =>
    match a.members.findSome? fun m => m.saved with
    | some v => (v.ctx.stand.take { code := cBudget }).failure (v.inTail.getD 0)
    | none => { cause := BitVec.ofNat 8 cBudget, info := 0, ctx := 0, flags := 0, epc := 0, enpc := 0, badaddr := 0, progress := 0 }

/-- The budget is used up: every member still holding a context traps, and the lowest gives the record. -/
def execBudgetExpiry (act : Nat) (s : State) : Out :=
  match s.acts.find? act with
  | none => .next s
  | some a =>
    if a.phase != .running then .next s
    else .next (((a.members.filterMap fun m => m.ctx).foldl (fun st c => st.budgetTrap a c) s).failAct act (s.budgetFailure a))

end Sys2Proof.Machine
end

