-- ==== Sys2Proof/Machine/Supervision.lean ====
section
/-! DEFINITION. The restart engine and the requests between devices: restarts, escalation, remote spawns, links and monitors (R52, R54 to
R61, R249, R367 to R371, R397, R399, R400). -/

namespace Sys2Proof.Machine

/-! ## Restarts (R59 to R61, R367 to R371, R399) -/

end Sys2Proof.Machine

namespace Sys2Proof

open Machine

/-- Does an exit call for a restart (R59)? -/
def RestartMode.restarts (m : RestartMode) (reason : Nat) (bySup : Bool) : Bool :=
  match m with
  | .always => true
  | .onFault => reason != 0 && !(reason == 1 && bySup)
  | .never => false

end Sys2Proof

namespace Sys2Proof.Machine

def Actor.child? (w : Actor) (c : Word) : Option Child := (w.children.filter fun x => x.code == c).head?
def Actor.modChild (w : Actor) (c : Word) (f : Child → Child) : Actor :=
  { w with children := w.children.map fun x => if x.code == c then f x else x }
def Actor.dropChild (w : Actor) (c : Word) : Actor := { w with children := w.children.filter fun x => x.code != c }

/-- A SPAWNED letter to the supervisor (R25, R61); its sender is a free value (log 25). -/
def State.spawnedLetter (s : State) (sup child : Word) (img : Nat) : State :=
  let (w, s1) := s.anyWord
  s1.sendMade (Stamper.restartEngine.turn (s.homeDie (pcPart sup) sup)) sup w 5 (BitVec.ofNat 1664 (child.toNat + 2 ^ 64 * img))

/-- A restart that rebuilds nothing: the child leaves the list, with a second EXIT letter (R371). -/
def State.endChild (s : State) (p slot : Nat) (sup child : Word) (reason : Nat) : State :=
  (s.modActor p slot fun w => w.dropChild child).exitLetter (s.homeDie p sup) sup child { reason := reason }
/-- A child is rebuilt under a new postcode. -/
def State.bearChild (s : State) (p slot : Nat) (sup child new : Word) (img : Nat) : State :=
  (s.modActor p slot fun w => w.modChild child fun x => { x with code := new, dead := false, asked := false, killing := false }).spawnedLetter
    sup new img

/-- A rebuild on this device (R61, R399): in the child's own slot and home, or in a free slot when its device is lost. -/
def State.rebuildHere (s : State) (p slot : Nat) (sup : Word) (c : Child) : Bool × State :=
  let own := pcDevice c.code == s.device
  let target : Option (Nat × Option Nat) × State :=
    if own then (some (pcSlot c.code, (s.part p).homes.find? (pcSlot c.code)), s)
    else
      let (i, s1) := s.pickN
      ((s1.newSlot p i).map fun n => (n, none), s1)
  match target with
  | (none, s1) => (false, s1.endChild p slot sup c.code 9)
  | (some (n, home), s1) =>
    let home1 : Option Nat × State := match home with
      | some h => (some h, s1)
      | none =>
        let (i, s2) := s1.pickN
        (some (16 * (s2.part p).row0 + i % (16 * max 1 (s2.part p).nrows)), s2)
    let code := postcode s.device p n (nextInc ((s.part p).last.get n 0))
    match home1.2.birth p c.img code home1.1 (some sup) with
    | .ok s2 => (true, s2.bearChild p slot sup c.code code c.img)
    | .error r => (false, home1.2.endChild p slot sup c.code r)

/-- A rebuild goes to the child's device. -/
def State.askRebuild (s : State) (p slot : Nat) (sup : Word) (c : Child) : State :=
  (s.modActor p slot fun w => w.modChild c.code fun x => { x with asked := true }).enqueue (pcDevice c.code) p false sup 0 0 64
    (.remote (.rebuild sup c.code c.img))
/-- Does a child's device still serve it? -/
def State.childFar (s : State) (c : Child) : Bool := pcDevice c.code != s.device && !s.lostmask.getLsbD (pcDevice c.code)

/-- The history with an event, the 255 most recent kept; and without one that did not count (R368, R371). -/
def Actor.addEvent (w : Actor) (t : Nat) : Actor := { w with history := (w.history ++ [t]).drop (w.history.length + 1 - 255) }
def Actor.dropEvent (w : Actor) (t : Nat) : Actor := { w with history := w.history.erase t }
/-- The events inside the window at a time (R368). -/
def Actor.inWindow (w : Actor) (t : Nat) : Nat := (w.history.filter fun h => t - h < w.img.window * 1500000).length

/-- A single restart (R369). -/
def State.restartOne (s : State) (p slot : Nat) (w : Actor) (c : Child) (t : Nat) : State :=
  let s1 := s.modActor p slot fun w => w.modChild c.code fun x => { x with dead := true, killing := false, event := t }
  if s.childFar c then (s1.modActor p slot fun w => w.addEvent t).askRebuild p slot w.code c
  else
    let (ok, s2) := s1.rebuildHere p slot w.code c
    if ok then s2.modActor p slot fun w => w.addEvent t else s2

/-- A whole restart begins: every other living child is killed in reverse order (R369). -/
def State.restartAll (s : State) (p slot : Nat) (w : Actor) (c : Child) (t : Nat) : State :=
  let s1 := s.modActor p slot fun w =>
    { w.modChild c.code fun x => { x with dead := true, killing := false } with whole := some { time := t } }
  let others := w.children.filter fun x => x.code != c.code && !x.dead
  let s2 := s1.killChildren p w.code others false
  if others.isEmpty then s2.post (.wholeRestartRebuild p slot) else s2

/-- Escalation (R370): the exited child leaves the list, and the supervisor exits with ESCALATE; a supervisor without a supervisor writes its
kind-5 record before it exits, so its exit waits for a record that finds the ring full (R351), and no child is restarted meanwhile. -/
def State.escalate (s : State) (p slot : Nat) (w : Actor) (c : Child) : State :=
  let s1 := (s.modActor p slot fun w => { w.dropChild c.code with whole := none, escalated := true }).letGo p w.code c.code
  let exits : Event := .killPoint p w.code (.escalate c.code)
  if w.supervisor.isNone then
    let (s2, ok) := s1.record p (mkRecord s.now 5 0 0 0 0 0 w.code c.code 0 0 0 0) none [exits]
    if ok then s2.post exits else s2
  else s1.post exits

/-- A child's exit reaches the restart engine (R367 to R371). -/
def execRestartEvent (p sup : Nat) (child : Word) (reason : BitVec 8) (bySup : Bool) (s : State) : Out :=
  match s.actor? p sup with
  | none => .next s
  | some w =>
    match w.child? child with
    | none => .next s
    | some c =>
      if (s.part p).fatal.isSome then .next s
      else if w.escalated || w.leaving.isSome then
        .next (((s.modActor p sup fun w => w.dropChild child).letGo p w.code child).checkExit p sup)
      else if w.whole.isSome then
        if c.killing || c.dead then
          let s1 := s.modActor p sup fun w => w.modChild child fun x => { x with dead := true, killing := false, asked := false }
          let left := match s1.actor? p sup with
            | some w => w.children.any fun x => x.killing
            | none => false
          .next (if left then s1 else s1.post (.wholeRestartRebuild p sup))
        else .next (s.postAt 1 (.restartEvent p sup child reason bySup))
      else if c.dead then .next ((s.modActor p sup fun w => w.dropEvent c.event).restartOne p sup w c c.event)
      else if !c.mode.restarts reason.toNat bySup then
        let s1 := s.modActor p sup fun w => w.dropChild child
        .next (if c.mode == .never then s1 else s1.letGo p w.code child)
      else
        let t := s.now
        if w.inWindow t < w.img.maxr then
          .next (if w.img.whole then s.restartAll p sup w c t else s.restartOne p sup w c t)
        else .next (s.escalate p sup w c)

/-- A whole restart rebuilds its children in child-list order, one at a turn, waiting for each that lives elsewhere (R61, R369, R371). -/
def State.rebuildFrom (s : State) (p slot : Nat) (sup : Word) (cs : List Child) : State :=
  match cs with
  | [] =>
    s.modActor p slot fun w =>
      match w.whole with
      | some e => { (if e.rebuilt then w.addEvent e.time else w) with whole := none }
      | none => w
  | c :: r =>
    if !c.dead then s.rebuildFrom p slot sup r
    else if c.asked then s
    else
      match c.mode with
      | .never => (s.modActor p slot fun w => w.dropChild c.code).rebuildFrom p slot sup r
      | _ =>
        if s.childFar c then s.askRebuild p slot sup c
        else
          let (ok, s1) := s.rebuildHere p slot sup c
          (s1.modActor p slot fun w => { w with whole := w.whole.map fun e => { e with rebuilt := e.rebuilt || ok } }).post
            (.wholeRestartRebuild p slot)
def execWholeRestartRebuild (p sup : Nat) (s : State) : Out :=
  match s.actor? p sup with
  | none => .next s
  | some w =>
    if w.whole.isNone || w.children.any (fun c => c.killing) then .next s else .next (s.rebuildFrom p sup w.code w.children)

/-- The completion of a rebuild on another device (R61, R371), or the word that a supervised spawn there bore no actor (R52). -/
def execRemoteCompletionReport (p : Nat) (supervisor child : Word) (result : Option Word) (reason : BitVec 8) (s : State) : Out :=
  match s.living p supervisor with
  | none => .next s
  | some w =>
    let slot := pcSlot supervisor
    match w.child? child with
    | none => .next s
    | some c =>
      if w.leaving.isSome then
        match result with
        | some new =>
          let s1 := s.modActor p slot fun w =>
            w.modChild child fun x => { x with code := new, dead := false, asked := false, killing := true }
          .next ((s1.sendKill p new supervisor true).letGo p supervisor new)
        | none => .next ((s.modActor p slot fun w => w.dropChild child).checkExit p slot)
      else if !c.asked then .next (if result.isNone then s.endChild p slot supervisor child reason.toNat else s)
      else
        let s1 := match result with
          | some new => s.bearChild p slot supervisor child new c.img
          | none => (s.endChild p slot supervisor child reason.toNat)
        if w.whole.isSome then
          .next ((s1.modActor p slot fun w => { w with whole := w.whole.map fun e => { e with rebuilt := e.rebuilt || result.isSome } }).post
            (.wholeRestartRebuild p slot))
        else .next (if result.isSome then s1 else s1.modActor p slot fun w => w.dropEvent c.event)

/-- Another device's restart engine asks for a rebuild or a kill of a child here (R61). -/
def execRemoteRebuildRequest (p src : Nat) (supervisor child : Word) (img : Nat) (kill : Bool) (s : State) : Out :=
  if kill then .next (s.post (.killPoint p child (.bySupervisor supervisor)))
  else
    let n := pcSlot child
    let answer (st : State) (r : Option Word) (reason : Nat) : State :=
      st.enqueue src p false supervisor 0 0 64 (.remote (.rebuilt supervisor child r (BitVec.ofNat 8 reason)))
    let other := ((s.part p).kept.find? n).any fun k => k.1 != child
    if (s.actor? p n).isSome || ((s.part p).reserved.find? n).isSome || other then .next (answer s none 9)
    else
      let code := postcode s.device p n (nextInc ((s.part p).last.get n 0))
      match s.birth p img code ((s.part p).homes.find? n) (some supervisor) with
      | .ok s1 => .next (answer (s1.modActor p n fun w => { w with kept := true }) (some code) 0)
      | .error r => .next (answer (s.modPart p fun k => { k with kept := k.kept.erase n }) none r)

/-! ## Spawns on other devices (R52, R249, R397) -/

/-- A reservation asked by another device: a slot; none free; or the null postcode, when the partition's image table there has no such
image (R249; log 26). -/
def execSpawnReservationRequest (p src serial img : Nat) (s : State) : Out :=
  let answer (st : State) (code : Option Word) : State := st.enqueue src p false 0 0 0 64 (.remote (.reserveReply serial true code))
  if ((s.part p).images.find? img).isNone then .next (answer s (some 0))
  else
    let (code, s1) := s.reserve p img
    .next (answer s1 code)

/-- With no free slot or no image there, the spawn fails as it would here: resource-limit or no-image (R344; log 26). -/
def RemoteSpawn.failure (r : RemoteSpawn) (code : Nat) : Failure where
  cause := BitVec.ofNat 8 code
  info := 0
  ctx := BitVec.ofNat 16 r.ctx
  flags := if r.slot then 1 else 0
  epc := r.epc
  enpc := r.enpc
  badaddr := 0
  progress := 0

/-- The answer to a reservation. One whose activation is gone is released (R52). -/
def execSpawnReservationReply (serial : Nat) (ok : Bool) (child : Option Word) (s : State) : Out :=
  match s.remote.find? fun r => r.serial == serial with
  | none =>
    match child with
    | some c => if c = 0 then .next s else .next (s.enqueue (pcDevice c) (pcPart c) false 0 0 0 64 (.remote (.release c)))
    | none => .next s
  | some r =>
    if !ok then .next (s.voidSpawn r cBadPostcode)
    else
      let fails (code : Nat) : State :=
        { s with remote := s.remote.filter fun q => q.serial != serial }.failAct r.act (r.failure code)
      match child with
      | some c => if c = 0 then .next (fails cNoImage) else .next (s.spawnResult r c false)
      | none => .next (fails cResourceLimit)

/-- A reservation of an aborted activation is released (R52), or the slot of a child that its supervisor will not have rebuilt (R61;
log 80). -/
def Part.release (k : Part) (child : Word) : Part :=
  let n := pcSlot child
  { k with
    reserved := if (k.reserved.find? n).any fun r => r.1 = child then k.reserved.erase n else k.reserved
    kept := if (k.kept.find? n).any fun r => r.1 = child then k.kept.erase n else k.kept
    actors := k.actors.modify n fun w => if w.code = child then { w with kept := false } else w }
def execReservationRelease (p : Nat) (child : Word) (s : State) : Out := .next (s.modPart p fun k => k.release child)

/-! ## Links of other devices (R54, R56, R57) -/

/-- A `link` or `mon` of another device arrives. -/
def execLinkRequestArrival (p src : Nat) (issuer target : Word) (isLink : Bool) (s : State) : Out :=
  match s.enterLink p issuer target isLink false with
  | .ok s1 => .next s1
  | .error r => .next (s.enqueue src p false target 0 0 64 (.remote (.linkRefused issuer target (BitVec.ofNat 8 r) isLink)))

end Sys2Proof.Machine
end

