-- ==== Sys2Proof/Machine/Host.lean ====
section
/-! DEFINITION. The host's requests: the letter window, the memory aperture, the notice ring, commons, keys, repair answers, debug words and
every register write of the partition functions and function 0 (R8, R9, R47, R64, R281, R286 to R291, R295, R297, R317 to R322, R330 to
R332, R349, R375, R377, R395, R401, R410). -/

namespace Sys2Proof

open Machine

end Sys2Proof

namespace Sys2Proof.Machine

/-! ## Whether a function answers (R286, R294, R401, R402, R408) -/

/-- The BARs of a partition function answer. -/
def State.barOpen (s : State) (p : Nat) : Bool :=
  (s.part p).state == .ready && (s.code == 1 || (s.part p).tdisp == .run)
/-- BAR 2 and BAR 4 answer. -/
def State.hostOpen (s : State) (p : Nat) : Bool := s.barOpen p && (s.part p).fatal.isNone && !s.stopped
/-- Unsupported Request, with no record. -/
def State.unsupported (s : State) (fn : Nat) : State := s.emit (.unsupported fn false)


/-- A kind-34 record (R401, R404). -/
def State.noteHost (s : State) (p : Nat) (what request seq cause : Nat) : State :=
  s.note p (mkRecord s.now 34 cause 0 0 0 0 (BitVec.ofNat 64 what) (BitVec.ofNat 64 request) (BitVec.ofNat 64 seq) 0 0 0)

/-! ## The letter window (R287, R288) -/

/-- The letter a staging slot holds: bytes 0x08–0x0F and 0x23–0x2F are ignored. -/
def slotLetter (image : List Byte) : Letter :=
  let w (o n : Nat) : Nat := numOf ((image.drop o).take n)
  { dest := BitVec.ofNat 64 (w 0 8), sender := 0, postmark := BitVec.ofNat 64 (w 0x10 8), gid := BitVec.ofNat 32 (w 0x18 4)
    gsize := BitVec.ofNat 16 (w 0x1C 2), member := BitVec.ofNat 16 (w 0x1E 2), principal := BitVec.ofNat 16 (w 0x20 2)
    kind := BitVec.ofNat 8 (w 0x22 1), aux := 0, replay := false, nonotice := false, body := BitVec.ofNat 1664 (w 0x30 208) }

/-- The sender postcode of a letter submitted through the service core of die d (R21). -/
def State.hostSender (s : State) (p d : Nat) : Word := postcode s.device p (0x80000 + d) 0

/-- A service core stamps a letter whose postmark the host left 0 (R26). -/
def State.hostStamp (s : State) (die : Nat) (l : Letter) : Letter × State :=
  if l.postmark = 0 then
    let (t, s1) := s.stamp (Stamper.serviceCore.turn die)
    ({ l with postmark := t }, s1)
  else (l, s)

/-- A service core issues a host letter into the mesh. -/
def State.issueHost (s : State) (p slot die seq : Nat) (l : Letter) : State :=
  let (l1, s1) := s.hostStamp die l
  s1.postLetter { l1 with sender := s.hostSender p die } (some (slot, seq))

/-- The service core that serves the quadrant of a die: die 0's once it has failed (R403). -/
def State.quadrant (s : State) (die : Nat) : Nat := if s.scFailed.getLsbD die then 0 else die
/-- Die 0's service core hands work to the service core of a die, where it arrives behind what it was handed before (R291). -/
def State.handOver (s : State) (die : Nat) (w : SvcWork) : State :=
  let (d, s1) := s.delay
  let n := s1.quadrant die
  let q := s1.svc.get n []
  { s1 with svc := s1.svc.set n (q ++ [⟨(q.map SvcItem.due).foldl max (s.clock + d), w⟩]) }
/-- The first of some work held by the service core of a die is over. -/
def State.popWork (s : State) (die : Nat) (w : SvcWork) : State :=
  { s with svc := s.svc.modify die fun q => q.eraseP fun x => x.work == w }

/-- Dest, kind and group fields that the service core accepts (R288). -/
def State.hostLetterOk (s : State) (p : Nat) (l : Letter) : Bool :=
  l.kind.toNat ≤ 1 && s.postcodeOk p l.dest && pcDevice l.dest == s.device && groupOk l

/-- A doorbell (R288, R401): the slot is copied and BUSY; a letter that passes the check goes to the service core of its quadrant, one of a
launch group, or for a slot that holds no actor, to die 0's. -/
def execLwbell (p : Nat) (v : Word) (s : State) : Out :=
  if !s.hostOpen p then .next (s.unsupported (p + 1))
  else
    let slot := bits v 0 4
    let k := s.part p
    let w := k.win.get slot {}
    if bits w.stat 0 8 = 1 then .next (s.noteHost p slot 3 (bits w.stat 8 32) 0)
    else
      let seq := (k.bells + 1) % 2 ^ 32
      let s1 := (s.modPart p fun k => { k with bells := k.bells + 1 }).setLwstat p slot seq 1
      let l := slotLetter w.image
      if !s.hostLetterOk p l then .next (s1.setLwstat p slot seq 3)
      else
        match s.actor? p (pcSlot l.dest) with
        | none => .next (s1.handOver 0 (.letter p slot seq l))
        | some a => .next (s1.handOver (if l.gsize != 0 then 0 else dieOfCluster a.cluster) (.letter p slot seq l))

/-- A letter that a failed service core held: it may have joined its mailbox or not (R403). -/
def State.loseHeld (s : State) (p slot : Nat) (l : Letter) (die seq : Nat) : State :=
  let (joined, s1) := s.choose
  let s2 := s1.setLwstat p slot seq 6
  if joined then
    let (l1, s3) := s2.hostStamp die l
    s3.postLetter { l1 with sender := s.hostSender p die } none
  else s2

/-- A letter's turn at its service core: it is issued into the mesh; die 0's makes one whose slot holds no actor a dead letter, and hands
over one whose slot another die's actor has taken since the doorbell (R288). -/
def execServiceCoreLetter (p slot : Nat) (l : Letter) (die seq : Nat) (s : State) : Out :=
  let s0 := s.popWork die (.letter p slot seq l)
  if s.scFailed.getLsbD die then .next (s0.loseHeld p slot l die seq)
  else
    match s.actor? p (pcSlot l.dest) with
    | none =>
      if die = 0 then
        let (l1, s1) := s0.hostStamp 0 l
        .next ((s1.deadLetter { l1 with sender := s.hostSender p 0 } 2).setLwstat p slot seq 5)
      else .next (s0.issueHost p slot die seq l)
    | some a =>
      let home := s.quadrant (dieOfCluster a.cluster)
      .next (if die = 0 && l.gsize = 0 && home != 0 then s0.handOver home (.letter p slot seq l) else s0.issueHost p slot die seq l)

/-! ## The aperture (R289, R401) -/

/-- The partition virtual address of an aperture offset. -/
def State.hostVa (s : State) (p off : Nat) : Nat := bits ((s.part p).win' 0x1200) 32 20 * 2 ^ 32 + off % 2 ^ 32

/-- A kind-17 record of a table error met by the host (R373): no actor. -/
def State.noteHostTable (s : State) (p va : Nat) (w : Walk) : State :=
  match w with
  | .error lv code e => s.tableRecord p 0 0 0 0 va (lv, code, e)
  | _ => s

/-- What a host read of one line finds. -/
inductive HostRead where
  | ok (data : List Byte) (poisoned : Bool)
  | locked
  | bad (w : Walk)
  deriving DecidableEq, Repr
def State.hostRead (s : State) (p va n : Nat) : HostRead :=
  let w := s.walk p va
  match w with
  | .leaf l =>
    let pa := l.addr + va % l.size
    if !l.r then .bad w
    else if s.lockedLine 0 pa then .locked
    else .ok (s.dram.read pa n) (s.poison.contains (pa / 64))
  | _ => .bad w

/-- What a host write of one line does: a store at the home slice, a commit of the line, a wait for a lock, or nothing, with its cause. -/
inductive HostWrite where
  | ok (s : State)
  | locked
  | bad (w : Walk) (cause : Nat)
def State.hostWrite (s : State) (p va : Nat) (bs : List Byte) : HostWrite :=
  let w := s.walk p va
  match w with
  | .leaf l =>
    let pa := l.addr + va % l.size
    if l.atomic then .ok { s.cleanLines pa bs.length with dram := s.dram.write pa bs }
    else if !l.w || l.cow then .bad w cWriteProtect
    else if s.lineBusy p va pa then .locked
    else .ok (s.lineWrite p va pa bs)
  | _ => .bad w cNotPresent

/-- The die that holds the addressed slice or stack; die 0 for an address that does not translate (R120; log 66). -/
def State.dieAt (s : State) (p va : Nat) : Nat :=
  match s.walk p va with
  | .leaf l => dieOfPa (l.addr + va % l.size)
  | _ => 0
/-- Die 0's service core takes a memory request (R289, R291): its lines, at the address the aperture base gives now, go to the service cores
of their dies in ascending order. -/
def State.takeRequest (s : State) (p off len : Nat) (write : Option (List Byte)) : State :=
  let ls := (pieces (s.hostVa p off) len).map fun q => SvcLine.mk (s.dieAt p q.va) q.va q.n
  let (n, s1) := s.fresh
  ls.foldl (fun st l => st.handOver l.die (.line n)) { s1 with requests := s1.requests ++ [{ serial := n, p := p, off := off, lines := ls, write := write }] }
/-- A request is over, with whatever of it the service cores still hold. -/
def State.endRequest (s : State) (n : Nat) : State :=
  { s with
    requests := s.requests.filter fun r => r.serial != n
    svc := s.svc.mapVals fun _ q => q.filter fun x => x.work != .line n }
/-- A request goes on with what is left of it, or is over: a read completes. -/
def State.setRequest (s : State) (r : HostReq) : State :=
  if r.lines.isEmpty then
    let s1 := s.endRequest r.serial
    match r.write with
    | some _ => s1
    | none => s1.emit (.readCompletion r.p r.got false)
  else { s with requests := s.requests.map fun q => if q.serial == r.serial then r else q }
/-- The first line of a request is over; the service core goes on. -/
def State.nextLine (s : State) (r : HostReq) (l : SvcLine) (f : HostReq → HostReq) : State :=
  (s.popWork (s.quadrant l.die) (.line r.serial)).setRequest (f { r with lines := r.lines.drop 1 })
/-- A failing line ends its request (R289, R401): neither it nor any later line is performed. -/
def State.failRequest (s : State) (r : HostReq) (l : SvcLine) (w : Walk) (kind cause : Nat) : State :=
  (((s.endRequest r.serial).noteHostTable r.p l.va w).noteHost r.p r.off kind 0 cause).emit (.unsupported (r.p + 1) true)
/-- A read that meets a poisoned line ends there too: its completion is poisoned and returns none of its lines (R289, R401). -/
def State.poisonRequest (s : State) (r : HostReq) : State :=
  ((s.endRequest r.serial).noteHost r.p r.off 1 0 cUncorrectable).emit (.readCompletion r.p [] true)
/-- The first line left of a memory request is performed at its service core; a locked line is waited for (R120). -/
def State.serveRequest (s : State) (n : Nat) : State :=
  match s.requests.find? fun r => r.serial == n with
  | none => s
  | some r =>
    match r.lines with
    | [] => s.endRequest n
    | l :: _ =>
      if !s.hostOpen r.p then (s.endRequest n).unsupported (r.p + 1)
      else
        match r.write with
        | none =>
          match s.hostRead r.p l.va l.n with
          | .ok bs false => s.nextLine r l fun r => { r with got := r.got ++ bs }
          | .ok _ true => s.poisonRequest r
          | .locked => s
          | .bad w => s.failRequest r l w 1 cNotPresent
        | some bs =>
          match s.hostWrite r.p l.va (bs.take l.n) with
          | .ok s1 => s1.nextLine r l fun r => { r with write := some (bs.drop l.n) }
          | .locked => s
          | .bad w cause => s.failRequest r l w 2 cause

/-- A host read through BAR 4 arrives, or the next line of one is performed. -/
def execApertureRead (p off : Nat) (len : Requested Nat) (s : State) : Out :=
  match len with
  | .line n => .next (s.serveRequest n)
  | .sent n => if s.hostOpen p then .next (s.takeRequest p off n none) else .next (s.unsupported (p + 1))
/-- A host write through BAR 4 arrives, or the next line of one is performed. -/
def execApertureWrite (p off : Nat) (data : Requested (List Byte)) (s : State) : Out :=
  match data with
  | .line n => .next (s.serveRequest n)
  | .sent bs => if s.hostOpen p then .next (s.takeRequest p off bs.length (some bs)) else .next (s.unsupported (p + 1))

/-- What the service cores perform in a cycle: each the first thing that has arrived, a line once the earlier lines of its request are over
(R120, R289). -/
def State.serviceEvents (s : State) : List Event :=
  s.svc.filterMap fun q =>
    match q.2 with
    | [] => none
    | x :: _ =>
      if s.clock < x.due then none
      else
        match x.work with
        | .letter p slot seq l => some (.serviceCoreLetter p slot l q.1 seq)
        | .line n =>
          match s.requests.find? fun r => r.serial == n with
          | none => none
          | some r =>
            if (r.lines.head?.map fun l => s.quadrant l.die) != some q.1 then none
            else if r.write.isSome then some (.apertureWrite r.p r.off (.line n))
            else some (.apertureRead r.p r.off (.line n))

/-- The host advances the notice ring (R290). -/
def execNtcons (p : Nat) (v : Word) (s : State) : Out :=
  if !s.hostOpen p then .next (s.unsupported (p + 1))
  else
    let s1 := s.modPart p fun k => k.setWin 0x1318 v
    .next (s1.payNotices p (s1.part p).owed.length)

/-! ## Commons (R47) -/

/-- Commons that exist on the device. -/
def State.commonsCount (s : State) : Nat := s.parts.foldl (fun n k => n + k.2.commons.length) 0
/-- cmnstat after a command: the live count and the result. -/
def Part.cmnResult (k : Part) (r : Nat) : Part := k.setWord 0x808 (BitVec.ofNat 64 (r + 2 ^ 16 * k.commons.length))

def execCmncmdCreate (p id : Nat) (unordered : Bool) (s : State) : Out :=
  .next (s.modPart p fun k =>
    if (k.commons.find? id).isSome then k.cmnResult 2
    else if 4096 ≤ s.commonsCount then k.cmnResult 3
    else { k with commons := k.commons.set id unordered }.cmnResult 1)

def execCmncmdDestroy (p id : Nat) (s : State) : Out :=
  .next (s.modPart p fun k =>
    if (k.commons.find? id).isNone then k.cmnResult 4
    else if k.actors.any (fun w => w.2.img.commons == some id) then k.cmnResult 5
    else { k with commons := k.commons.erase id }.cmnResult 1)

/-! ## Keys (R295) -/

/-- A write that sets valid in a key-table entry installs its key and counter as last written; it counts only on the partition's IDE stream
while the function's BARs answer (R286), and a locked interface keeps the owner (R294). -/
def execKeyInstall (p k : Nat) (key : BitVec 256) (counter : BitVec 96) (owner : BitVec 16) (onIde : Bool) (s : State) : Out :=
  if !onIde || 256 ≤ k || !s.barOpen p then .next s
  else
    .next (s.modPart p fun q =>
      let old := q.keys.get k {}
      let new : Key :=
        { old with
          key := key
          counter := if old.valid then old.counter else counter
          owner := if q.tdisp == .unlocked then owner else old.owner
          exhausted := if old.valid then old.exhausted else false
          valid := true }
      { q with keys := q.keys.set k new })

/-! ## Repair answers (R375, R377) -/

/-- A waiter goes on: the member as by `eret.re`, an engine from its failed unit. -/
def State.retryRepair (s : State) (r : Repair) : State :=
  match r.who with
  | .context c => s.modCtx c fun k => { k.eretRe with pause := none }
  | .courier cl n => s.post (.courierCommandComplete cl n)
  | .feeder a m h => (s.modMember a m fun v => { v with subs := v.subs.modify h fun u => { u with asked := false } }).post (.feederTile a m h)
  | .fabric n => s.post (.fabricCaptureComplete n)

def execRprackRetry (p : Nat) (serial : BitVec 32) (s : State) : Out :=
  match (s.part p).repairs.find? serial.toNat with
  | none => .next s
  | some r => .next ((s.modPart p fun k => { k with repairs := k.repairs.erase serial.toNat }).retryRepair r)

/-- The failure of a fail verdict: the cause of the record (R348, R377). -/
def State.repairFailure (s : State) (r : Repair) : Failure :=
  let engine (ctx : Nat) : Failure :=
    { cause := r.cause, info := 0, ctx := BitVec.ofNat 16 ctx, flags := 4, epc := 0, enpc := 0, badaddr := r.va, progress := 0 }
  match r.who with
  | .context c => ((s.ctxs.find? c).map fun k => k.failure c).getD (engine c)
  | .courier cl n => engine (((((s.cluster cl).courier.filter fun q => q.serial == n).head?).map fun q => q.ctx).getD 0)
  | .feeder a m h => engine (((s.subOf a m h).map fun u => u.ctx).getD 0)
  | .fabric n => engine (((s.fab.filter fun f => f.cmd.serial == n).head?.map fun f => f.cmd.ctx).getD 0)

def execRprackFail (p : Nat) (serial : BitVec 32) (s : State) : Out :=
  match (s.part p).repairs.find? serial.toNat with
  | none => .next s
  | some r => .next ((s.modPart p fun k => { k with repairs := k.repairs.erase serial.toNat }).failAct r.act (s.repairFailure r))

/-! ## Debug words (R317 to R319) -/

def execDbgctlHalt (core : Nat) (s : State) : Out :=
  .next ((s.modCore core fun k => k.ask 1 none).settleStop core)

/-- The core goes on; the context that stopped at a breakpoint may pass it. -/
def execDbgctlResume (core : Nat) (s : State) : Out :=
  .next (s.modCore core fun k => { k with dbgctl := k.dbgctl &&& ~~~0x179, stepped := false })

/-- A halted core issues one instruction of a context, then stops again. DESIGN CHOICE (log 100): a step asked for while another is in
progress does nothing. -/
def execDbgctlStep (core ctx : Nat) (s : State) : Out :=
  .next (s.modCore core fun k =>
    if k.halted && k.dbgctl.getLsbD 8 then k
    else if k.halted then { k with dbgctl := setBits (k.dbgctl ||| 0x100) 9 3 ctx, stepped := false } else { k with dbgctl := setBits k.dbgctl 9 3 ctx })

/-! ## Stalled records (R349, R351) -/

/-- A producer's record has entered the ring or been discarded: its context goes on, and the events held back are due. -/
def State.unstall (s : State) (r : StalledRecord) : State :=
  let s1 := s.posts r.cont
  match r.ctx with
  | none => s1
  | some c => s1.modCtx c fun k =>
    { k with pause := match k.pause with
        | some .record => none
        | some .callxRecord => some .callx
        | p => p }
/-- Stalled records enter as the ring has room; while it is off they are discarded. -/
def State.drainRecords (s : State) (p fuel : Nat) : State :=
  match fuel with
  | 0 => s
  | n + 1 =>
    let k := s.part p
    match k.stalled with
    | [] => s.modPart p fun k => k.setWord 0x420 (k.word 0x420 &&& ~~~2#64)
    | r :: rest =>
      if k.ringOn && k.ringFull then s
      else
        let s1 := s.modPart p fun k => { k with stalled := rest }
        let s2 := if k.ringOn then s1.enterRecord p r.bits r.repair else s1.modPart p Part.loseRecord
        (s2.unstall r).drainRecords p n
def State.drainAll (s : State) (p : Nat) : State := s.drainRecords p ((s.part p).stalled.length + 1)

/-! ## Registers (R8, R9, R64, R89, R287, R297, R322, R332, R349, R395, R410) -/

/-- The writable bits of a control-block word that keeps what is written, or none for a word that is not such a word. DESIGN CHOICE (log 107):
the low 16 bits of a base that is aligned to 64 KiB keep 0 whatever is written; those of dlbase and dmpbase keep what is written. -/
def ctlMask (off : Nat) : Option Word :=
  let all : Word := BitVec.allOnes 64
  if off = 0x10 then some all
  else if off = 0x40 then some 0x2300FFFFF
  else if off = 0x80 then some 0xFFFFFFFE0000
  else if off = 0x90 || off = 0x98 || off = 0xA0 then some (all <<< 16)
  else if off = 0xA8 || off = 0xD8 then some all
  else if off = 0xC0 || off = 0xC8 || off = 0xD0 then some (all <<< 16)
  else if 0x100 ≤ off && off < 0x140 then some all
  else if off = 0x200 || off = 0x208 || off = 0x218 then some all
  else if off = 0x228 then some 0x7F
  else if off = 0x300 then some 0xFF80
  else if off = 0x400 || off = 0x408 then some all
  else if off = 0x428 then some 3
  else if off = 0x500 then some 1
  else if off = 0x600 || off = 0x608 then some all
  else if 0x640 ≤ off && off < 0x740 then some all
  else none

/-- A word that keeps what is written takes its writable bits. -/
def merge (old v mask : Word) : Word := (old &&& ~~~mask) ||| (v &&& mask)

/-- psched after a write (R64, R358): clamped is cleared by 1, and set whenever the clamp raises the quantum. -/
def psched (old v : Word) : Word :=
  let w := merge old v 0x2300FFFFF
  let w1 := if v.getLsbD 48 then w &&& ~~~(1#64 <<< 48) else w
  if max 1 (bits w 0 20) < bits w 40 8 + 50 then w1 ||| (1#64 <<< 48) else w1

/-- A dword of the franking table of a cluster (R281, R283). -/
def Cluster.frankWrite (k : Cluster) (off : Nat) (v : Word) : Cluster :=
  let i := off / 16
  let e := k.frank.get i 0
  if off / 8 % 2 = 1 then
    { k with frank := k.frank.set i (v.extractLsb' 0 46 |>.setWidth 64 |> fun d => d ++ e.extractLsb' 0 64) }
  else
    let old := e.extractLsb' 0 64
    let active := old.getLsbD 1 && v.getLsbD 0 && bits old 36 4 == bits v 36 4
    let d := (v &&& 0xFFFFFFFCFFFF0001) ||| (if active then 2 else 0)
    let k1 := { k with frank := k.frank.set i (e.extractLsb' 64 64 ++ d) }
    let f := bits v 36 4
    let k2 := if v.getLsbD 0 && (k1.fctxs.get f {}).franked then k1.activate i else k1
    k2.unfrank (bits old 36 4)

/-- A word of the debug and counter block of a core (R317, R319, R321, R322): what it holds, and the commands of dbgctl. -/
def Core.write (k : Core) (off : Nat) (v : Word) : Core :=
  if off = 0 then { k with dbgctl := if v.getLsbD 7 then k.dbgctl ||| 0x80 else k.dbgctl &&& ~~~0x80 }
  else if 8 ≤ off && off < 0x28 then { k with bp := setAt k.bp (off / 8 - 1) v }
  else if off = 0x28 then { k with bpctx := v &&& 0xFFF }
  else if off = 0x30 then { k with pmctl := (k.pmctl &&& ~~~(v &&& 0xF00000000) &&& 0xF00000000) ||| (v &&& 0x10FFFFFFFF) }
  else if 0x40 ≤ off && off < 0x60 then { k with pmc := setAt k.pmc (off / 8 - 8) (v.extractLsb' 0 48) }
  else k
def State.dbgWrite (s : State) (core off : Nat) (v : Word) : State :=
  let s1 := s.modCore core fun k => k.write off v
  if off != 0 then s1
  else
    let s2 := s1.modCore core fun k => if k.dbgctl.getLsbD 8 then k else { k with dbgctl := setBits k.dbgctl 9 3 (bits v 9 3) }
    if v.getLsbD 1 then s2.postNow (.dbgctlResume core)
    else if v.getLsbD 8 && (s2.core core).halted then s2.postNow (.dbgctlStep core (bits v 9 3))
    else if v.getLsbD 0 then s2.postNow (.dbgctlHalt core)
    else s2

/-- Requests of a partition function arrive on its IDE stream: the selective stream bound to it, or on a GX4-M576 the link stream (R292). -/
def State.streamOn (s : State) (p : Nat) : Bool := if s.code = 1 then s.ideOn else s.ide.getLsbD p
/-- A dword of a key-table entry (R295): the key as last written, the counter while valid is 0, and a state that clears valid. -/
def Key.write (e : Key) (off : Nat) (v : Word) (unlocked : Bool) : Key :=
  if off < 0x20 then { e with wkey := BitVec.ofNat 256 (setBitsNat e.wkey.toNat (8 * off) 64 v.toNat) }
  else if off = 0x20 then if e.valid then e else { e with counter := e.counter.extractLsb' 64 32 ++ v }
  else if off = 0x28 then if e.valid then e else { e with counter := v.extractLsb' 0 32 ++ e.counter.extractLsb' 0 64 }
  else if off = 0x30 then { e with valid := false, owner := if unlocked then v.extractLsb' 16 16 else e.owner }
  else e
where setBitsNat (n lo len v : Nat) : Nat := n - n / 2 ^ lo % 2 ^ len * 2 ^ lo + v % 2 ^ len * 2 ^ lo
/-- A write of the key table through the partition's own function; one that sets valid installs the entry. -/
def State.keyWrite (s : State) (p i off : Nat) (v : Word) : State :=
  let e := (s.part p).keys.get i {}
  if !s.streamOn p || !s.barOpen p then s
  else if off = 0x30 && v.getLsbD 0 then s.postNow (.keyInstall p i e.wkey e.counter (v.extractLsb' 16 16) true)
  else s.modPart p fun k => { k with keys := k.keys.set i ((k.keys.get i {}).write off v (k.tdisp == .unlocked)) }

/-- A write of a control-block word, by the partition's own function or by function 0; an unlisted offset and a read-only word take nothing
(R8, R9). -/
def State.ctlWrite (s : State) (p off : Nat) (v : Word) (own : Bool) : State :=
  let k := s.part p
  let cl := bits (k.word 0x300) 7 9
  if off = 0x40 then s.modPart p fun k =>
    let k1 := k.setWord off (psched (k.word off) v)
    { k1 with quanta := (s.clock, k1.quantum) :: k1.quanta }
  else if off = 0x418 then s.postNow (.dlcons p v)
  else if off = 0x420 then
    if v.getLsbD 0 then s.modPart p fun k => k.setWord off (k.word off &&& ~~~1#64) else s
  else if off = 0x508 then
    if bits v 32 2 = 1 then s.postNow (.rprackRetry p (v.extractLsb' 0 32))
    else if bits v 32 2 = 2 then s.postNow (.rprackFail p (v.extractLsb' 0 32))
    else s
  else if off = 0x800 then
    if bits v 16 2 = 1 then s.postNow (.cmncmdCreate p (bits v 0 12) (v.getLsbD 12))
    else if bits v 16 2 = 2 then s.postNow (.cmncmdDestroy p (bits v 0 12))
    else s
  else if (off = 0x400 || off = 0x408) && (k.word 0x428).getLsbD 0 then s
  else if 0x100 ≤ off && off < 0x140 && k.tdisp != .unlocked then s
  else if 0x2000 ≤ off && off < 0x3000 then
    if k.holdsCluster cl then s.modCluster cl fun q => q.frankWrite (off - 0x2000) v else s
  else if 0x3000 ≤ off && off < 0x3800 then
    if k.holdsCluster cl then s.dbgWrite (16 * cl + (off - 0x3000) / 0x80) (off % 0x80) v else s
  else if 0x4000 ≤ off && off < 0x8000 then if own then s.keyWrite p ((off - 0x4000) / 64) (off % 64) v else s
  else
    match ctlMask off with
    | some m =>
      let s1 := s.modPart p fun k => k.setWord off (merge (k.word off) v m)
      if off = 0x428 then s1.drainAll p else s1
    | none => s

/-- A write of a dword of the letter window (R287, R290). DESIGN CHOICE (log 107): the low 6 bits of ntbase keep 0. -/
def State.winWrite (s : State) (p off : Nat) (v : Word) : State :=
  if off < 0x1000 then
    s.modPart p fun k =>
      let w := k.win.get (off / 256) {}
      let img := (w.image ++ List.replicate 256 (0 : Byte)).take 256
      let w1 := { w with image := img.take (off % 256) ++ bytesOf 8 v.toNat ++ img.drop (off % 256 + 8) }
      { k with win := k.win.set (off / 256) w1 }
  else if off = 0x1000 then s.postNow (.lwbell p v)
  else if off = 0x1200 then s.modPart p fun k => k.setWin off (v &&& 0xFFFFF00000000)
  else if off = 0x1300 then s.modPart p fun k => k.setWin off (v &&& ~~~0x3F#64)
  else if off = 0x1308 then
    let s1 := s.modPart p fun k => k.setWin off v
    s1.payNotices p (s1.part p).owed.length
  else if off = 0x1318 then s.postNow (.ntcons p v)
  else s

/-- fabcfg's writable bits (R297). -/
def fabMask : Word := 0x1FFFE00FF000FFF
/-- A word of function 0 with its reset value (R297, R330). -/
def fn0Reset (code off : Nat) : Word :=
  if off = 0x10000 then 0x3C00140001F4
  else if 0x10100 ≤ off && off < 0x10200 then 8
  else if off = 0x800 then BitVec.ofNat 64 (if code = 0 then 2150 else 2300)
  else 0
def State.fn0Word (s : State) (off : Nat) : Word := s.fn0.get off (fn0Reset s.code off)
def State.setFn0 (s : State) (off : Nat) (v : Word) : State := { s with fn0 := s.fn0.set off v }
/-- The fabric runs (R297). -/
def State.fabricOn (s : State) : Bool := (s.fn0Word 0x10000).getLsbD 41

/-- A write of dword 0 of a partition descriptor (R331): its fields, then its command. -/
def State.pdescWrite (s : State) (p : Nat) (v : Word) : State :=
  let s1 := (s.setFn0 (0x20000 + 16 * p) (v &&& 0x1F1F00)).modPart p fun k => if v.getLsbD 2 then { k with err := false } else k
  if bits v 0 2 = 1 then s1.postNow (.pdescSetUp p (bits v 8 5) (bits v 16 5))
  else if bits v 0 2 = 2 then s1.postNow (.pdescTearDown p)
  else s1

/-- When enable is set, the sequence counts of every pair start at 0 (R339). -/
def Peer.restart (k : Peer) : Peer :=
  let number (qs : List Queued) : List Queued := qs.mapIdx fun i q =>
    { q with item := { q.item with seq := BitVec.ofNat 32 i, sent := 0 }, sentAt := none }
  { k with
    ordered := number k.ordered
    relaxed := number k.relaxed
    nextOrdered := k.ordered.length
    nextRelaxed := k.relaxed.length
    expectOrdered := 0
    gotRelaxed := []
    early := []
    partials := []
    sent := [] }

/-- A write of a function-0 register: a dword, or a 32-bit slot entry (R8, R297, R323, R330, R331, R387, R395, R396, R410). -/
def State.fn0Write (s : State) (off : Nat) (v : Word) : State :=
  let w1c : State := if v.getLsbD 0 then s.setFn0 off (s.fn0Word off &&& ~~~1#64) else s
  if off = 0x100 || off = 0x108 || off = 0x118 then s.setFn0 off v
  else if 0x200 ≤ off && off < 0x220 && off % 8 = 0 then w1c
  else if off = 0x400 || off = 0x408 || (0x440 ≤ off && off < 0x540) then s.setFn0 off v
  else if off = 0x800 then s.postNow (.pwrcap (v.extractLsb' 0 12))
  else if off = 0x10000 then
    let s1 := s.setFn0 off (v &&& fabMask)
    if v.getLsbD 41 && !s.fabricOn then { s1 with peers := s1.peers.mapVals fun _ k => k.restart, ports := [] } else s1
  else if off = 0x10008 then s.setFn0 off v
  else if 0x10100 ≤ off && off < 0x10200 then if s.fabricOn then s else s.setFn0 off (v &&& 0xCF)
  else if 0x12000 ≤ off && off < 0x14000 then if s.fabricOn then s else s.setFn0 off (v &&& 0x801F01FF)
  else if 0x14000 ≤ off && off < 0x14100 then w1c
  else if 0x14100 ≤ off && off < 0x14140 then s.postNow (.lostmaskClear (v.setWidth 512 <<< (8 * (off - 0x14100))))
  else if 0x20000 ≤ off && off < 0x20100 then
    if off % 16 = 0 then s.pdescWrite ((off - 0x20000) / 16) v else s.setFn0 off (v &&& 0xFFFFFFFF000003FF)
  else s

/-- A host access to a register space is accepted (R286, R294, R332, R402): a partition function's BARs in RUN; a control block through BAR 2
of function 0 while the partition is set up. -/
def State.spaceOpen (s : State) (space : RegSpace) : Bool :=
  match space with
  | .function0 => s.fn0Session
  | .control p => s.barOpen p
  | .block p => s.fn0Session && (s.part p).state == .ready
  | .window p => s.hostOpen p
  | .msix p => s.barOpen p
/-- The function a register space belongs to. -/
def RegSpace.fn (space : RegSpace) : Nat :=
  match space with
  | .function0 => 0
  | .control p => p + 1
  | .block _ => 0
  | .window p => p + 1
  | .msix p => p + 1
/-- A write of a dword of the MSI-X table: entries of 16 bytes, the mask bit of a vector in bit 32 of the second dword (log 28). -/
def State.msixWrite (s : State) (p off : Nat) (v : Word) : State :=
  if off % 16 = 8 && off < 32 then s.modPart p fun k => { k with msixMask := setBit k.msixMask (off / 16) (v.getLsbD 32) } else s

/-- A host write of a register. -/
def execRegisterWrite (space : RegSpace) (off : Nat) (v : Word) (s : State) : Out :=
  if !s.spaceOpen space then .next (s.unsupported (RegSpace.fn space))
  else
    match space with
    | .function0 => .next (s.fn0Write off v)
    | .control p => .next (s.ctlWrite p off v true)
    | .block p => .next (s.ctlWrite p off v false)
    | .window p => .next (s.winWrite p off v)
    | .msix p => .next (s.msixWrite p off v)

/-! ## What a host read of a register returns (R8, R9, R64, R71, R287, R288, R295, R297, R317, R322, R326, R330 to R332, R349, R396) -/

/-- State and error bit of a partition descriptor, over its fields (R331); cmd reads zero. -/
def State.pdescWord (s : State) (p : Nat) : Word :=
  let n := match (s.part p).state with
    | .free => 0
    | .settingUp => 1
    | .ready => 2
    | .tearingDown => 3
  setBits (s.fn0Word (0x20000 + 16 * p)) 32 2 n ||| (if (s.part p).err then 4 else 0)
/-- bootstat (R326). -/
def State.bootstat (s : State) : Word :=
  BitVec.ofNat 64 (s.bootReason * 2 ^ 8 + s.bootStage * 2 ^ 4 + (if s.bootStage = 5 then 1 else 0))
/-- The power limit of the ordering code. -/
def State.limit (s : State) : Nat := if s.code = 0 then 2150 else 2300
/-- pwrcap (R330). -/
def State.pwrcapWord (s : State) : Word :=
  BitVec.ofNat 64 ((s.fn0Word 0x800).toNat % 4096 + (if s.gating ||| s.hot = 0 then 0 else 2 ^ 12) + s.power.toNat * 2 ^ 16 + s.limit * 2 ^ 32)
/-- A dword of function 0: reserved offsets read zero. -/
def State.fn0Read (s : State) (off : Nat) : Word :=
  if off = 0 then s.bootstat
  else if off = 0x800 then s.pwrcapWord
  else if 0x14100 ≤ off && off < 0x14140 then (s.lostmask >>> (8 * (off - 0x14100))).setWidth 64
  else if 0x20000 ≤ off && off < 0x20100 && off % 16 = 0 then s.pdescWord ((off - 0x20000) / 16)
  else s.fn0Word off

/-- A dword of the debug and counter block of a core; resume reads zero (R317, R322). -/
def Core.read (k : Core) (off : Nat) : Word :=
  if off = 0 then k.dbgctl &&& ~~~2#64
  else if 8 ≤ off && off < 0x28 then k.bp.getD (off / 8 - 1) 0
  else if off = 0x28 then k.bpctx
  else if off = 0x30 then k.pmctl
  else if 0x40 ≤ off && off < 0x60 then (k.pmc.getD (off / 8 - 8) 0).setWidth 64
  else 0
/-- A dword of a key-table entry: the key reads zero (R295). -/
def Key.read (e : Key) (off : Nat) : Word :=
  if off = 0x20 then e.counter.extractLsb' 0 64
  else if off = 0x28 then (e.counter.extractLsb' 64 32).setWidth 64
  else if off = 0x30 then BitVec.ofNat 64 (e.owner.toNat * 2 ^ 16 + (if e.exhausted then 2 else 0) + (if e.valid then 1 else 0))
  else 0
/-- A dword of a control block: what is written only, reserved, or of a cluster outside the partition reads zero. -/
def State.ctlRead (s : State) (p off : Nat) : Word :=
  let k := s.part p
  let cl := bits (k.word 0x300) 7 9
  if 0x10000 ≤ off then 0
  else if off = 0 then s.pdescWord p
  else if off = 8 then s.fn0Word (0x20008 + 16 * p)
  else if off = 0x508 || off = 0x800 then 0
  else if 0x1000 ≤ off && off < 0x1C00 then
    if k.holdsCluster ((off - 0x1000) / 8) then s.clsched ((off - 0x1000) / 8) else 0
  else if 0x2000 ≤ off && off < 0x3000 then
    if k.holdsCluster cl then ((s.cluster cl).frank.get ((off - 0x2000) / 16) 0).extractLsb' (8 * (off % 16)) 64 else 0
  else if 0x3000 ≤ off && off < 0x3800 then
    if k.holdsCluster cl then (s.core (16 * cl + (off - 0x3000) / 0x80)).read (off % 0x80) else 0
  else if 0x4000 ≤ off && off < 0x8000 then (k.keys.get ((off - 0x4000) / 64) {}).read (off % 64)
  else k.word off
/-- A dword of the letter window: the doorbell reads zero. -/
def State.winRead (s : State) (p off : Nat) : Word :=
  let k := s.part p
  if off < 0x1000 then BitVec.ofNat 64 (numOf ((((k.win.get (off / 256) {}).image.drop (off % 256)) ++ List.replicate 8 (0 : Byte)).take 8))
  else if 0x1080 ≤ off && off < 0x1100 then (k.win.get ((off - 0x1080) / 8) {}).stat
  else if off = 0x1000 then 0
  else k.win' off
/-- A dword of the MSI-X table: the mask bit of a vector. -/
def State.msixRead (s : State) (p off : Nat) : Word :=
  if off % 16 = 8 && off < 32 && (s.part p).msixMask.getLsbD (off / 16) then 2 ^ 32 else 0
/-- A stopped device answers nothing but bootstat and devdmpstat (R405). -/
def State.answers (s : State) (space : RegSpace) (off : Nat) : Bool :=
  s.spaceOpen space && (!s.stopped || (space == .function0 && (off == 0 || off == 0x410)))
/-- What a host read of an aligned dword of a register space returns; none is Unsupported Request. A read changes nothing. -/
def State.hostReg (s : State) (space : RegSpace) (off : Nat) : Option Word :=
  if !s.answers space off then none
  else some (match space with
    | .function0 => s.fn0Read off
    | .control p => s.ctlRead p off
    | .block p => s.ctlRead p off
    | .window p => s.winRead p off
    | .msix p => s.msixRead p off)

end Sys2Proof.Machine
end

