-- ==== Sys2Proof/Machine/Management.lean ====
section
/-! DEFINITION. The management cores: partition set-up and tear-down, TDISP, SPDM, firmware and reset, power and heat, the checks of the
service and management cores (R286, R292 to R294, R325 to R333, R402, R403, R405, R408, R410, R423). -/

namespace Sys2Proof.Machine

/-! ## Partition set-up (R331, R423) -/

/-- The system actor's fixed attributes. -/
def sysImage : Image :=
  { entry := 0, g := 1, gx := 1, depth := 256, ordered := false, overflowFail := false, exitMail := true, delegate := true
    supervisor := false, whole := false, quota := 0x200000, budget := 10000000, region := 0, init := [], commons := none, home := none
    maxr := 0, window := 0 }

/-- Rows of a partition that exists meet a range of rows. -/
def Part.rowsMeet (k : Part) (row0 nrows : Nat) : Bool :=
  k.state != .free && row0 < k.row0 + k.nrows && k.row0 < row0 + nrows
/-- GiB of DRAM in the shares of the partitions that are not free. -/
def State.sharesUsed (s : State) : Nat := s.parts.foldl (fun n k => if k.2.state == .free then n else n + k.2.share) 0
/-- The first free GiB units for a share (log 15). -/
def State.freeUnits (s : State) (n : Nat) : List Nat :=
  let used := s.parts.flatMap fun k => k.2.units
  ((List.range 536).filter fun u => !used.contains u).take n
/-- A set-up the management core refuses. -/
def State.setUpRefused (s : State) (p row0 nrows share : Nat) : Bool :=
  s.fatal.isSome || 24 < row0 + nrows || s.parts.any (fun k => k.2.rowsMeet row0 nrows) || 536 < s.sharesUsed + share ||
    (s.code == 1 && (p != 0 || nrows != 24)) || (s.part p).state != .free || nrows == 0 || share == 0

/-- The rows and the share of a partition are zeroed. -/
def State.zeroRows (s : State) (row0 nrows : Nat) (units : List Nat) : State :=
  let inRows (cl : Nat) : Bool := row0 ≤ cl / 16 && cl / 16 < row0 + nrows
  let mine (pa : Nat) : Bool := (unitOf pa).any units.contains
  { s with
    clusters := s.clusters.filter fun k => !inRows k.1
    cores := s.cores.filter fun k => !inRows (k.1 / 16)
    ctxs := s.ctxs.filter fun k => !inRows (clusterOf k.1)
    scratch := s.scratch.filter fun c => !inRows (c.1 / 4194304)
    dram := s.dram.filter fun c => !mine c.1
    poison := s.poison.filter fun n => !mine (64 * n) }

/-- A set-up command (R331). -/
def execPdescSetUp (p row0 nrows : Nat) (s : State) : Out :=
  let d1 := s.fn0Word (0x20008 + 16 * p)
  let share := bits d1 0 10
  if 16 ≤ p || s.bootStage != 5 then .next s
  else if s.setUpRefused p row0 nrows share then .next (s.modPart p fun k => { k with err := true })
  else
    let units := s.freeUnits share
    let s1 := s.zeroRows row0 nrows units
    let new : Part :=
      { state := .ready, row0 := row0, nrows := nrows, setAt := s.clock, pool := bits d1 32 32, share := share, units := units
        last := (s.part p).last.set 0xFFFF 1 }
    let s2 := s1.setPart p new
    let (cl, s3) := s2.homeOf p sysImage
    let code := postcode s.device p 0xFFFF 1
    .next (s3.modPart p fun k => { k with actors := k.actors.set 0xFFFF (newActor code sysImage 0 cl k.specMax [] none) })

/-! ## Stopping an interface (R294, R331, R402, R408, R410) -/

/-- A dump of a partition that leaves RUN while it is written stops (R410). -/
def Part.dumpState (k : Part) : Nat := bits (k.word 0x610) 0 4
def Part.setDump (k : Part) (n : Nat) : Part := k.setWord 0x610 (setBits (k.word 0x610) 0 4 n)
def State.leaveRun (s : State) (p : Nat) : State :=
  let n := (s.part p).dumpState
  if n = 2 || (n = 1 && s.dumps.any fun d => d.part == some p && d.ready) then
    { s.modPart p fun k => k.setDump (if n = 2 then 6 else 5) with dumps := s.dumps.filter fun d => d.part != some p }.post .dumpWrite
  else s

/-- Every activation of a partition is gone. -/
def State.endActs (s : State) (p : Nat) : State :=
  ((s.acts.filter fun a => a.2.p == p).map Prod.fst).foldl (fun st n => st.removeAct n) s
/-- Nobody's exit waits for children: every actor goes, and kills go to the children on other devices (R370). -/
def State.dismiss (s : State) (p : Nat) : State :=
  let one (st : State) (w : Nat × Actor) : State :=
    let far := w.2.children.filter fun c => pcDevice c.code != s.device
    (far.reverse.foldl (fun st c => (st.sendKill p c.code w.2.code true).letGo p w.2.code c.code) st).modActor p w.1 fun w =>
      { w with children := [] }
  (s.part p).actors.foldl one s
/-- Every actor of a partition is reclaimed, with KILLED and a null origin (R364), in ascending number of its die (R26); a fatal one goes
without a word (R406). -/
def State.endActors (s : State) (p : Nat) : State :=
  if (s.part p).fatal.isSome then
    { s with served := s.served.filter fun e => e.2.1 != p }.modPart p fun k => { k with actors := [], groups := [], reserved := [] }
  else
    let ws := (List.range 4).flatMap fun d => (s.part p).actors.filter fun w => dieOfCluster w.2.cluster == d
    (ws.map Prod.fst).foldl (fun st slot => (st.exitActor p slot { reason := 1 } none).checkExit p slot) (s.dismiss p)
/-- The stop of R294: activations abort and actors are reclaimed before it completes. -/
def State.stopInterface (s : State) (p : Nat) : State :=
  let s1 := ((s.leaveRun p).endActs p).endActors p
  s1.modPart p fun k => { k with tdisp := .unlocked, measure6 := none }

/-- A tear-down command (R331, R408). -/
def execPdescTearDown (p : Nat) (s : State) : Out :=
  let k := s.part p
  let frozen := k.fatal.isSome && !(3 ≤ k.dumpState && k.dumpState ≤ 6)
  if 16 ≤ p then .next s
  else if k.state != .ready || frozen then .next (s.modPart p fun k => { k with err := true })
  else
    let s1 := s.stopInterface p
    .next (s1.setPart p { last := (s1.part p).last })

/-! ## TDISP (R294, R402) -/

/-- Response codes of TDISP messages, taken from the PCIe standard (log 28). -/
def tdispAnswer (s : State) (p code : Nat) (data : List Byte) : State := s.emit (.tdisp p code data)
def Tdisp.number (t : Tdisp) : Nat :=
  match t with
  | .unlocked => 0
  | .configLocked => 1
  | .run => 2
  | .error => 3
/-- A request of the interface that its function does not have: a GX4-M576 has no TDISP (R2, R286). -/
def State.tdispOn (s : State) (p : Nat) : Bool := s.code != 1 && (s.part p).state == .ready
/-- An answer where the interface exists, and an error where it does not. -/
def State.onTdisp (s : State) (p : Nat) (f : State → State) : Out :=
  if s.tdispOn p then .next (f s) else .next (tdispAnswer s p 0x7F [])

/-- What measurement 6 covers: rows, BAR layout (R286), pod mask (R293, R294). -/
def Part.configBytes (k : Part) : List Byte :=
  [BitVec.ofNat 8 k.row0, BitVec.ofNat 8 k.nrows] ++ bytesOf 8 65536 ++ bytesOf 8 65536 ++ bytesOf 8 (2 ^ 32) ++
    (List.range 8).flatMap fun i => bytesOf 8 (k.word (0x100 + 8 * i)).toNat

def execGetTdispVersion (p : Nat) (s : State) : Out := s.onTdisp p fun s => tdispAnswer s p 1 []
def execGetTdispCapabilities (p : Nat) (s : State) : Out := s.onTdisp p fun s => tdispAnswer s p 2 []
def execLockInterfaceRequest (p : Nat) (s : State) : Out :=
  s.onTdisp p fun s =>
    if (s.part p).tdisp == .unlocked then
      tdispAnswer (s.modPart p fun k => { k with tdisp := .configLocked, measure6 := some k.configBytes }) p 3 []
    else tdispAnswer s p 0x7F []
/-- The report lists the three BARs by size and the MSI-X table, by vector (log 28). -/
def execGetDeviceInterfaceReport (p : Nat) (s : State) : Out :=
  s.onTdisp p fun s => tdispAnswer s p 4 (bytesOf 8 65536 ++ bytesOf 8 65536 ++ bytesOf 8 (2 ^ 32) ++
    (List.range 4).flatMap fun i => bytesOf 8 (s.msixRead p (8 * i)).toNat)
def execGetDeviceInterfaceState (p : Nat) (s : State) : Out :=
  s.onTdisp p fun s => tdispAnswer s p 5 [BitVec.ofNat 8 (Tdisp.number (s.part p).tdisp)]
def execStartInterfaceRequest (p : Nat) (s : State) : Out :=
  s.onTdisp p fun s =>
    if (s.part p).tdisp == .configLocked then
      tdispAnswer ((s.modPart p fun k => { k with tdisp := .run }).payNotices p (s.part p).owed.length) p 6 []
    else tdispAnswer s p 0x7F []
def execStopInterfaceRequest (p : Nat) (s : State) : Out :=
  s.onTdisp p fun s => tdispAnswer (s.stopInterface p) p 7 []

/-- An IDE integrity failure (R402): on a selective stream, that partition's interface goes to ERROR with a kind-35 record; on the link
stream, function 0 loses its session and keys. -/
def execIdeIntegrityFailure (stream : Option Nat) (s : State) : Out :=
  match stream with
  | none => .next { s with fn0Session := false, ideOn := false, spdm := s.spdm.erase 0 }
  | some p =>
    if s.tdispOn p then
      let s1 := { s.leaveRun p with ide := setBit s.ide p false }.modPart p fun k => { k with tdisp := .error }
      .next (s1.note p (mkRecord s.now 35 0 0 0 0 0 3 (BitVec.ofNat 64 p) 0 0 0 0))
    else .next s

/-! ## SPDM (R292, R293, R402) -/

/-- Function 0, and function p + 1 of a partition that is set up, hold a responder. -/
def State.hasFn (s : State) (fn : Nat) : Bool := fn == 0 || (s.part (fn - 1)).state == .ready
/-- A request whose place in the exchange is right is answered; another gets an error (log 28). -/
def State.onSpdm (s : State) (fn code : Nat) (ok : Spdm → Bool) (f : Spdm → Spdm) (data : List Byte) : Out :=
  let q := s.spdm.get fn {}
  if s.hasFn fn && ok q then .next ({ s with spdm := s.spdm.set fn (f q) }.emit (.spdm fn code data))
  else .next (s.emit (.spdm fn 0x7F []))

/-- The fuse state that measurement 5 covers: ordering code, sr.ver, sr.feat (R293). -/
def State.fuseBytes (s : State) : List Byte := [BitVec.ofNat 8 s.code] ++ bytesOf 8 srVer.toNat ++ bytesOf 8 s.srFeat.toNat
/-- The digest in a measurement block: what was entered at the last reset; zero where a stopped bring-up entered none (R325, R326). -/
def State.measured (s : State) (i : Nat) : BitVec 384 :=
  match s.measures.find? i with
  | some d => d
  | none => if s.bootReason != 0 then 0 else if i = 5 then Config.sha384 s.fuseBytes else Config.measure i
/-- The blocks a function reports: 1 to 5, and 6 on its own partition's function. -/
def State.measurements (s : State) (fn : Nat) : List Byte :=
  ((List.range 5).flatMap fun i => bytesOf 48 (s.measured (i + 1)).toNat) ++
    (if fn = 0 then [] else bytesOf 48 (Config.sha384 (((s.part (fn - 1)).measure6).getD (s.part (fn - 1)).configBytes)).toNat)

/-- One version entry, SPDM 1.3, as the answer of GET_VERSION lists it (log 28). -/
def spdmVersions : List Byte := [0, 1] ++ bytesOf 2 0x1300
def execGetVersion (fn : Nat) (s : State) : Out := s.onSpdm fn 0x04 (fun _ => true) (fun _ => { version := true }) spdmVersions
def execGetCapabilities (fn : Nat) (s : State) : Out := s.onSpdm fn 0x61 (fun q => q.version) (fun q => { q with caps := true }) []
/-- The algorithms of R293, numbered for the answer of NEGOTIATE_ALGORITHMS (log 28). -/
inductive Algorithm where
  | sha384 | ecdsaBrainpool384 | ecdheP384 | aes256gcm
  deriving DecidableEq, Repr
inductive AlgorithmUse where
  | hash | measurements | signatures | keyExchange | securedMessages
  deriving DecidableEq, Repr
/-- The algorithm table of R293. -/
def algorithmTable : List (AlgorithmUse × Algorithm) :=
  [(.hash, .sha384), (.measurements, .sha384), (.signatures, .ecdsaBrainpool384), (.keyExchange, .ecdheP384), (.securedMessages, .aes256gcm)]
def Algorithm.number (a : Algorithm) : Byte :=
  match a with
  | .sha384 => 1
  | .ecdsaBrainpool384 => 2
  | .ecdheP384 => 3
  | .aes256gcm => 4
def execNegotiateAlgorithms (fn : Nat) (s : State) : Out :=
  s.onSpdm fn 0x63 (fun q => q.caps) (fun q => { q with algs := true }) (algorithmTable.map fun r => r.2.number)
/-- The digest of the certificate chain, and the chain (log 11). -/
def execGetDigests (fn : Nat) (s : State) : Out :=
  s.onSpdm fn 0x01 (fun q => q.algs) id (bytesOf 48 (Config.sha384 Config.certificate).toNat)
def execGetCertificate (fn : Nat) (s : State) : Out := s.onSpdm fn 0x02 (fun q => q.algs) id Config.certificate
/-- The answer is signed with the device identity key over the nonce and the measurements. -/
def execChallenge (fn : Nat) (nonce : BitVec 256) (s : State) : Out :=
  let sig := Config.sign (Config.sha384 (bytesOf 32 nonce.toNat ++ s.measurements fn))
  s.onSpdm fn 0x03 (fun q => q.algs) id (bytesOf 96 sig.toNat)
def execGetMeasurements (fn : Nat) (s : State) : Out := s.onSpdm fn 0x60 (fun q => q.algs) id (s.measurements fn)
/-- The answer holds the device's share of the exchange, signed with the identity key; the share is a free value (log 11). -/
def execKeyExchange (fn : Nat) (s : State) : Out :=
  let share := Config.share s.free
  { s with free := s.free + 1 }.onSpdm fn 0x64 (fun q => q.algs) (fun q => { q with session := true, finished := false })
    (share ++ bytesOf 96 (Config.sign (Config.sha384 share)).toNat)
/-- A secured session stands. Only a session on function 0 programs keys, and function 0 answers once the link stream has some (R292, R402;
log 95). -/
def execFinish (fin : SessionFinish) (s : State) : Out :=
  let ok := fin.fn = 0 && (s.spdm.get fin.fn {}).session
  let link := ok && fin.keyed.contains none
  let s1 := { s with
    fn0Session := s.fn0Session || link
    ideOn := s.ideOn || link
    ide := if ok then (fin.keyed.filterMap id).foldl (fun m p => setBit m p true) s.ide else s.ide }
  s1.onSpdm fin.fn 0x65 (fun q => q.session) (fun q => { q with finished := true }) []
def execEndSession (fn : Nat) (s : State) : Out :=
  s.onSpdm fn 0x6C (fun q => q.session) (fun q => { q with session := false, finished := false }) []

/-! ## Firmware and reset (R325 to R327) -/

/-- A firmware image is accepted when its signature and its security version stand (R326). -/
def State.accepts (s : State) (f : Firmware) : Bool :=
  Config.verifies (Config.sha384 f.bytes) f.signature && s.minVersion.toNat ≤ f.version.toNat

/-- An update is verified as it arrives and kept for the next reset (R327). -/
def execFirmwareUpdate (fw : Firmware) (s : State) : Out :=
  if s.accepts fw then .next { s with updates := s.updates ++ [fw] } else .next s

/-- Why an image of the flash is rejected: its signature, or its security version (R326). -/
def imageBad (flash : Tbl Firmware) (min : BitVec 16) (i : Nat) : Option Nat :=
  let (signed, version) := match flash.find? i with
    | some f => (Config.verifies (Config.sha384 f.bytes) f.signature, f.version)
    | none => (Config.shippedSigned i, Config.shippedVersion i)
  if !signed then some 1 else if version.toNat < min.toNat then some 2 else none
/-- The bring-up (R325, R326): the stage and the reason it stops with, and how many measurement blocks are entered. -/
def bringUp (flash : Tbl Firmware) (min : BitVec 16) (q : Stage1) : Nat × Nat × Nat :=
  if !q.fuses then (1, 4, 0)
  else if !q.trained then (1, 3, 0)
  else
    match imageBad flash min 2, imageBad flash min 3, imageBad flash min 4 with
    | some r, _, _ => (2, r, 1)
    | none, some r, _ => (3, r, 2)
    | none, none, some r => (3, r, 3)
    | none, none, none => (5, 0, 5)
/-- The updates applied at a reset, in the order they came: the flash and the fused minimum (R327). -/
def applyUpdates (flash : Tbl Firmware) (min : BitVec 16) (fs : List Firmware) : Tbl Firmware × BitVec 16 :=
  fs.foldl (fun x f => (x.1.set f.index f, if f.raise && x.2.toNat < f.version.toNat then f.version else x.2)) (flash, min)

/-- A reset with its bring-up: all five stages, or a stop at a stage with its reason (R325, R326). What the part keeps is its ordering code, its fused minimum and its flash, with the updates applied; free values go on. -/
def execReset (stage1 : Stage1) (s : State) : Out :=
  let (flash, min) := applyUpdates s.flash s.minVersion s.updates
  let (stage, reason, blocks) := bringUp flash min stage1
  let digest (i : Nat) : BitVec 384 :=
    if i = 5 then Config.sha384 s.fuseBytes
    else match flash.find? i with
      | some f => Config.sha384 f.bytes
      | none => Config.measure i
  .next { State.reset with
    code := s.code
    flash := flash
    minVersion := min
    measures := (List.range blocks).map fun i => (i + 1, digest (i + 1))
    bootStage := stage
    bootReason := reason
    free := s.free
    serial := s.serial }

/-! ## Platform monitoring (R333) -/

/-- The sensors of PLDM for Platform Monitoring and Control. -/
inductive Sensor where
  | power
  | junction (die : Nat)
  | coolant
  | bootstat
  deriving DecidableEq, Repr
/-- What a sensor reads, in W, in °C, or as the register; the coolant inlet's temperature is a free value (log 34). -/
def State.sensor (s : State) (q : Sensor) : Word × State :=
  match q with
  | .power => (BitVec.ofNat 64 s.power.toNat, s)
  | .junction d => (BitVec.ofNat 64 (s.temps.getD d 0), s)
  | .coolant => s.anyWord
  | .bootstat => (s.bootstat, s)

/-! ## Power and heat (R328 to R330) -/

/-- A cap within 800 W and the limit of the ordering code (R330). -/
def execPwrcap (cap : BitVec 12) (s : State) : Out :=
  .next (s.setFn0 0x800 (BitVec.ofNat 64 (max 800 (min s.limit cap.toNat))))
/-- Every 10 ms: `watts` is what the device would draw on average without gating; gating is in force while that stands above the cap, and holds
the average at the cap (R329; log 34). -/
def execPowerAverageUpdate (watts : BitVec 16) (s : State) : Out :=
  let cap := (s.fn0Word 0x800).toNat % 4096
  .next { s with power := BitVec.ofNat 16 (min watts.toNat cap), gating := if cap < watts.toNat then 0xF else 0 }
/-- A junction temperature: gating of its die from 95 °C, device fatal at 110 °C. -/
def execJunctionTemperature (die celsius : Nat) (s : State) : Out :=
  let s1 := { s with hot := setBit s.hot die (95 ≤ celsius), temps := setAt s.temps die celsius }
  .next (if 110 ≤ celsius then s1.post (.fatalCondition 19 none die 0 0) else s1)

/-! ## Checks of the service and management cores (R403, R405) -/

/-- Misses in a row of each die, by its answer. -/
def countMisses (missed : List Nat) (answered : BitVec 4) : List Nat :=
  missed.mapIdx fun d n => if answered.getLsbD d then 0 else n + 1
/-- Partitions that exist. -/
def State.liveParts (s : State) : List Nat := (s.parts.filter fun k => k.2.state != .free).map Prod.fst

/-- A letter the core has issued, whose fate it does not know yet, has code FAILED (R403), whatever becomes of it. -/
def State.loseIssued (s : State) (die : Nat) : State :=
  let its (e : Event) : Option (Nat × Nat × Nat) := match e with
    | .letterArrival p l (some (slot, seq)) => if l.sender == s.hostSender p die then some (p, slot, seq) else none
    | _ => none
  let bare (e : Event) : Event := match e with
    | .letterArrival p l (some _) => if (its e).isSome then .letterArrival p l none else e
    | e => e
  let all := s.timers.filterMap (fun t => its t.2) ++ s.agenda.filterMap its
  all.foldl (fun st x => st.setLwstat x.1 x.2.1 x.2.2 6)
    { s with timers := s.timers.map fun t => (t.1, bare t.2), agenda := s.agenda.map bare }
/-- A service core has failed: die 0's takes over its quadrant, every partition learns of it, the letters it held have code FAILED, and the
memory requests it held are not performed; such a read has no completion (log 66). -/
def State.failService (s0 : State) (die : Nat) : State :=
  let s := s0.loseIssued die
  let s1 := { s with scFailed := setBit s.scFailed die true }
  let s2 := s1.liveParts.foldl (fun st p => st.note p (mkRecord s.now 36 0 0 0 0 0 (BitVec.ofNat 64 die) 0 0 0 0 0)) s1
  let s3 := { s2 with svc := s2.svc.erase die }
  (s2.svc.get die []).foldl (fun st x => match x.work with
    | .letter p slot seq l => st.loseHeld p slot l die seq
    | .line n => st.endRequest n) s3
/-- Every 100 µs: a core that misses three checks has failed; that of die 0 makes the device fatal. -/
def execServiceCoreCheck (answered : BitVec 4) (s : State) : Out :=
  let s1 := { s with scMissed := countMisses s.scMissed answered }
  let gone := (List.range 4).filter fun d => s1.scMissed.getD d 0 == 3 && !s.scFailed.getLsbD d
  .next (gone.foldl (fun st d =>
    if d = 0 then st.post (.fatalCondition 18 none 0 0 0) else st.failService d) s1)
/-- The same of the management cores of dies 1 to 3, whose failure is device fatal. -/
def execManagementCoreCheck (answered : BitVec 4) (s : State) : Out :=
  let s1 := { s with mcMissed := countMisses s.mcMissed answered }
  let gone := [1, 2, 3].filter fun d => s1.mcMissed.getD d 0 == 3
  .next (s1.posts (gone.map fun d => .fatalCondition 20 none d 0 0))

end Sys2Proof.Machine
end

