-- ==== Sys2Proof/Machine/Mesh.lean ====
section
/-! DEFINITION. The mesh below the agents: flits, packets in sequence, resends, refusals of requests that need a forward (R391 to R393). -/

namespace Sys2Proof

open Machine

/-- The event a packet's message is at its destination, or the atomic performed there. -/
def MeshMsg.arrive (m : MeshMsg) (s : State) : State :=
  match m with
  | .letter p l host => s.post (.letterArrival p l host)
  | .atomic op size pa v _ =>
    s.applyAtomic { serials := [], op := op, size := size, pa := pa, v := v, issuers := [], due := s.clock }
  | .kill p t w => s.post (.killPoint p t w)
  | .hostLetter p slot l die seq => s.handOver die (.letter p slot seq l)
  | .franked c m => s.post (.frankedCommandArrival c m)
  | .stomped _ => s
/-- The packet as its source holds it: whole, whatever became of it on its way (R391, R392). -/
def MeshMsg.whole (m : MeshMsg) : MeshMsg :=
  match m with
  | .stomped x => x.whole
  | x => x

end Sys2Proof

namespace Sys2Proof.Machine

/-- The output port of a router towards another: 0 north, 1 east, 2 south, 3 west, 4 its own interface; rows run southwards (R323; log 33). -/
def outPort (from_ to_ : Nat) : Nat :=
  if from_ = to_ then 4 else if to_ + 16 = from_ then 0 else if to_ = from_ + 1 then 1 else if to_ = from_ + 16 then 2 else 3
/-- The router upstream has sent a flit (R323). -/
def State.countFlit (s : State) (router to_ cls : Nat) : State :=
  let i := 16 * router + 3 * outPort router to_ + cls % 3
  { s with flits := s.flits.set i (s.flits.get i 0 + 1) }

/-- A router holds the last 32 flits it has sent to another in its link replay buffer (R391). -/
def State.holdFlit (s : State) (router : Nat) (f : FlitFrom) : State :=
  let k := 384 * f.router + router
  { s with linkFlits := s.linkFlits.set k ((f.flit :: s.linkFlits.get k []).take 32) }
/-- A flit (R391). Damaged before forwarding has begun, it comes again from the upstream buffer. Damaged later, it makes the router stomp the
tail of its packet: now if it is the tail, else when the tail comes. -/
def execFlitArrival (router : Nat) (upstream : FlitFrom) (crcOk forwarding tail : Bool) (s : State) : Out :=
  let s1 := (s.countFlit upstream.router router upstream.cls).holdFlit router upstream
  let key := (router, upstream.router, upstream.cls)
  if !crcOk && !forwarding then .next (s1.emit (.replay upstream.router ((s1.linkFlits.get (384 * upstream.router + router) []).headD 0)))
  else if !tail then .next (if crcOk then s1 else { s1 with stomping := key :: s1.stomping.erase key })
  else if !crcOk || s1.stomping.contains key then .next ({ s1 with stomping := s1.stomping.erase key }.emit (.stomp router))
  else .next s1

/-! ## Packets in sequence (R392) -/

def State.meshPair (s : State) (src dst cls : Nat) : MeshPair :=
  ((s.mesh.filter fun m => m.src == src && m.dst == dst && m.cls == cls).head?).getD { src := src, dst := dst, cls := cls }
def State.setMeshPair (s : State) (m : MeshPair) : State :=
  { s with mesh := m :: s.mesh.filter fun x => !(x.src == m.src && x.dst == m.dst && x.cls == m.cls) }

/-! ## Refusals (R393) -/

def State.forward (s : State) (target : Nat) : Forward := ((s.forwards.filter fun f => f.target == target).head?).getD { target := target }
def State.setForward (s : State) (f : Forward) : State :=
  { s with forwards := f :: s.forwards.filter fun x => x.target != f.target }

def Refusing.priority (r : Refusing) : Nat := min r.count 15
/-- The head of the reservation queue: the highest priority, then the earliest refusal. -/
def Forward.head (f : Forward) : Option Refusing :=
  (f.waiting.filter fun r => r.queued).foldl (fun b r =>
    match b with
    | none => some r
    | some x => if x.priority < r.priority || (x.priority == r.priority && r.first < x.first) then some r else b) none
/-- A refusal: counted, in the queue of sixteen while it has room, retried after 64 × 2^min(a, 4) cycles. -/
def State.refuseRequest (s : State) (f : Forward) (r : Refusing) : State :=
  let r1 := { r with count := r.count + 1, queued := r.queued || (f.waiting.filter Refusing.queued).length < 16 }
  let f1 := { f with waiting := (f.waiting.erase r) ++ [{ r1 with retryAt := s.clock + 64 * 2 ^ min r1.count 4 }] }
  ((s.setForward f1).emit (.refusal f.target r.requester)).postAt (64 * 2 ^ min r1.count 4) (.refusedRequestRetry f.target r.requester)
/-- A request that needs a forward meets the target: whether an entry is free is a free value (log 4). -/
def State.requestForward (s : State) (target : Nat) (r : Refusing) : State :=
  let f := s.forward target
  let isHead := f.head == some r
  let take : State := MeshMsg.arrive r.msg (s.setForward { f with waiting := f.waiting.erase r, heldUntil := none })
  match f.heldUntil with
  | some _ => if isHead then take else s.refuseRequest f r
  | none =>
    let (free, s1) := s.choose
    if !free then s1.refuseRequest f r
    else if f.head.isNone || isHead then { take with free := s1.free }
    else
      let f1 := { f with heldUntil := some (s.clock + 8192) }
      ((s1.setForward f1).postAt 8192 (.reservationHoldExpiry target)).refuseRequest f1 r

/-- The packets a source holds unacknowledged, in sequence. -/
def insertPacket (expect : BitVec 12) (q : Packet) (ps : List Packet) : List Packet :=
  match ps with
  | [] => [q]
  | p :: r => if (q.seq - expect).toNat < (p.seq - expect).toNat then q :: p :: r else p :: insertPacket expect q r
/-- A packet is discarded at its destination: its source holds it still, and resends it after 4,096 cycles. -/
def State.discardPacket (s : State) (m : MeshPair) (seq : BitVec 12) (needsForward : Bool) (msg : MeshMsg) : State :=
  if m.replay.any (fun p => p.seq == seq) then s
  else
    (s.setMeshPair { m with replay := insertPacket m.expect ⟨seq, needsForward, msg.whole, s.clock, 0⟩ m.replay }).postAt 4096
      (.packetResendTimeout m.src m.dst m.cls)

/-- A packet reaches an interface: discarded if it is stomped (R391), performed when it is the next, dropped as a duplicate, or discarded. -/
def execMeshPacketArrival (src dst cls : Nat) (seq : BitVec 12) (needsForward : Bool) (msg : MeshMsg) (s : State) : Out :=
  let m := s.meshPair src dst cls
  if msg != msg.whole then .next (s.discardPacket m seq needsForward msg)
  else if seq = m.expect then
    let m1 := { m with expect := m.expect + 1, replay := m.replay.filter fun p => p.seq != seq }
    let s1 := (s.setMeshPair m1).emit (.meshAck src dst cls seq)
    if needsForward then .next (s1.requestForward dst { requester := src, count := 0, first := s.clock, queued := false, msg := msg })
    else .next (MeshMsg.arrive msg s1)
  else if 2048 ≤ (seq - m.expect).toNat then
    .next ((s.setMeshPair { m with replay := m.replay.filter fun p => p.seq != seq }).emit (.meshAck src dst cls seq))
  else .next (s.discardPacket m seq needsForward msg)

/-- A packet not acknowledged for 4,096 cycles goes again, with every later one of its pair and class, in sequence; the seventeenth time is
device fatal. -/
def execPacketResendTimeout (src dst cls : Nat) (s : State) : Out :=
  let m := s.meshPair src dst cls
  let fresh := m.replay.takeWhile fun q => s.clock < q.sentAt + 4096
  let late := m.replay.dropWhile fun q => s.clock < q.sentAt + 4096
  if late.isEmpty then .next s
  else if late.any fun q => 16 ≤ q.resends then .next (s.post (.fatalCondition 17 none 0 0 0))
  else
    let m1 := { m with replay := fresh ++ late.map fun q => { q with resends := q.resends + 1, sentAt := s.clock } }
    let again := late.map fun q => Event.meshPacketArrival src dst cls q.seq q.needsForward q.msg
    .next (((s.setMeshPair m1).posts again).postAt 4096 (.packetResendTimeout src dst cls))

/-- A refused requester comes again. -/
def execRefusedRequestRetry (target requester : Nat) (s : State) : Out :=
  match ((s.forward target).waiting.filter fun r => r.requester == requester && r.retryAt ≤ s.clock).head? with
  | none => .next s
  | some r => .next (s.requestForward target r)

/-- The hold of a freed entry for the head of the queue ends. -/
def execReservationHoldExpiry (target : Nat) (s : State) : Out :=
  let f := s.forward target
  match f.heldUntil with
  | some t => if t ≤ s.clock then .next (s.setForward { f with heldUntil := none }) else .next s
  | none => .next s

end Sys2Proof.Machine
end

