-- ==== Sys2Proof/Machine/Fabric.lean ====
section
/-! DEFINITION. The rotor fabric: opportunities, items and their sequence, credit words, reads, refusals, the loss of a device (R297 to R304,
R339, R340, R394 to R400). -/

namespace Sys2Proof

open Machine

/-- Bytes of an opportunity that work uses (R339); the answers and requests of the agents take a letter's or a word's (log 29). -/
def FabWork.size (w : FabWork) : Nat :=
  match w with
  | .write _ d => d.length
  | .red _ _ d => d.length
  | .signal _ _ => 8
  | .letter _ _ => 256
  | .readReq _ _ _ _ => 16
  | .readResp _ d _ _ => d.length
  | .refusal _ _ _ _ => 16
  | .remote _ => 64

def FabWork.addr (w : FabWork) : Word :=
  match w with
  | .write a _ => a
  | .red _ a _ => a
  | .signal a _ => a
  | .readReq _ a _ _ => a
  | _ => 0

/-- The data bytes that work carries. -/
def FabWork.data (w : FabWork) : List Byte :=
  match w with
  | .write _ d => d
  | .red _ _ d => d
  | .readResp _ d _ _ => d
  | _ => []
def FabWork.withBytes (w : FabWork) (d : List Byte) : FabWork :=
  match w with
  | .write a _ => .write a d
  | .red op a _ => .red op a d
  | .readResp n _ den c => .readResp n d den c
  | w => w

/-- Where an item stands in the order of R300 in an opportunity with a peer: ordered, relaxed for it, of the relay pool, relayed through it. -/
def FabItem.rank (i : FabItem) (device peer : Nat) : Nat :=
  if !i.relaxed then 0 else if i.src != device then 2 else if i.dst = peer then 1 else 3

/-- Work of a posted command (R242). -/
def FabWork.posted (w : FabWork) : Bool :=
  match w with
  | .write _ _ => true
  | .red _ _ _ => true
  | .signal _ _ => true
  | _ => false

end Sys2Proof

namespace Sys2Proof.Machine

/-! ## Slots and ports (R297, R298) -/

/-- Slots in a rotation, slot and guard lengths in cycles of 2/3 ns. -/
def State.nslots (s : State) : Nat := bits (s.fn0Word 0x10000) 42 6 + 1
def State.slotLen (s : State) : Nat := 15 * bits (s.fn0Word 0x10000) 0 12
def State.guardLen (s : State) : Nat := 15 * bits (s.fn0Word 0x10000) 24 8
/-- Cycles since slot 0 of rotation 0 began, once it has. -/
def State.sinceEpoch (s : State) : Option Nat :=
  let e := (s.fn0Word 0x10008).toNat
  if e ≤ s.now then some (s.now - e) else none
/-- The number of the slot in progress, from rotation 0 on. -/
def State.slotNumber (s : State) : Nat := (s.sinceEpoch.getD 0) / max 1 s.slotLen
def State.rotation (s : State) : Nat := s.slotNumber / s.nslots

/-- Lanes of a port in use, times its lane rate in Gb/s; 0 for a port not in use. -/
def State.portRate (s : State) (port : Nat) : Nat :=
  let w := s.fn0Word (0x10100 + 8 * port)
  let lanes := bits w 0 4
  if 32 ≤ port || !s.fabricOn || !w.getLsbD 7 || lanes = 0 || 8 < lanes then 0
  else lanes * (if w.getLsbD 6 then 25 else 100)
/-- The peer a port meets in a slot. -/
def State.slotPeer (s : State) (port slot : Nat) : Option Nat :=
  let w := s.fn0Word (0x12000 + 4 * (64 * port + slot))
  if s.portRate port != 0 && slot < s.nslots && w.getLsbD 31 then some (bits w 0 9) else none
/-- A device this device meets directly. -/
def State.meets (s : State) (b : Nat) : Bool :=
  (List.range 32).any fun p => (List.range s.nslots).any fun n => s.slotPeer p n == some b
/-- Cycles since the data time of the slot began. -/
def State.dataTime (s : State) : Nat := s.sinceEpoch.getD 0 % max 1 s.slotLen - s.guardLen
/-- When the next byte of a port can begin to leave, in twelfths of a byte time: behind the last one given to the lanes, and not in the past
(R340). 12 cycles of one Gb/s carry one byte. -/
def State.lane (s : State) (port : Nat) : Nat :=
  match s.ports.find? port with
  | some x => if x.number = s.slotNumber then max x.cursor (s.dataTime * s.portRate port) else s.dataTime * s.portRate port
  | none => s.dataTime * s.portRate port
/-- Bytes that can still leave in the slot (R298, R340). -/
def State.roomLeft (s : State) (port : Nat) : Nat := ((s.slotLen - s.guardLen) * s.portRate port - s.lane port) / 12

/-! ## Link error counts (R395) -/

/-- One of the counts of a port rises, saturating. -/
def State.linkErr (s : State) (port lo n : Nat) : State :=
  if n = 0 then s
  else
    let w := s.fn0Word (0x14000 + 8 * port)
    s.setFn0 (0x14000 + 8 * port) (setBits w lo 16 (min (bits w lo 16 + n) 0xFFFF) ||| 1)

/-- A valid frame has come from a peer by a port: the opportunity of that port is not silent (R395), the peer is not missing (R396). -/
def State.hear (s : State) (port b : Nat) : State :=
  { s with
    ports := s.ports.modify port fun x => if x.peer == b then { x with heard := true } else x
    peers := s.peers.set b { s.peers.get b {} with heard := true } }

/-! ## Credit words (R301, R394) -/

/-- Devices of the pod: those some partition's pod mask names, and this one (log 30). -/
def State.podSize (s : State) : Nat :=
  ((List.range 512).filter fun b => b == s.device || s.parts.any fun k => k.2.state != .free && k.2.podBit b).length
/-- The relay credit granted to each peer. -/
def State.grant (s : State) : Nat := if s.podSize ≤ 1 then 0 else 33554432 / (s.podSize - 1) / 64 * 64
/-- The bitmap of relaxed sequences received, with its base. DESIGN CHOICE (log 108): the base is the last one received, so that one that comes
late or again is acknowledged whatever its distance from the others. -/
def relaxedMap (got : List (BitVec 32)) : BitVec 32 × BitVec 64 :=
  let base := got.getLast?.getD 0
  (base, (List.range 64).foldl (fun m i => if got.contains (base - BitVec.ofNat 32 i) then m ||| (1#64 <<< i) else m) 0)
/-- A relaxed sequence received, now or again. One that lies half the numbers or more behind the newest is forgotten: its number is a new one's. -/
def gotSeq (got : List (BitVec 32)) (q : BitVec 32) : List (BitVec 32) :=
  let newest := got.foldl (fun h x => if (x - h).toNat < 2 ^ 31 then x else h) q
  (got.filter fun x => x != q && (newest - x).toNat < 2 ^ 31) ++ [q]
def State.creditWord (s : State) (port b : Nat) : Output :=
  let pr := s.peers.get b {}
  let (base, map) := relaxedMap pr.gotRelaxed
  .credit port b (s.grant - pr.used) (BitVec.ofNat 32 (pr.expectOrdered + 2 ^ 32 - 1)) base map s.lostmask

/-! ## Sending (R299 to R301, R340) -/

/-- What an opportunity has sent so far. -/
structure Sending where
  room : Nat
  out : List FabItem
  resent : Nat
  deriving DecidableEq, Repr

/-- Ordered bytes from the head of the queue, cut at any byte (R300). -/
def sendOrdered (slot : Nat) (qs : List Queued) (x : Sending) : List Queued × Sending :=
  match qs with
  | [] => ([], x)
  | q :: r =>
    if q.sentAt.isSome then
      let (r1, x1) := sendOrdered slot r x
      (q :: r1, x1)
    else
      let n := min (q.size - q.item.sent) x.room
      let item := { q.item with sent := q.item.sent + n }
      let whole := item.sent = q.size
      if n = 0 && !whole then (q :: r, x)
      else
        let x1 : Sending :=
          { room := x.room - n, out := x.out ++ [{ item with first := q.item.sent }], resent := x.resent + (if q.again then 1 else 0) }
        let q1 := { q with item := item, sentAt := if whole then some slot else none, again := false }
        if whole then
          let (r1, x2) := sendOrdered slot r x1
          (q1 :: r1, x2)
        else (q1 :: r, x1)

/-- Relaxed items that fit whole (R300); `fits` is the room a relay credit leaves. -/
def sendRelaxed (slot : Nat) (qs : List Queued) (credit : Nat) (x : Sending) : List Queued × Nat × Sending :=
  match qs with
  | [] => ([], credit, x)
  | q :: r =>
    if q.sentAt.isNone && q.size ≤ x.room && q.size ≤ credit then
      let item := { q.item with sent := q.size }
      let x1 : Sending := { room := x.room - q.size, out := x.out ++ [item], resent := x.resent + (if q.again then 1 else 0) }
      let (r1, c, x2) := sendRelaxed slot r (credit - q.size) x1
      ({ q with item := item, sentAt := some slot, again := false } :: r1, c, x2)
    else
      let (r1, c, x1) := sendRelaxed slot r credit x
      (q :: r1, c, x1)

/-- Items of the relay pool that fit whole leave, and their credit is restored. -/
def sendRelay (items : List FabItem) (x : Sending) : List FabItem × List FabItem × Sending :=
  match items with
  | [] => ([], [], x)
  | i :: r =>
    let n := FabWork.size i.work
    if n ≤ x.room then
      let (left, gone, x1) := sendRelay r { x with room := x.room - n, out := x.out ++ [i] }
      (left, i :: gone, x1)
    else
      let (left, gone, x1) := sendRelay r x
      (i :: left, gone, x1)

/-- Relaxed items for other devices, relayed through a peer with credit for each whole (R301). -/
def State.sendThrough (s : State) (b slot : Nat) (ds : List Nat) (x : Sending) : State × Sending :=
  match ds with
  | [] => (s, x)
  | d :: r =>
    if d == b || s.lostmask.getLsbD d then s.sendThrough b slot r x
    else
      let pd := s.peers.get d {}
      let pb := s.peers.get b {}
      let (q, c, x1) := sendRelaxed slot pd.relaxed pb.credit x
      let s1 := { s with peers := (s.peers.set b { pb with credit := c }).set d { pd with relaxed := q } }
      s1.sendThrough b slot r x1

/-- Relaxed items sent in a slot are sent again after two rotations without acknowledgement (R394). -/
def State.watchRelaxed (s : State) (items : List FabItem) : State :=
  let two := 2 * s.nslots * s.slotLen
  (items.filter fun i => i.relaxed && i.src == s.device).foldl (fun st i => st.postAt two (.relaxedResendTimeout i.dst i.seq)) s

/-- An item given to the lanes has not been sent. -/
def Queued.back (q : Queued) : Queued := { q with item := { q.item with sent := 0 }, sentAt := none }
/-- A relaxed item of a silent opportunity goes back: one of this device to its queue, a relayed one to the pool, whose bytes it uses again. -/
def State.unsend (s : State) (peer : Nat) (i : FabItem) : State :=
  if i.src == s.device then
    { s with peers := s.peers.modify i.dst fun k => { k with relaxed := k.relaxed.map fun q => if q.item.seq == i.seq then q.back else q } }
  else
    let s1 := { s with peers := s.peers.modify peer fun k => { k with relay := k.relay ++ [i] } }
    { s1 with peers := s1.peers.modify i.src fun k => { k with used := k.used + FabWork.size i.work } }
/-- A silent opportunity is counted and moves nothing: the ordered items not acknowledged and the relaxed items given to it stay queued (R395). -/
def State.silent (s : State) (port : Nat) (x : PortSlot) : State :=
  let s1 := s.linkErr port 48 1
  x.given.foldl (fun st i => st.unsend x.peer i)
    { s1 with peers := s1.peers.modify x.peer fun k => { k with ordered := k.ordered.map Queued.back } }

/-- The slot a port was in ends: the frames still on its lanes have left by then, and it was silent when no valid frame came (R340, R395). -/
def State.closeSlot (s : State) (port : Nat) (x : PortSlot) : State :=
  let s1 := x.out.foldl (fun st f => st.emit (.frame port x.peer f.2)) { s with ports := s.ports.erase port }
  if x.heard then s1 else s1.silent port x
/-- The slots that are over end. -/
def State.closeSlots (s : State) : State :=
  (s.ports.filter fun k => k.2.number < s.slotNumber).foldl (fun st k => st.closeSlot k.1 k.2) s
/-- The slot of a port opens, once the one it was in has ended. -/
def State.openSlot (s : State) (port _slot peer : Nat) : State :=
  let opened (st : State) : State :=
    { st with ports := st.ports.set port ⟨st.slotNumber, peer, 0, false, 0, [], []⟩ }.emit (st.creditWord port peer)
  match s.ports.find? port with
  | some x => if x.number = s.slotNumber then s else opened (s.closeSlot port x)
  | none => opened s

/-- Frames one behind the other from a place on the lanes, with no gap: each with where its last byte has left (R340). -/
def layFrames (start : Nat) (fs : List FabItem) : List (Nat × FabItem) :=
  match fs with
  | [] => []
  | i :: r => (start + 12 * (i.sent - i.first), i) :: layFrames (start + 12 * (i.sent - i.first)) r
/-- Frames given to the lanes: they join those that have not begun to leave, in the order of R300, behind those that have (R340). -/
def PortSlot.give (x : PortSlot) (device now start : Nat) (fs : List FabItem) : PortSlot :=
  let begins (f : Nat × FabItem) : Nat := f.1 - 12 * (f.2.sent - f.2.first)
  let begun := x.out.filter fun f => begins f < now
  let rest := x.out.filter fun f => !(begins f < now)
  let all := rest.map Prod.snd ++ fs
  let at_ (n : Nat) : List FabItem := all.filter fun i => i.rank device x.peer = n
  if fs.isEmpty then x
  else
    { x with
      cursor := start + 12 * (fs.map fun i => i.sent - i.first).sum
      out := begun ++ layFrames ((rest.head?.map begins).getD start) (at_ 0 ++ at_ 1 ++ at_ 2 ++ at_ 3) }
/-- Frames whose last byte has left by the end of this cycle go out. -/
def State.leave (s : State) (port b : Nat) : State :=
  match s.ports.find? port with
  | none => s
  | some x =>
    let gone (f : Nat × FabItem) : Bool := f.1 ≤ (s.dataTime + 1) * s.portRate port
    (x.out.filter gone).foldl (fun st f => st.emit (.frame port b f.2))
      { s with ports := s.ports.set port { x with out := x.out.filter fun f => !gone f } }

/-- An opportunity: a port and a slot with a valid entry (R298, R300, R340). What stands in the queues is given to the lanes in the order of
R300, as far as the slot has room; work that enters later follows it. -/
def execFabricOpportunity (port slot : Nat) (s : State) : Out :=
  match s.slotPeer port slot with
  | none => .next s
  | some b =>
    let s1 := s.openSlot port slot b
    if s1.lostmask.getLsbD b then .next s1
    else
      let x0 : Sending := { room := s1.roomLeft port, out := [], resent := 0 }
      let pr := s1.peers.get b {}
      let n := s1.slotNumber
      let (ord, x1) := sendOrdered n pr.ordered x0
      let (rel, _, x2) := sendRelaxed n pr.relaxed (2 ^ 40) x1
      let (left, gone, x3) := sendRelay pr.relay x2
      let s2 := { s1 with peers := s1.peers.set b { pr with ordered := ord, relaxed := rel, relay := left } }
      let restore (st : State) (i : FabItem) : State :=
        let po := st.peers.get i.src {}
        { st with peers := st.peers.set i.src { po with used := po.used - FabWork.size i.work } }
      let s3 := gone.foldl restore s2
      let (s4, x4) := s3.sendThrough b n (s3.peers.map Prod.fst) x3
      let sent := x0.room - x4.room
      let s5 := { s4 with ports := s4.ports.modify port fun x =>
        { x.give s1.device (s1.dataTime * s1.portRate port) (s1.lane port) x4.out with
          used := x.used + sent, given := x.given ++ x4.out.filter FabItem.relaxed } }
      .next (((s5.leave port b).linkErr port 16 x4.resent).watchRelaxed x4.out)

/-- An item sent two rotations ago. -/
def State.overdue (s : State) (q : Queued) : Bool := q.sentAt.any fun n => n + 2 * s.nslots ≤ s.slotNumber
/-- A relaxed item not acknowledged within 2 rotations of its last sending is sent again (R394). -/
def execRelaxedResendTimeout (dst : Nat) (seq : BitVec 32) (s : State) : Out :=
  let pr := s.peers.get dst {}
  let again (q : Queued) : Queued := if q.item.seq == seq && s.overdue q then { q.back with again := true } else q
  .next { s with peers := s.peers.set dst { pr with relaxed := pr.relaxed.map again } }

/-! ## Receiving (R300 to R303, R394, R400, R408) -/

/-- A partition takes items of a device (R303, R408). -/
def State.accepts' (s : State) (p src : Nat) : Bool :=
  (s.part p).state == .ready && (s.part p).fatal.isNone && (s.part p).podBit src
/-- The answer to a refused item, on the channel it came by (R400). -/
def State.refuseItem (s : State) (i : FabItem) (cause lost : Nat) : State :=
  s.enqueue i.src i.part i.relaxed 0 0 0 16 (.refusal i.seq i.relaxed (BitVec.ofNat 8 cause) lost)

/-- A message of another device's agents. -/
def State.remoteMsg (s : State) (i : FabItem) (m : RemoteMsg) : State :=
  let p := i.part
  match m with
  | .reserve n img => s.post (.spawnReservationRequest p i.src n img)
  | .reserveReply n ok c => s.post (.spawnReservationReply n ok c)
  | .release c => s.post (.reservationRelease p c)
  | .bear child img spawner sup =>
    let parent := sup.map fun _ => spawner
    match s.birth p img child none parent with
    | .ok s1 => s1.modActor p (pcSlot child) fun w => { w with kept := sup.any (· != .never) }
    | .error r =>
      let s1 := s.modPart p fun k => { k with reserved := k.reserved.erase (pcSlot child) }
      if sup.isSome then s1.enqueue i.src p false child 0 0 64 (.remote (.rebuilt spawner child none (BitVec.ofNat 8 r)))
      else s1.exitLetter 0 spawner child { reason := r }
  | .link a t => s.post (.linkRequestArrival p i.src a t true)
  | .mon a t => s.post (.linkRequestArrival p i.src a t false)
  | .unlink a t => s.dropLink p t a true
  | .demon a t => s.dropLink p t a false
  | .kill t k => s.post (.killPoint p t (.byActor k))
  | .rebuild sup child img => s.post (.remoteRebuildRequest p i.src sup child img false)
  | .killChild sup child => s.post (.remoteRebuildRequest p i.src sup child 0 true)
  | .linkSignal l => s.linkSignal p l.dest l.sender (l.body.extractLsb' 64 8 == 0) l
  | .linkRefused a t r isLink => s.refuseLink p a t r.toNat isLink
  | .rebuilt sup child r reason => s.post (.remoteCompletionReport p sup child r reason)

/-- What becomes of an item in a cycle: performed or refused whole; its first line performed; or a line it touches is locked by a commit. -/
inductive Taken where
  | done (s : State)
  | more (i : FabItem) (s : State)
  | locked

/-- What an item accepted or refused at its target does. -/
def State.takeItem (s : State) (i : FabItem) : Taken :=
  let p := i.part
  match i.work with
  | .readResp n d den c => .done (s.post (.fabricReadResponse i.src n d den c))
  | .refusal q rlx c lost => .done (s.post (.refusalResponseArrival i.src q rlx c lost))
  | w =>
    if !s.accepts' p i.src then .done (s.refuseItem i cNotPresent (FabWork.size w))
    else
      match w with
      | .letter l token => .done (s.farLetter l token)
      | .readReq n a len labels =>
        if s.rangeLocked p a.toNat len then .locked
        else
          let (d, den, c) := s.serveRead p (pcSlot i.poster) a.toNat len labels
          .done ((s.noteServed p (pcSlot i.poster) 0 4 i.poster i.postmark a.toNat len labels).enqueue i.src p i.relaxed i.poster i.postmark 0 d.length
            (.readResp n d den (c.map (BitVec.ofNat 8))))
      | .remote m => .done (s.remoteMsg i m)
      | _ =>
        match s.performLine p i.poster i.postmark w with
        | .done s1 => .done s1
        | .more w1 s1 => .more { i with work := w1 } s1
        | .refused cause lost s1 => .done (s1.refuseItem i cause lost)
        | .locked => .locked
/-- The lines of an item, one after the other as far as none is locked, once all its bytes have come (R121, R341). -/
def State.takeLines (s : State) (i : FabItem) (fuel : Nat) : Taken :=
  match fuel with
  | 0 => s.takeItem i
  | n + 1 =>
    match s.takeItem i with
    | .more i1 s1 =>
      match s1.takeLines i1 n with
      | .locked => .more i1 s1
      | r => r
    | r => r

/-- Ordered items performed in sequence, as far as all their bytes have come; one waits at a line that is locked (R121, R300). -/
def State.takeInOrder (s : State) (b fuel : Nat) : State :=
  match fuel with
  | 0 => s
  | n + 1 =>
    let pr := s.peers.get b {}
    match takeFirst pr.early fun i => i.seq.toNat == pr.expectOrdered % 2 ^ 32 with
    | none => s
    | some (i, rest) =>
      match s.takeLines i 64 with
      | .locked => s
      | .more i1 s1 =>
        let p1 := s1.peers.get b {}
        { s1 with peers := s1.peers.set b { p1 with early := i1 :: rest } }
      | .done s1 =>
        let p1 := s1.peers.get b {}
        { s1 with peers := s1.peers.set b { p1 with early := rest, expectOrdered := pr.expectOrdered + 1 } }.takeInOrder b n
/-- A relaxed item received goes on. -/
def State.takeRelaxed (s : State) (b : Nat) (i : FabItem) : State :=
  let put (st : State) (l : List FabItem) : State :=
    let pr := st.peers.get b {}
    { st with peers := st.peers.set b { pr with waiting := (pr.waiting.erase i) ++ l } }
  match s.takeLines i 64 with
  | .locked => s
  | .more i1 s1 => put s1 [i1]
  | .done s1 => put s1 []
/-- Items received and not yet performed whole go on. -/
def State.retryFabric (s : State) : State :=
  s.peers.foldl (fun st k => k.2.waiting.foldl (fun st i => st.takeRelaxed k.1 i) (st.takeInOrder k.1 k.2.early.length)) s

/-- Bytes received of an item without a gap from its first, given the pieces received (R300, R339). -/
def reach (ps : List (Nat × Nat)) : Nat := ps.foldl (fun n _ => ps.foldl (fun n q => if q.1 ≤ n then max n q.2 else n) n) 0
/-- The bytes a piece carries, laid over those of an item. -/
def FabItem.lay (i x : FabItem) : FabItem :=
  let d := (FabWork.data i.work).mapIdx fun n b => if x.first ≤ n && n < x.sent then (FabWork.data x.work).getD n b else b
  { i with work := FabWork.withBytes i.work d }
/-- A piece of an ordered item arrives: the pieces held so far, and the item of all their bytes once it is complete (R339). -/
def Peer.addPiece (k : Peer) (i : FabItem) : Peer × Option FabItem :=
  let old := ((k.partials.find? fun x => x.1 == i.seq).map Prod.snd).getD []
  let ps := old ++ [i]
  let rest := k.partials.filter fun x => x.1 != i.seq
  if FabWork.size i.work ≤ reach (ps.map fun x => (x.first, x.sent)) then ({ k with partials := rest }, some (old.foldl FabItem.lay i))
  else ({ k with partials := rest ++ [(i.seq, ps)] }, none)

/-- Is a sequence one already performed: behind the one expected (R394). -/
def behind (seq : BitVec 32) (expect : Nat) : Bool := 2 ^ 31 ≤ (seq - BitVec.ofNat 32 expect).toNat

/-- An item's frame arrives from a peer by a port in use: its own, or one it relays (R297, R300, R301, R394, R396). -/
def execFabricItemArrival (src : FrameFrom) (item : FabItem) (crcOk : Bool) (s : State) : Out :=
  if s.lostmask.getLsbD src.src || s.portRate src.port = 0 then .next s
  else if !crcOk then .next (s.linkErr src.port 32 1)
  else
    let s1 := s.hear src.port src.src
    if item.dst != s.device then
      let pd := s1.peers.get item.dst {}
      let s2 := { s1 with peers := s1.peers.set item.dst { pd with relay := pd.relay ++ [item] } }
      let ps := s2.peers.get src.src {}
      .next { s2 with peers := s2.peers.set src.src { ps with used := ps.used + FabWork.size item.work } }
    else if item.relaxed then
      let po := s1.peers.get item.src {}
      let p0 := { po with gotRelaxed := gotSeq po.gotRelaxed item.seq }
      if po.gotRelaxed.contains item.seq then .next { s1 with peers := s1.peers.set item.src p0 }
      else
        .next ({ s1 with peers := s1.peers.set item.src { p0 with waiting := po.waiting ++ [item] } }.takeRelaxed item.src item)
    else
      let pr := s1.peers.get src.src {}
      if behind item.seq pr.expectOrdered || pr.early.any (fun i => i.seq == item.seq) then .next s1
      else
        match pr.addPiece item with
        | (p1, none) => .next { s1 with peers := s1.peers.set src.src p1 }
        | (p1, some whole) =>
          let early := p1.early ++ [whole]
          .next ({ s1 with peers := s1.peers.set src.src { p1 with early := early } }.takeInOrder src.src early.length)

/-- The response of a remote read (R242, R302, R379, R400); the label at a denied line stays at the target, so that of the record is a
free value (log 31). -/
def execFabricReadResponse (src serial : Nat) (data : List Byte) (denied : List Nat) (cause : Option (BitVec 8)) (s : State) : Out :=
  match (s.fab.filter fun f => f.cmd.serial == serial && f.device == src).head? with
  | none => .next s
  | some f =>
    let (w, s1) := s.anyWord
    .next (s1.fabRespond f data denied (cause.map BitVec.toNat) (w.setWidth 16))

/-- What a refusal means for the work refused (R56, R249, R400). DESIGN CHOICE (log 104): a rebuild refused at the child's device ends the
restart as R371 does, with reason NOCONNECT. -/
def State.refused (s : State) (q : Queued) (cause lost : Nat) : State :=
  let i := q.item
  match i.work with
  | .letter l _ => s.deadLetter l 9
  | .readReq n _ _ _ =>
    match (s.fab.filter fun f => f.cmd.serial == n).head? with
    | some f => s.failFab f cause f.cmd.src.toNat
    | none => s
  | .remote (.reserve n _) => s.post (.spawnReservationReply n false none)
  | .remote (.link a t) => s.refuseLink i.part a t 5 true
  | .remote (.mon a t) => s.refuseLink i.part a t 5 false
  | .remote (.bear child _ spawner _) =>
    let s1 := s.modActor i.part (pcSlot spawner) fun w => if w.code = spawner then w.dropChild child else w
    (s1.noConnect i.part spawner child none).checkExit i.part (pcSlot spawner)
  | .remote (.rebuild sup child _) => s.post (.remoteCompletionReport i.part sup child none 5)
  | .remote _ => s
  | .readResp _ _ _ _ => s
  | .refusal _ _ _ _ => s
  | w => s.notePosted i.part i.poster i.postmark w i.dst (0x7400 + q.fn.toNat) cause lost

def execRefusalResponseArrival (src : Nat) (seq : BitVec 32) (relaxed : Bool) (cause : BitVec 8) (lost : Nat) (s : State) : Out :=
  let pr := s.peers.get src {}
  let all := pr.sent ++ (if relaxed then pr.relaxed else pr.ordered)
  match (all.filter fun q => q.item.seq == seq && q.item.relaxed == relaxed).head? with
  | none => .next s
  | some q => .next (s.refused q cause.toNat lost)

/-! ## Acknowledgements and lost devices (R394, R396 to R398) -/

/-- Ordered items acknowledged leave the queue; one sent in an earlier slot and not acknowledged is sent again from there (R394). -/
def ackOrdered (slot : Nat) (ack : BitVec 32) (qs : List Queued) : List Queued × List Queued :=
  let done (q : Queued) : Bool := q.sentAt.isSome && behind q.item.seq (ack.toNat + 1)
  let back (q : Queued) : Queued :=
    match q.sentAt with
    | some n => if n < slot then { q with sentAt := none, again := true, item := { q.item with sent := 0 } } else q
    | none => q
  (qs.filter done, (qs.filter fun q => !done q).map back)

/-- An acknowledged relaxed sequence (R394). -/
def relaxedAcked (base : BitVec 32) (map : BitVec 64) (seq : BitVec 32) : Bool :=
  let d := (base - seq).toNat
  d < 64 && map.getLsbD d

/-- Kind-32 records of the posted commands with unsent bytes among discarded items, one for each command (R397). -/
def State.noteUnsent (s : State) (qs : List Queued) (fuel : Nat) : State :=
  match fuel, qs with
  | 0, _ => s
  | _, [] => s
  | n + 1, q :: r =>
    let mine := r.filter fun x => x.cmd == q.cmd && x.item.relaxed == q.item.relaxed && q.cmd != 0
    let rest := r.filter fun x => !(x.cmd == q.cmd && x.item.relaxed == q.item.relaxed && q.cmd != 0)
    let unsent := (q :: mine).foldl (fun t x => t + (x.size - x.item.sent)) 0
    let first := ((q :: mine).filter fun x => x.item.sent < x.size).head?.getD q
    let s1 := if q.cmd != 0 && FabWork.posted q.item.work && 0 < unsent then
      s.notePosted q.item.part q.item.poster q.item.postmark first.item.work q.item.dst (0x7400 + q.fn.toNat) 0 unsent else s
    s1.noteUnsent rest n

/-- Step 4 for one actor: links, children, watches, and monitors removed without a signal. The signals are taken in the order of R397; each letter
is stamped at the turn of the keystone of the receiver's home die (R398). -/
def State.loseFor (s : State) (p slot b : Nat) : State :=
  match s.actor? p slot with
  | none => s
  | some w =>
    let on (c : Word) : Bool := pcDevice c == b
    let link (st : State) (c : Word) : State :=
      if w.exitMail then st.noConnect p w.code c none
      else if w.children.any (fun x => x.code == c) then st
      else st.post (.killPoint p w.code (.linked c))
    let s1 := (w.links.filter on).foldl link s
    let child (st : State) (c : Child) : State := st.noConnect p w.code c.code (some (.restartEvent p slot c.code 5 false))
    let s2 := (w.children.filter fun c => on c.code).foldl child s1
    let s3 := (w.watches.filter on).foldl (fun st c => st.noConnect p w.code c none) s2
    s3.modActor p slot fun w =>
      { w with links := w.links.filter fun c => !on c, watches := w.watches.filter fun c => !on c, monitors := w.monitors.filter fun c => !on c }

/-- A device is declared lost in a rotation (R397): mask and records, queues, reads and reservations, exit signals. -/
def State.declareLost (s : State) (rotation b : Nat) : State :=
  if s.lostmask.getLsbD b then s
  else
    let s1 := { s with lostmask := s.lostmask ||| (1#512 <<< b) }
    let pods := (s1.parts.filter fun k => k.2.state == .ready && k.2.podBit b).map Prod.fst
    let s2 := pods.foldl (fun st p =>
      st.note p (mkRecord s.now 33 0 0 0 0 0 (BitVec.ofNat 64 b) (BitVec.ofNat 64 rotation) 0 0 0 0)) s1
    let pr := s2.peers.get b {}
    let s3 := (s2.noteUnsent pr.ordered pr.ordered.length).noteUnsent pr.relaxed pr.relaxed.length
    let s4 := { s3 with
      peers := s3.peers.set b { pr with ordered := [], relaxed := [], relay := [], sent := [], partials := [] }
      ports := s3.ports.mapVals fun _ x => if x.peer == b then { x with out := [] } else x }
    let s5 := (s4.fab.filter fun f => f.device == b && f.op == .rd).foldl (fun st f => st.failFab f cDeviceLost f.cmd.src.toNat) s4
    let s6 := (s5.remote.filter fun r => r.device == b).foldl (fun st r => st.voidSpawn r cDeviceLost) s5
    let s6 := { s6 with parts := s6.parts.mapVals fun _ k => { k with kept := k.kept.filter fun e => pcDevice e.2.2 != b } }
    ((s6.parts.filter fun k => k.2.fatal.isNone).map Prod.fst).foldl (fun st p =>
      ((st.part p).actors.map Prod.fst).foldl (fun st slot => st.loseFor p slot b) st) s6

/-- A credit word comes by a port in use: relay credit, acknowledgements, and the losses its sender reports (R297, R394, R396). -/
def execCreditWordArrival (src : FrameFrom) (credit : Nat) (ack : BitVec 32) (relaxedBase : BitVec 32) (relaxed : BitVec 64) (lost : BitVec 512)
    (s : State) : Out :=
  if s.lostmask.getLsbD src.src || s.portRate src.port = 0 then .next s
  else
    let s1 := s.hear src.port src.src
    let pr := s1.peers.get src.src {}
    let (doneO, ord) := ackOrdered s.slotNumber ack pr.ordered
    let acked (q : Queued) : Bool := q.sentAt.isSome && relaxedAcked relaxedBase relaxed q.item.seq
    let doneR := pr.relaxed.filter acked
    let s2 := { s1 with peers := s1.peers.set src.src { pr with
      credit := credit
      ordered := ord
      relaxed := pr.relaxed.filter fun q => !acked q
      sent := pr.sent ++ doneO ++ doneR } }
    let adopt := (List.range 512).filter fun b => lost.getLsbD b && b != s.device && !s.meets b
    .next (adopt.foldl (fun st b => st.declareLost s.rotation b) s2)

/-- The end of a rotation (R396): its last slots end; a device met directly and not heard is missing, and lost at the third rotation in a row. -/
def execRotationEnd (rotation : Nat) (s : State) : Out :=
  let bs := (List.range 512).filter fun b => s.meets b && !s.lostmask.getLsbD b
  let count (t : Tbl Peer) (b : Nat) : Tbl Peer :=
    let pr := t.get b {}
    t.set b { pr with missed := if pr.heard then 0 else pr.missed + 1, heard := false }
  let s0 := s.closeSlots
  let s1 := { s0 with peers := bs.foldl count s0.peers }
  let gone := bs.filter fun b => 3 ≤ (s1.peers.get b {}).missed
  .next (gone.foldl (fun st b => st.declareLost rotation b) s1)

/-- Bits of lostmask cleared by the host: both sequence counts of each pair start again at 0 (R396). -/
def execLostmaskClear (bits : BitVec 512) (s : State) : Out :=
  let clear := (List.range 512).filter fun b => bits.getLsbD b && s.lostmask.getLsbD b
  let reset (t : Tbl Peer) (b : Nat) : Tbl Peer := t.set b {}
  .next { s with lostmask := s.lostmask &&& ~~~bits, peers := clear.foldl reset s.peers }

end Sys2Proof.Machine
end

