-- ==== Sys2Proof/Machine/Faults.lean ====
section
/-! DEFINITION. Soft errors, the scrubbers, exclusive service, stalled records and the link grid (R323, R351, R381 to R387, R389). -/

namespace Sys2Proof.Machine

/-! ## Error counts (R387) -/

/-- A count of eccstat of a die rises, saturating. -/
def State.countEcc (s : State) (die : Nat) (uncorrectable : Bool) : State :=
  let off := 0x200 + 8 * die
  let w := s.fn0Word off
  if uncorrectable then s.setFn0 off (setBits w 16 16 (min (bits w 16 16 + 1) 0xFFFF) ||| 1)
  else s.setFn0 off (setBits w 32 32 (min (bits w 32 32 + 1) (2 ^ 32 - 1)))

/-- A kind-18 record. -/
def State.noteEcc (s : State) (p : Nat) (owner postmark : Word) (va : Nat) (pa : Word) (array outcome : Nat) : State :=
  s.note p (mkRecord s.now 18 cUncorrectable 0 0 0 0 owner postmark (BitVec.ofNat 64 va) pa (BitVec.ofNat 64 (array + 16 * outcome)) 0)

/-! ## State that no commit has published (R382) -/

/-- A member leaves a group between phases 2a and 2b (R114): the others are unlocked, and the group stays open. -/
def State.unlockGroup (s : State) (k : Act) : State :=
  let mine (g : Group) : Bool := g.locked && g.joined.any fun q => q.slot == k.slot && q.place == k.place
  let gs := ((s.part k.p).groups.filter fun g => mine g.2).map Prod.snd
  let member (b : Act) : Bool := b.p == k.p && gs.any fun g => g.joined.any fun q => q.slot == b.slot && q.place == b.place
  { s.modPart k.p fun part => { part with groups := part.groups.mapVals fun _ g => if mine g then { g with locked := false } else g } with
    acts := s.acts.mapVals fun _ b => if member b && b.phase == .locked then { b with phase := .running } else b }
/-- Its group is past its commit point (R114). -/
def State.committed (s : State) (k : Act) : Bool :=
  (s.part k.p).closing.any fun g => g.2.joined.any fun q => q.slot == k.slot && q.place == k.place
/-- The holding activation aborts and its letter replays; the second time in a row the actor exits with MEMORY, and the activation goes at
once. One past its commit point holds verified data (R384), one whose turn to fail has come is over, and one of a fatal partition is frozen
(R406): the line is listed in its dump (R415). -/
def State.eccAbort (s : State) (a va : Nat) (pa : Word) (array : Nat) : State :=
  match s.acts.find? a with
  | none => s
  | some k =>
    if (s.part k.p).fatal.isSome then s.modAct a fun k => { k with bad := va / 64 :: k.bad.erase (va / 64) }
    else if s.committed k || (k.settled && k.phase != .locked) then s
    else
      let s0 := s.unlockGroup k
      let times : Nat := (((s.actor? k.p k.slot).bind fun w => (w.box.filter fun h => h.place == k.place).head?).map fun h => h.eccAborts).getD 0
      if times = 0 then (s0.noteEcc k.p k.self k.letter.postmark va pa array 1).abortAct a { ecc := true }
      else ((s0.noteEcc k.p k.self k.letter.postmark va pa array 5).removeAct a).post (.killPoint k.p k.self .memory)

/-- The activation of a context. -/
def State.actOfCtx (s : State) (c : Nat) : Option Nat := (s.ctxs.find? c).map fun k => k.act
/-- The activation an accumulator tile works for: the holder of its format context, or of the command at its head. -/
def State.actOfTile (s : State) (cluster tile : Nat) : Option Nat :=
  let x := (s.cluster cluster).fctxs.get (tile / 2) {}
  match x.holder with
  | some (a, _) => some a
  | none => x.queue.head?.map fun c => c.act
/-- The activation whose area holds a scratchpad byte. -/
def State.actOfScratch (s : State) (cluster off : Nat) : Option Nat :=
  ((s.acts.filter fun a => a.2.cluster == cluster && a.2.areaBase ≤ off && off < a.2.areaBase + a.2.areaSize).head?).map Prod.fst

/-! ## Committed data (R383) -/

/-- An array with no address has a free value in the record (log 31). -/
def State.eccIn (s : State) (a : Option Nat) (array : Nat) (va : Nat) : State :=
  match a with
  | none => s
  | some n =>
    let (w, s1) := s.anyWord
    s1.eccAbort n va w array

/-- The owner a tag names: a slot of the partitions whose rows or tables may hold it, which of several the tag does not say
(log 32). -/
def State.tagOwner (s : State) (tag : BitVec 16) : Option (Nat × Word) × State :=
  let ps := s.parts.filterMap fun k => (k.2.actors.find? tag.toNat).map fun w => (k.1, w.code)
  let (i, s1) := s.pickN
  (ps[i % max 1 ps.length]?, s1)

/-- A poisoned line whose tag tells its owner: the kill follows at once. The tag 0xFFFF of a scratchpad line outside every area names no owner
to kill (log 74). -/
def State.eccTag (s : State) (p : Option Nat) (tag : BitVec 16) (pa : Word) (array : Nat) : State :=
  let mine : Option (Nat × Word) × State :=
    if tag == 0xFFFF then (none, s)
    else
      match p with
      | some q => ((s.actor? q tag.toNat).map fun w => (q, w.code), s)
      | none => s.tagOwner tag
  match mine with
  | (some (q, code), s1) => (s1.noteEcc q code 0 0 pa array 2).post (.killPoint q code .memory)
  | (none, s1) =>
    match p with
    | some q => s1.noteEcc q 0 0 0 pa array 4
    | none => s1

/-- A line of shared SRAM or DRAM is marked poisoned. -/
def State.mark (s : State) (pa : Nat) : State := { s with poison := pa / 64 :: s.poison.filter fun n => n != pa / 64 }
/-- An uncorrectable error in an owner tag of an array, or in a line the system actor owns: the partition is fatal (R385, R405). The owner a
damaged tag named is not known. -/
def State.eccOwnerTag (s : State) (p die where_ array : Nat) : State :=
  ((s.countEcc die true).noteEcc p 0 0 0 (BitVec.ofNat 64 where_) array 3).post
    (.fatalCondition 1 (some p) die (BitVec.ofNat 64 where_) (BitVec.ofNat 64 array))
def State.eccSystem (s : State) (p pa code : Nat) : State :=
  let array := if pa < sramTop then 7 else 8
  let owner := ((s.actor? p 0xFFFF).map fun w => w.code).getD 0
  (((s.countEcc (dieOfPa pa) true).mark pa).noteEcc p owner 0 0 (BitVec.ofNat 64 pa) array 3).post
    (.fatalCondition (BitVec.ofNat 8 code) (some p) (dieOfPa pa) (BitVec.ofNat 64 pa) (BitVec.ofNat 64 array))
/-- A page of a partition holds a line. -/
def State.maps (s : State) (p pa : Nat) : Bool := (s.leaves p).any fun x => x.2.addr ≤ pa && pa < x.2.addr + x.2.size
/-- The fatal code of a line that a partition's system actor owns (R88, R93, R405): 2 for its principal table, 1 for a page table or a page or
tag of slot 0xFFFF. -/
def State.systemCode (s : State) (p pa : Nat) : Option Nat :=
  let k := s.part p
  let base := (k.word 0xD0).toNat
  let owned (l : Leaf) : Bool := !l.cmn && l.addr ≤ pa && pa < l.addr + l.size &&
    (if pa < sramTop then tagOf s.sramTags (pa / 64) 0xFFFF == 0xFFFF else l.owner == 0xFFFF)
  if base ≤ pa && pa < base + 256 * (k.word 0xD8).toNat then some 2
  else if s.inTable p pa || (s.leaves p).any fun x => owned x.2 then some 1
  else none
/-- An uncorrectable error in a committed line: the system's, one whose tag tells its owner, or one that waits for its first access. -/
def State.eccLine (s : State) (pa : Nat) : State :=
  let live := s.parts.filter fun k => k.2.state == .ready
  match live.findSome? fun k => (s.systemCode k.1 pa).map fun c => (k.1, c) with
  | some (p, code) => s.eccSystem p pa code
  | none =>
    let s1 := (s.countEcc (dieOfPa pa) true).mark pa
    if pa < sramTop then
      s1.eccTag ((live.find? fun k => s.maps k.1 pa).map Prod.fst) (tagOf s1.sramTags (pa / 64) 0xFFFF) (BitVec.ofNat 64 pa) 7
    else
      match (s1.parts.filter fun k => (unitOf pa).any k.2.units.contains).head? with
      | some k => s1.noteEcc k.1 0 0 0 (BitVec.ofNat 64 pa) 8 4
      | none => s1

/-- An uncorrectable error in a scratchpad line: of an activation's area, or of a tile, whose line is marked. -/
def State.eccScratch (s : State) (cl off : Nat) : State :=
  let s1 := s.countEcc (dieOfCluster cl) true
  match s.actOfScratch cl off with
  | some a => s1.eccAbort a (scratchVa off) (BitVec.ofNat 64 off) 4
  | none =>
    let s2 := s1.modCluster cl fun k => { k with poison := off / 64 :: k.poison.filter fun l => l != off / 64 }
    match s2.partAt cl with
    | some q => s2.eccTag (some q) (tagOf (s2.cluster cl).tags (off / 64) 0xFFFF) (BitVec.ofNat 64 off) 4
    | none => s2

/-- An uncorrectable error (R381 to R385, R405). -/
def execUncorrectableError (site : EccSite) (s : State) : Out :=
  match site with
  | .register c => .next ((s.countEcc (dieOfCluster (clusterOf c)) true).eccIn (s.actOfCtx c) 1 0)
  | .accumulator cl tile => .next ((s.countEcc (dieOfCluster cl) true).eccIn (s.actOfTile cl tile) 2 0)
  | .tcm c index =>
    let s1 := s.countEcc (dieOfCluster (clusterOf c)) true
    .next (match s.actOfCtx c with
      | some a => s1.eccAbort a 0 (BitVec.ofNat 64 index) 3
      | none => s1)
  | .scratchpad cl off => .next (s.eccScratch cl off)
  | .lineStore a va index =>
    let die := ((s.acts.find? a).map fun k => dieOfCluster k.cluster).getD 0
    .next ((s.countEcc die true).eccAbort a va (BitVec.ofNat 64 index) 5)
  | .scaffoldFrame a va =>
    match s.acts.find? a with
    | none => .next s
    | some k =>
      let pa := ((k.pages.find? (va / 65536)).map fun g => g.frame + va % 65536).getD 0
      let s1 := s.countEcc (dieOfPa pa) true
      .next (if s.committed k then (s1.mark pa).noteEcc k.p k.self k.letter.postmark va (BitVec.ofNat 64 pa) 6 4
        else s1.eccAbort a va (BitVec.ofNat 64 pa) 6)
  | .sram pa => .next (s.eccLine pa)
  | .dram pa => .next (s.eccLine pa)
  | .ownerTag p pa => .next (s.eccOwnerTag p (dieOfPa pa) pa 7)
  | .scratchTag p cl off => .next (s.eccOwnerTag p (dieOfCluster cl) off 4)
  | .systemLine p pa => .next (s.eccSystem p pa 1)
  | .principalTable p pa => .next (s.eccSystem p pa 2)
  | .keystoneLog p die index =>
    .next (((s.countEcc die true).noteEcc p 0 0 0 (BitVec.ofNat 64 index) 0 3).post
      (.fatalCondition 2 (some p) die (BitVec.ofNat 64 index) 0))
  | .deviceStructure die => .next ((s.countEcc die true).post (.fatalCondition 16 none die 0 0))

/-- The die a site lies on. -/
def eccDie (s : State) (site : EccSite) : Nat :=
  match site with
  | .register c => dieOfCluster (clusterOf c)
  | .accumulator cl _ => dieOfCluster cl
  | .tcm c _ => dieOfCluster (clusterOf c)
  | .scratchpad cl _ => dieOfCluster cl
  | .lineStore a _ _ => ((s.acts.find? a).map fun k => dieOfCluster k.cluster).getD 0
  | .scaffoldFrame a va => dieOfPa ((((s.acts.find? a).bind fun k => k.pages.find? (va / 65536)).map fun g => g.frame).getD 0)
  | .sram pa => dieOfPa pa
  | .dram pa => dieOfPa pa
  | .ownerTag _ pa => dieOfPa pa
  | .scratchTag _ cl _ => dieOfCluster cl
  | .systemLine _ pa => dieOfPa pa
  | .principalTable _ pa => dieOfPa pa
  | .keystoneLog _ die _ => die
  | .deviceStructure die => die
/-- The die whose scrubber walks a site (R14). -/
def scrubDie (s : State) (site : ScrubSite) : Nat :=
  match site with
  | .scratchTag _ cl _ => dieOfCluster cl
  | .inUse site => eccDie s site
  | .data pa => dieOfPa pa
  | .system _ pa => dieOfPa pa
  | .tag _ pa => dieOfPa pa
  | .scratch cl _ => dieOfCluster cl
/-- The scrubber, or an access in use, has read a line (R381, R386): a corrected one is written back unchanged and counted; an uncorrectable
one is treated under R382, R383 or R385. -/
def execScrubLine (site : ScrubSite) (found : ScrubFound) (s : State) : Out :=
  match found, site with
  | .clean, _ => .next s
  | .corrected, _ => .next (s.countEcc (scrubDie s site) false)
  | .uncorrectable, .data pa => .next (s.eccLine pa)
  | .uncorrectable, .system p pa => .next (s.eccSystem p pa 1)
  | .uncorrectable, .tag p pa => .next (s.eccOwnerTag p (dieOfPa pa) pa 7)
  | .uncorrectable, .scratch cl off => .next (s.eccScratch cl off)
  | .uncorrectable, .scratchTag p cl off => .next (s.eccOwnerTag p (dieOfCluster cl) off 4)
  | .uncorrectable, .inUse site => execUncorrectableError site s

/-! ## Exclusive service (R389) -/

/-- The exclusive letter that stands first in a cluster's queue: its key, partition, slot and place. -/
def State.exclusiveHead (s : State) (cluster : Nat) : Option (Nat × Nat × Nat × Nat) :=
  match (s.cluster cluster).queue.head? with
  | some (.candidate p slot place _) =>
    match (s.actor? p slot).bind fun w => (w.box.filter fun h => h.place == place).head? with
    | some h => if h.exclusive then some (letterKey h.letter, p, slot, place) else none
    | none => none
  | _ => none
/-- A die begins to serve the exclusive letter of least key among those that stand first. -/
def execExclusiveServiceStart (die : Nat) (s : State) : Out :=
  if (s.served.find? die).isSome then .next s
  else
    let hs := (s.clusters.filter fun k => dieOfCluster k.1 == die).filterMap fun k => s.exclusiveHead k.1
    let best := hs.foldl (fun (b : Option (Nat × Nat × Nat × Nat)) h =>
      match b with
      | none => some h
      | some x => if h.1 < x.1 then some h else b) none
    match best with
    | none => .next s
    | some (_, p, slot, place) => .next { s with served := s.served.set die (p, slot, place) }

/-! ## Stalled records (R351) -/

/-- The host frees entries of the dead-letter ring. -/
def execDlcons (p : Nat) (v : Word) (s : State) : Out :=
  if (s.part p).state != .ready then .next (s.unsupported (p + 1))
  else .next ((s.modPart p fun k => k.setWord 0x418 v).drainAll p)

/-- A record without room for 10 ms is discarded and counted. -/
def execRecordStallTimeout (p : Nat) (s : State) : Out :=
  let late (r : StalledRecord) : Bool := 15000000 ≤ s.clock - r.since
  let k := s.part p
  let old := k.stalled.filter late
  let s1 := s.modPart p fun k => { k with stalled := k.stalled.filter fun r => !late r }
  let s2 := old.foldl (fun st r => (st.modPart p Part.loseRecord).unstall r) s1
  .next (if (s2.part p).stalled.isEmpty then s2.drainAll p else s2)

/-! ## The link grid (R323) -/

/-- A router record: 15 pairs of counts, flits then stalls, then 8 zero bytes. The cycles stalled are free values: the model holds no buffer
slots (log 33). -/
def State.routerRecord (s : State) (router : Nat) : List Byte :=
  ((List.range 15).flatMap fun i => bytesOf 4 (s.flits.get (16 * router + i) 0) ++ bytesOf 4 (Config.word (s.free + 15 * router + i)).toNat) ++
    List.replicate 8 (0 : Byte)
/-- The snapshot of a window: its start time and the drop count, then the 384 routers. -/
def State.gridSnapshot (s : State) (start : Nat) : List Byte :=
  bytesOf 8 start ++ bytesOf 8 (s.fn0Word 0x120).toNat ++ List.replicate 48 (0 : Byte) ++
    (List.range 384).flatMap s.routerRecord

/-- A window ends: the counts are captured and start again, and the snapshot goes to the grid ring, or is discarded and counted. -/
def execLinkGridWindow (s : State) : Out :=
  let bs := s.gridSnapshot ((s.now / 65536 - 1) * 65536)
  let s1 := { s with snapshots := some bs, free := s.free + 384 * 15, flits := [] }
  let (base, size, prod, cons) := (s.fn0Word 0x100, s.fn0Word 0x108, s.fn0Word 0x110, s.fn0Word 0x118)
  if prod - cons == size then .next (s1.setFn0 0x120 (s.fn0Word 0x120 + 1))
  else .next ((s1.emit (.hostWrite none (base.toNat + 49216 * (prod.toNat % size.toNat)) bs)).setFn0 0x110 (prod + 1))

end Sys2Proof.Machine
end

