-- ==== Sys2Proof/Machine/Dump.lean ====
section
/-! DEFINITION. Fatal conditions and the dump (R405 to R418). -/

namespace Sys2Proof

open Machine

/-- The partition whose own work an event is, which stops at its fatal point (R406, R407). -/
def Event.scope (e : Event) (s : State) : Option Nat :=
  let ofAct (n : Nat) : Option Nat := (s.acts.find? n).map fun a => a.p
  let ofCtx (c : Nat) : Option Nat := (s.ctxs.find? c).bind fun k => ofAct k.act
  match e with
  | .variableResultWrite c _ => ofCtx c
  | .parkTimeout c => ofCtx c
  | .issueGapExpiry c => ofCtx c
  | .letterArrival p _ _ => some p
  | .groupTimeout p _ => some p
  | .place c => s.partAt c
  | .gangSave a => ofAct a
  | .drainEnter c => s.partAt c
  | .activationCommit a => ofAct a
  | .groupPrepare p _ => some p
  | .groupCommitPoint p _ => some p
  | .groupApply p _ => some p
  | .groupWithdrawal p _ _ _ => some p
  | .activationFail a => ofAct a
  | .budgetExpiry a => ofAct a
  | .killPoint p _ _ => some p
  | .restartEvent p _ _ _ _ => some p
  | .wholeRestartRebuild p _ => some p
  | .remoteRebuildRequest p _ _ _ _ _ => some p
  | .remoteCompletionReport p _ _ _ _ => some p
  | .spawnReservationRequest p _ _ _ => some p
  | .reservationRelease p _ => some p
  | .linkRequestArrival p _ _ _ _ => some p
  | .courierCommandComplete c _ => s.partAt c
  | .feederTile a _ _ => ofAct a
  | .mxDecision c => s.partAt c
  | .mxCommandComplete c => s.partAt c
  | .frankedCommandArrival c _ => s.partAt c
  | .frankingEntryActivate c _ => s.partAt c
  | .serviceCoreLetter p _ _ _ _ => some p
  | _ => none

end Sys2Proof

namespace Sys2Proof.Machine

/-! ## The fatal point (R406 to R409) -/

/-- A commit past its commit point completes step 4 and departs nothing; its entry in the log stays undeparted (R406). -/
def State.completeGroup (s : State) (p : Nat) (g : Group) : State :=
  match s.groupActs p g with
  | none => s
  | some as => as.foldl (fun st a => st.applyAct a.1 a.2) s
/-- The groups of a partition past their phase 2b. -/
def Part.committedGroups (k : Part) : List Group := k.closing.map Prod.snd

/-- The partition stops where it stands. -/
def State.freeze (s : State) (p : Nat) (code : BitVec 8) : State :=
  let s1 := (s.part p).committedGroups.foldl (fun st g => st.completeGroup p g) s
  let ns := (s1.acts.filter fun a => a.2.p == p).map Prod.fst
  let s2 := ns.foldl (fun st n => st.cancelEngines n) s1
  let stays (e : Event) : Bool := e.scope s2 != some p
  let cut := s2.requests.filter fun (r : HostReq) => r.p == p
  { cut.foldl (fun (st : State) _ => st.unsupported (p + 1)) s2 with
    owed := s2.owed.filter fun n => pcPart n.sender != p
    svc := s2.svc.mapVals fun _ q => q.filter fun x => match x.work with
      | .letter q _ _ _ => q != p
      | .line n => (s2.requests.find? fun (r : HostReq) => r.serial == n).any fun (r : HostReq) => r.p != p
    requests := s2.requests.filter fun (r : HostReq) => r.p != p
    agenda := s2.agenda.filter stays
    timers := s2.timers.filter fun t => stays t.2
    remote := s2.remote.filter fun r => !ns.contains r.act }.modPart p fun k => { k with fatal := some (code, s.now) }

/-- The clock of the last commit point of a partition, or zero. -/
def Part.lastCommit (k : Part) : Nat := (k.log.getLast?.map fun e => (e.extractLsb' 192 64).toNat).getD 0
/-- The kind-48 record (R409): `second` secondary conditions. -/
def fatalRecord (time : Nat) (code : BitVec 8) (part : Option Nat) (die : Nat) (wher : Word) (array second last : Nat) : BitVec 512 :=
  let scope := match part with
    | some p => 1 + 256 * p
    | none => 2
  mkRecord time 48 0 code.toNat 0 0 0 (BitVec.ofNat 64 (scope + 65536 * die)) (BitVec.ofNat 64 time) wher
    (BitVec.ofNat 64 (array + 256 * min second 255)) (BitVec.ofNat 64 last) 0

/-! ## Dump registers (R410) -/

/-- A dump register of a partition, or of the device. -/
def State.dumpReg (s : State) (part : Option Nat) (off : Nat) : Word :=
  match part with
  | some p => (s.part p).word (0x600 + off)
  | none => s.fn0Word (0x400 + off)
def State.setDumpReg (s : State) (part : Option Nat) (off : Nat) (v : Word) : State :=
  match part with
  | some p => s.modPart p fun k => k.setWord (0x600 + off) v
  | none => s.setFn0 (0x400 + off) v
def State.setDumpStat (s : State) (part : Option Nat) (state : Nat) (trunc bad : Bool) (code : BitVec 8) : State :=
  s.setDumpReg part 0x10 (BitVec.ofNat 64 (state + (if trunc then 16 else 0) + (if bad then 32 else 0) + 256 * code.toNat))

/-- The registers are read at the fatal point. -/
def State.newDump (s : State) (part : Option Nat) (code : BitVec 8) (die array last : Nat) (wher : Word) : Dump :=
  { part := part
    base := (s.dumpReg part 0).toNat
    size := (s.dumpReg part 8).toNat
    ranges := ((List.range 16).map fun i => ((s.dumpReg part (0x40 + 16 * i)).toNat, (s.dumpReg part (0x48 + 16 * i)).toNat / 64 * 64)).filter
      fun r => r.2 != 0
    code := code
    time := s.now
    place := wher
    array := BitVec.ofNat 4 array
    die := die
    lastCommit := last }

/-- A dump joins the list: behind the one in progress, the device's first, then partitions in ascending number once the device is fatal,
else in the order of their fatal points (R411). -/
def Dump.before (deviceFatal : Bool) (a b : Dump) : Bool :=
  deviceFatal &&
  match a.part, b.part with
  | none, some _ => true
  | some x, some y => x < y
  | _, _ => false
def insertDump (deviceFatal : Bool) (d : Dump) (ds : List Dump) : List Dump :=
  match ds with
  | [] => [d]
  | e :: r => if e.sect = 0 && Dump.before deviceFatal d e then d :: e :: r else e :: insertDump deviceFatal d r

/-- No line of a partition's dead-letter ring is poisoned (R408). -/
def State.ringIntact (s : State) (p : Nat) : Bool :=
  let k := s.part p
  s.poison.all fun n => n < (k.word 0x400).toNat / 64 || (k.word 0x400).toNat / 64 + (k.word 0x408).toNat ≤ n
/-- A scope becomes fatal: it stops, its record enters its ring, and its dump is collected once its stores have drained. -/
def State.goFatal (s : State) (part : Option Nat) (code : BitVec 8) (die array : Nat) (wher : Word) : State :=
  let last := match part with
    | some p => (s.part p).lastCommit
    | none => s.parts.foldl (fun m k => max m k.2.lastCommit) 0
  let d := s.newDump part code die array last wher
  let s1 := match part with
    | some p =>
      let s0 := s.freeze p code
      if s0.ringIntact p then s0.note p (fatalRecord s.now code part die wher array 0 last) else s0
    | none => { s with fatal := some (code, s.now) }
  let s2 := s1.setDumpStat part 1 false false code
  { s2 with dumps := insertDump s2.fatal.isSome d s2.dumps }.postAt 4096 (.storeDrainDeadline part)

/-- A condition found while a dump is written is entered in that dump's summary, which is written once more with the header behind it
(R411). -/
def State.noteSecond (s : State) (r : BitVec 512) : State :=
  match s.dumps with
  | [] => s
  | d :: rest => { s with dumps := { d with secondary := d.secondary ++ [r], sect := min d.sect d.body.length } :: rest }

/-- A fatal condition (R405). -/
def execFatalCondition (code : BitVec 8) (p : Option Nat) (die : Nat) (place what : Word) (s : State) : Out :=
  let array := bits what 0 4
  match p with
  | some q =>
    if (s.part q).state != .ready then .next s
    else
      let s1 := s.noteSecond (fatalRecord s.now code p die place array 0 (s.part q).lastCommit)
      if (s.part q).fatal.isSome || s.fatal.isSome then .next s1 else .next (s1.goFatal p code die array place)
  | none =>
    let s1 := s.noteSecond (fatalRecord s.now code none die place array 0 0)
    if s.fatal.isSome then .next s1
    else
      let s2 := s1.goFatal none code die array place
      let live := (s2.parts.filter fun k => k.2.state == .ready && k.2.fatal.isNone).map Prod.fst
      .next (live.foldl (fun st q => st.goFatal (some q) code die array place) s2)

/-! ## The stores still buffered (R407, R415) -/

/-- A store that never reached the scaffold: each byte as it was before it, in the line entry, or in the frame of a scaffold page. -/
def State.undoStore (s : State) (n : Nat) (a : Act) (va : Nat) (old : List Before) : State :=
  let undo (t : Tbl Byte) (b : Before × Nat) : Tbl Byte := match b.1 with
    | .untouched => t
    | .committed => t.erase (va % 64 + b.2)
    | .byte x => t.set (va % 64 + b.2) x
  let back (k : Act) : Act := { k with lines := k.lines.modify (va / 64) fun x => { x with bytes := old.zipIdx.foldl undo x.bytes } }
  match a.pages.find? (va / 65536) with
  | none => s.modAct n back
  | some g =>
    let home (i : Nat) : Byte := s.dram.get (g.leaf.addr + (va + i) % g.leaf.size)
    let put (m : Mem) (b : Before × Nat) : Mem := match b.1 with
      | .untouched => m
      | .committed => m.write (g.frame + va % 65536 + b.2) [home b.2]
      | .byte x => m.write (g.frame + va % 65536 + b.2) [x]
    { s with dram := old.zipIdx.foldl put s.dram }
/-- The reason for which a store buffered at the fatal point is lost for certain: its check fails now, or its line is uncorrectable (R407,
R415). -/
def State.lostFor (s : State) (n : Nat) (a : Act) (va len : Nat) : Option Nat :=
  let ag : Agent := { act := n, ctx := none, cluster := a.cluster, member := 0 }
  match (s.check ag va len .write).1 with
  | .bad _ _ _ => some 2
  | _ =>
    match s.walk a.p va with
    | .leaf l => if a.bad.contains (va / 64) || s.poison.contains ((l.addr + va % l.size) / 64) then some 3 else none
    | _ => none
/-- A write that others may not see yet, by a member's own store, was in its core's buffer at the fatal point or not; if it was, it drains
or is lost, also for want of time (log 34). -/
def State.drainStore (s : State) (e : Stale) : State × Option Nat :=
  let (buffered, s1) := s.choose
  let (late, s2) := s1.choose
  match s.acts.find? e.act with
  | none => (s, none)
  | some a =>
    if e.engine.isSome || 2 ^ 52 ≤ e.va || !buffered then (s1, none)
    else
      let n := e.old.length
      match (s.lostFor e.act a e.va n).or (if late then some 1 else none) with
      | none => (s2, some (e.va / 64 * 64))
      | some why =>
        let data := (List.range n).map fun i => (a.ownByte (e.va + i)).getD 0
        let ctx := ((e.seen.head?.bind fun m => a.members[m]?).bind fun m => m.ctx).getD 0
        ({ s2.undoStore e.act a e.va e.old with
          lost := s2.lost ++ [⟨BitVec.ofNat 64 e.va, n, BitVec.ofNat 64 (numOf data), a.self, a.letter.postmark, ctx, why⟩] }, none)
def State.drainStores (s : State) (es : List Stale) : State × List Nat :=
  match es with
  | [] => (s, [])
  | e :: r =>
    let (s1, d) := s.drainStore e
    let (s2, ds) := s1.drainStores r
    (s2, d.toList ++ ds)

/-! ## Sections (R414, R415) -/

/-- n free words from the counter on (log 35). -/
def freeWords (start n : Nat) : List Word := (List.range n).map fun i => Config.word (start + i)
/-- Bytes whose layout the manual leaves open are free values (log 35). -/
def State.freeBytes (s : State) (n : Nat) : List Byte × State :=
  ((freeWords s.free (n / 8)).flatMap fun w => bytesOf 8 w.toNat, { s with free := s.free + n / 8 })
/-- n free records. -/
def State.freeRecords (s : State) (bytes n : Nat) : List (List Byte) × State :=
  match n with
  | 0 => ([], s)
  | k + 1 =>
    let (b, s1) := s.freeBytes bytes
    let (r, s2) := s1.freeRecords bytes k
    (b :: r, s2)
/-- A list of records filled up with zero records (log 36). -/
def padRecords (bytes n : Nat) (rs : List (List Byte)) : List (List Byte) := rs ++ List.replicate (n - rs.length) (List.replicate bytes (0 : Byte))
def rec64 (r : BitVec 512) : List Byte := bytesOf 64 r.toNat

/-- Section 1 or 16: the condition, the secondary ones, and the poisoned lines found among the memory dumped. -/
def Dump.summary (d : Dump) (poisoned : List Nat) : DumpSect :=
  let mine := fatalRecord d.time d.code d.part d.die d.place d.array.toNat d.secondary.length d.lastCommit
  let lines := poisoned.map fun pa => mkRecord d.time 18 cUncorrectable 0 0 0 0 0 0 0 (BitVec.ofNat 64 pa) 0 0
  { type := if d.part.isSome then 1 else 16, prio := 0
    records := padRecords 64 64 ((mine :: d.secondary ++ lines).map rec64) }

/-- The 3,072-byte record of a context of the rows; what a FREE one holds is a free value. -/
def State.ctxRecords (s : State) (cs : List Nat) : List (List Byte) × State :=
  match cs with
  | [] => ([], s)
  | c :: r =>
    let (b, s1) := match s.ctxs.find? c with
      | some k => (k.record, s)
      | none => s.freeBytes 3072
    let (rs, s2) := s1.ctxRecords r
    (b :: rs, s2)

/-- The header of a scaffold record. -/
def scaffoldHead (a : Act) (va pa mask flags : Nat) : List Byte :=
  bytesOf 8 va ++ bytesOf 8 pa ++ bytesOf 8 a.self.toNat ++ bytesOf 8 a.letter.postmark.toNat ++ bytesOf 8 mask ++ bytesOf 8 flags ++
    List.replicate 16 (0 : Byte)
/-- A line entry: a byte the mask leaves out is a free value; one found uncorrectable is all zeros. -/
def State.lineRecord (s : State) (a : Act) (drained : List Nat) (e : Nat × LineEntry) : List Byte × State :=
  let (junk, s1) := s.freeBytes 64
  let mask := e.2.bytes.foldl (fun m b => m + 2 ^ b.1) 0
  let bad := a.bad.contains e.1
  let bs := (List.range 64).map fun i => if bad then 0 else (e.2.bytes.find? i).getD (junk.getD i 0)
  (scaffoldHead a (e.1 * 64) e.2.pa mask (1 + (if bad then 2 else 0) + if drained.contains (e.1 * 64) then 4 else 0) ++ bs, s1)
def State.lineRecords (s : State) (a : Act) (drained : List Nat) (es : List (Nat × LineEntry)) : List (List Byte) × State :=
  match es with
  | [] => ([], s)
  | e :: r =>
    let (b, s1) := s.lineRecord a drained e
    let (rs, s2) := s1.lineRecords a drained r
    (b :: rs, s2)
/-- A scaffold page: its head, then the whole frame, a line found uncorrectable as zeros. -/
def State.pageRecord (s : State) (a : Act) (drained : List Nat) (g : Nat × ScaffPage) : List Byte :=
  let hit := drained.any fun v => v / 65536 == g.1
  let bad (i : Nat) : Bool := a.bad.contains (1024 * g.1 + i) || s.poison.contains (g.2.frame / 64 + i)
  let any_ := (List.range 1024).any bad
  let line (i : Nat) : List Byte := if bad i then List.replicate 64 0 else s.dram.read (g.2.frame + 64 * i) 64
  scaffoldHead a (g.1 * 65536) (g.2.leaf.addr + g.1 * 65536 % g.2.leaf.size) (2 ^ 64 - 1)
      (9 + (if any_ then 2 else 0) + if hit then 4 else 0) ++
    if any_ then (List.range 1024).flatMap line else s.dram.read g.2.frame 65536
/-- Section 4. -/
def State.scaffoldRecords (s : State) (drained : List Nat) (as : List Act) : List (List Byte) × State :=
  match as with
  | [] => ([], s)
  | a :: r =>
    let (ls, s1) := s.lineRecords a drained a.lines
    let (rs, s2) := s1.scaffoldRecords drained r
    (ls ++ (a.pages.map fun g => s.pageRecord a drained g) ++ rs, s2)

/-- Section 5. -/
def LostStore.record (l : LostStore) : List Byte :=
  bytesOf 8 l.va.toNat ++ bytesOf 8 l.size ++ bytesOf 8 l.data.toNat ++ bytesOf 8 l.actor.toNat ++ bytesOf 8 l.postmark.toNat ++
    bytesOf 8 l.ctx ++ bytesOf 8 l.reason ++ bytesOf 8 0

/-- Section 6: a prefix and 256 bytes for each entry, the letter itself where it is one. DESIGN CHOICE (log 109): the flag is dword 0 of the
prefix, 1 for the outbox of a stopped activation, 0 for an entry not departed; the rest of the prefix is a free value. -/
def State.outRecords (s : State) (flag : Nat) (os : List OutEntry) : List (List Byte) × State :=
  match os with
  | [] => ([], s)
  | o :: r =>
    let (head, s1) := s.freeBytes 56
    let (body, s2) := match o with
      | .letter l _ => (Letter.bytes l, s1)
      | _ => s1.freeBytes 256
    let (rs, s3) := s2.outRecords flag r
    ((bytesOf 8 flag ++ head ++ body) :: rs, s3)

/-- Section 9: committed memory in 64-byte lines, poisoned ones as zeros; a line no valid leaf maps is a free value. Answers the poisoned
lines too. -/
def State.memRecords (s : State) (p : Nat) (vas : List Nat) : List (List Byte) × List Nat × State :=
  match vas with
  | [] => ([], [], s)
  | va :: r =>
    let (b, bad, s1) : List Byte × List Nat × State := match s.walk p va with
      | .leaf l =>
        let pa := l.addr + va % l.size
        if s.poison.contains (pa / 64) then (List.replicate 64 (0 : Byte), [pa / 64 * 64], s) else (s.dram.read pa 64, [], s)
      | _ =>
        let (f, s1) := s.freeBytes 64
        (f, [], s1)
    let (rs, bads, s2) := s1.memRecords p r
    (b :: rs, bad ++ bads, s2)

/-- The contents of a partition dump (R414), and the poisoned lines among the memory in it. -/
def State.partBody (s : State) (p : Nat) (d : Dump) : (List DumpSect × List Nat) × State :=
  let k := s.part p
  let mine := (s.acts.filter fun a => a.2.p == p).map Prod.snd
  let done (a : Act) : Bool := k.committedGroups.any fun g => a.letter.gid != 0 && g.joined.any fun q => q.slot == a.slot && q.place == a.place
  let cs := (List.range (k.nrows * 2048)).map fun i => 2048 * k.row0 + i
  let (ctxs, s1) := s.ctxRecords cs
  let (scaff, s2) := s1.scaffoldRecords d.drained (mine.filter fun a => !done a)
  let held := (s.moving.filter fun m => pcPart m.letter.sender == p).map fun m => OutEntry.letter m.letter false
  let (left, s3) := s2.outRecords 0 (held ++ (mine.filter done).flatMap fun a => a.outbox)
  let (stopped, s3) := s3.outRecords 1 ((mine.filter fun a => !done a).flatMap fun a => a.outbox)
  let (actors, s4) := s3.freeRecords 512 k.actors.length
  let (mem, bad, s5) := s4.memRecords p (d.ranges.flatMap fun r => (List.range (r.2 / 64)).map fun i => r.1 + 64 * i)
  let lost := (s.lost.filter fun l => bits l.actor 44 4 == p).map LostStore.record
  (([d.summary bad, ⟨2, 1, padRecords 64 4096 (k.log.map rec64)⟩, ⟨3, 2, ctxs⟩, ⟨4, 3, scaff⟩, ⟨5, 3, lost⟩, ⟨6, 4, left ++ stopped⟩,
    ⟨7, 5, padRecords 64 256 (k.lastRecords.map rec64)⟩, ⟨8, 6, actors⟩, ⟨9, 7, mem⟩], bad), s5)

/-- The contents of a device dump (R414): nothing of any partition's memory or registers. -/
def State.deviceBody (s : State) (d : Dump) : (List DumpSect × List Nat) × State :=
  let (keys, s1) := s.freeRecords 64 64
  let word (off : Nat) : List Byte := bytesOf 8 (s.fn0Word off).toNat
  let fab := word 0x10000 ++ word 0x10008 ++ ((List.range 32).flatMap fun p => word (0x10100 + 8 * p)) ++
    ((List.range 2048).flatMap fun i => bytesOf 4 (s.fn0Word (0x12000 + 4 * i)).toNat) ++ bytesOf 64 s.lostmask.toNat ++
    (List.range 32).flatMap fun p => word (0x14000 + 8 * p)
  (([d.summary [], ⟨17, 1, keys⟩, ⟨18, 2, [fab]⟩, ⟨19, 3, [(List.range 4).flatMap fun i => word (0x200 + 8 * i)]⟩,
    ⟨20, 4, s.snapshots.toList⟩], []), s1)

/-- The buffered stores have drained or are lost: the dump is collected, or cannot be written (R407, R410). -/
def execStoreDrainDeadline (p : Option Nat) (s : State) : Out :=
  match (s.dumps.filter fun d => d.part == p && !d.ready).head? with
  | none => .next s
  | some d =>
    let out : Option Nat :=
      if d.size = 0 || d.size < 65536 then some 4
      else match p with
        | some q => if s.code == 1 || (s.part q).tdisp == .run then none else some 5
        | none => none
    match out with
    | some n =>
      .next ({ s with dumps := s.dumps.filter fun x => x.part != p }.setDumpStat p n false false d.code |>.post .dumpWrite)
    | none =>
      let (s1, drained) := match p with
        | some q => s.drainStores (s.stale.filter fun e => (s.acts.find? e.act).any fun (a : Act) => a.p == q)
        | none => (s, [])
      let ((body, poisoned), s2) := match p with
        | some q => s1.partBody q { d with drained := drained }
        | none => s1.deviceBody d
      let d1 := { d with ready := true, body := body, drained := drained, poisoned := poisoned }
      .next ({ s2 with dumps := s2.dumps.map fun (x : Dump) => if x.part == p then d1 else x }.post .dumpWrite)

/-! ## Layout (R412, R413, R416) -/

def up4096 (n : Nat) : Nat := (n + 4095) / 4096 * 4096
/-- Records that fit in some bytes. -/
def cutRecords (rs : List (List Byte)) (room : Nat) : List (List Byte) :=
  match rs with
  | [] => []
  | r :: t => if r.length ≤ room then r :: cutRecords t (room - r.length) else []
/-- A section as laid out: its entry's state, offset and whole length, and the bytes to write. -/
structure Laid where
  sect : DumpSect
  state : Nat
  offset : Nat
  full : Nat
  data : List Byte
  deriving DecidableEq, Repr
/-- Sections in order, whole while they fit, the first that does not cut at a record, the later ones left out. -/
def layOut (size : Nat) (ss : List DumpSect) (off : Nat) (over_ : Bool) : List Laid :=
  match ss with
  | [] => []
  | x :: r =>
    let all := x.records.flatten
    let next := up4096 (off + all.length)
    if over_ then ⟨x, 2, off, all.length, []⟩ :: layOut size r next true
    else if off + all.length ≤ size then ⟨x, 0, off, all.length, all⟩ :: layOut size r next false
    else ⟨x, 1, off, all.length, (cutRecords x.records (size - off)).flatten⟩ :: layOut size r next true
def Dump.laid (d : Dump) : List Laid := layOut d.size d.body 4096 false
def Dump.trunc (d : Dump) : Bool := d.laid.any fun l => l.state != 0
/-- Bytes of the whole dump, uncut. -/
def Dump.needed (d : Dump) : Nat := (d.laid.getLast?.map fun l => l.offset + l.full).getD 4096

/-- A section entry (R413). -/
def Dump.entry (d : Dump) (l : Laid) (i : Nat) : List Byte :=
  bytesOf 2 l.sect.type ++ bytesOf 1 l.sect.prio ++ bytesOf 1 (if d.bad.contains i then 3 else l.state) ++ bytesOf 4 0 ++
    bytesOf 8 l.offset ++ bytesOf 8 l.data.length ++ bytesOf 8 l.full ++ bytesOf 48 (Config.sha384 l.data).toNat
/-- Header bytes 0x000 to 0xA3F, with the final magic (R412). -/
def State.dumpHead (s : State) (d : Dump) : List Byte :=
  let flags := (if d.trunc then 1 else 0) + (if d.bad.isEmpty then 0 else 2) + (if d.secondary.isEmpty then 0 else 4)
  let es := (d.laid.zipIdx.flatMap fun l => d.entry l.1 l.2)
  bytesOf 8 0x504D445847 ++ bytesOf 2 1 ++ bytesOf 1 (if d.part.isSome then 1 else 2) ++ bytesOf 1 (d.part.getD 0xFF) ++
    bytesOf 2 d.body.length ++ bytesOf 2 flags ++ bytesOf 8 s.device ++ bytesOf 8 d.time ++ bytesOf 8 d.code.toNat ++
    bytesOf 8 d.endTime ++ bytesOf 8 d.needed ++ bytesOf 8 srVer.toNat ++ es ++ List.replicate (2560 - es.length) (0 : Byte)
/-- r then s, each 48 bytes big-endian (R412, R418). -/
def signature (digest : BitVec 384) : List Byte :=
  let w := Config.sign digest
  (bytesOf 48 (w.extractLsb' 384 384).toNat).reverse ++ (bytesOf 48 (w.extractLsb' 0 384).toNat).reverse
def State.dumpHeader (s : State) (d : Dump) : List Byte :=
  let h := s.dumpHead d
  h ++ signature (Config.sha384 h) ++ List.replicate 1376 (0 : Byte)

/-! ## Writing (R411, R417, R418) -/

/-- The dump at the head of the list is over; the next begins. -/
def State.endDump (s : State) (d : Dump) (state : Nat) : State :=
  { s with dumps := s.dumps.drop 1 }.setDumpStat d.part state d.trunc (!d.bad.isEmpty) d.code |>.post .dumpWrite
def State.putDump (s : State) (d : Dump) : State := { s with dumps := d :: s.dumps.drop 1 }

/-- The next write of the dump in progress: a section, the header without its magic, the magic. The delay before each stands for the
completion of the write before it. -/
def execDumpWrite (s : State) : Out :=
  match s.dumps with
  | [] => .next s
  | d :: _ =>
    let n := d.body.length
    if !d.ready then .next s
    else if d.sect < n then
      let s1 := match d.laid[d.sect]? with
        | some l => if l.data.isEmpty then s else s.emit (.hostWrite d.part (d.base + l.offset) l.data)
        | none => s
      let s2 := if d.sect = 0 then s1.setDumpStat d.part 2 false false d.code else s1
      .next ((s2.putDump { d with sect := d.sect + 1, endTime := s.now }).postIn .dumpWrite)
    else if d.sect = n then
      let body := if d.secondary.isEmpty then d.body else
        match d.body with
        | _ :: r => { d.summary d.poisoned with records := (d.summary d.poisoned).records.take 64 } :: r
        | [] => []
      let d1 := { d with body := body }
      let s1 := if d.secondary.isEmpty then s else
        match d1.laid.head? with
        | some l => s.emit (.hostWrite d.part (d.base + l.offset) l.data)
        | none => s
      let s2 := s1.emit (.hostWrite d.part (d.base + 8) ((s.dumpHeader d1).drop 8))
      .next ((s2.putDump { d1 with sect := n + 1 }).postIn .dumpWrite)
    else if d.sect = n + 1 then
      let s1 := s.emit (.hostWrite d.part d.base ((s.dumpHeader d).take 8))
      .next ((s1.putDump { d with sect := n + 2 }).postIn .dumpWrite)
    else .next (s.endDump d 3)

/-- A host write of the dump in progress failed or was not answered within 10 ms: its section is bad, and a header write ends the dump. The
header is written after every section: a failure found behind it makes it be written again. -/
def execDumpWriteTimeout (sect : Nat) (s : State) : Out :=
  match s.dumps with
  | [] => .next s
  | d :: _ =>
    if !d.ready || d.sect ≤ sect then .next s
    else if d.body.length ≤ sect then .next (s.endDump d 6)
    else .next (s.putDump { d with bad := if d.bad.contains sect then d.bad else d.bad ++ [sect], sect := min d.sect d.body.length })

/-- Die 0's management core has failed: the device stops with no dump (R405). -/
def execDie0ManagementCoreFailure (s : State) : Out :=
  .next ({ s with stopped := true }.setDumpReg none 0x10 (setBits (s.dumpReg none 0x10) 0 4 7))

end Sys2Proof.Machine
end

