-- ==== Sys2Proof/Machine/Dispatch.lean ====
section
/-! DEFINITION. The dispatch: one arm per constructor of Instr, each a direct call of its meaning. -/

namespace Sys2Proof.Machine

def exec (i : Instr) (s : State) : Host.Outcome State Fault Refusal :=
  match i with
  | .add o => Sys2Proof.Machine.execAdd o s
  | .sub o => Sys2Proof.Machine.execSub o s
  | .and o => Sys2Proof.Machine.execAnd o s
  | .or o => Sys2Proof.Machine.execOr o s
  | .xor o => Sys2Proof.Machine.execXor o s
  | .andn o => Sys2Proof.Machine.execAndn o s
  | .orn o => Sys2Proof.Machine.execOrn o s
  | .shl o => Sys2Proof.Machine.execShl o s
  | .shr o => Sys2Proof.Machine.execShr o s
  | .sra o => Sys2Proof.Machine.execSra o s
  | .rol o => Sys2Proof.Machine.execRol o s
  | .ror o => Sys2Proof.Machine.execRor o s
  | .min o => Sys2Proof.Machine.execMin o s
  | .max o => Sys2Proof.Machine.execMax o s
  | .minu o => Sys2Proof.Machine.execMinu o s
  | .maxu o => Sys2Proof.Machine.execMaxu o s
  | .sel o => Sys2Proof.Machine.execSel o s
  | .mov o => Sys2Proof.Machine.execMov o s
  | .mul o => Sys2Proof.Machine.execMul o s
  | .mulh o => Sys2Proof.Machine.execMulh o s
  | .mulhu o => Sys2Proof.Machine.execMulhu o s
  | .div o => Sys2Proof.Machine.execDiv o s
  | .divu o => Sys2Proof.Machine.execDivu o s
  | .rem o => Sys2Proof.Machine.execRem o s
  | .remu o => Sys2Proof.Machine.execRemu o s
  | .clz o => Sys2Proof.Machine.execClz o s
  | .ctz o => Sys2Proof.Machine.execCtz o s
  | .popc o => Sys2Proof.Machine.execPopc o s
  | .bswap o => Sys2Proof.Machine.execBswap o s
  | .addi o => Sys2Proof.Machine.execAddi o s
  | .andi o => Sys2Proof.Machine.execAndi o s
  | .ori o => Sys2Proof.Machine.execOri o s
  | .xori o => Sys2Proof.Machine.execXori o s
  | .shli o => Sys2Proof.Machine.execShli o s
  | .shri o => Sys2Proof.Machine.execShri o s
  | .srai o => Sys2Proof.Machine.execSrai o s
  | .li o => Sys2Proof.Machine.execLi o s
  | .lih o => Sys2Proof.Machine.execLih o s
  | .lea o => Sys2Proof.Machine.execLea o s
  | .cmpEq o => Sys2Proof.Machine.execCmpEq o s
  | .cmpNe o => Sys2Proof.Machine.execCmpNe o s
  | .cmpLt o => Sys2Proof.Machine.execCmpLt o s
  | .cmpLe o => Sys2Proof.Machine.execCmpLe o s
  | .cmpLtu o => Sys2Proof.Machine.execCmpLtu o s
  | .cmpLeu o => Sys2Proof.Machine.execCmpLeu o s
  | .cmpEqImm o => Sys2Proof.Machine.execCmpEqImm o s
  | .cmpNeImm o => Sys2Proof.Machine.execCmpNeImm o s
  | .cmpLtImm o => Sys2Proof.Machine.execCmpLtImm o s
  | .cmpLeImm o => Sys2Proof.Machine.execCmpLeImm o s
  | .cmpLtuImm o => Sys2Proof.Machine.execCmpLtuImm o s
  | .cmpLeuImm o => Sys2Proof.Machine.execCmpLeuImm o s
  | .pand o => Sys2Proof.Machine.execPand o s
  | .por o => Sys2Proof.Machine.execPor o s
  | .pxor o => Sys2Proof.Machine.execPxor o s
  | .pnot o => Sys2Proof.Machine.execPnot o s
  | .br o => Sys2Proof.Machine.execBr o s
  | .jmp o => Sys2Proof.Machine.execJmp o s
  | .call o => Sys2Proof.Machine.execCall o s
  | .callx o => Sys2Proof.Machine.execCallx o s
  | .ret o => Sys2Proof.Machine.execRet o s
  | .brtagSet o => Sys2Proof.Machine.execBrtagSet o s
  | .brtagClr o => Sys2Proof.Machine.execBrtagClr o s
  | .brtagErr o => Sys2Proof.Machine.execBrtagErr o s
  | .loop o => Sys2Proof.Machine.execLoop o s
  | .faddF32 o => Sys2Proof.Machine.execFaddF32 o s
  | .fsubF32 o => Sys2Proof.Machine.execFsubF32 o s
  | .fmulF32 o => Sys2Proof.Machine.execFmulF32 o s
  | .fmaF32 o => Sys2Proof.Machine.execFmaF32 o s
  | .fmsF32 o => Sys2Proof.Machine.execFmsF32 o s
  | .fnmaF32 o => Sys2Proof.Machine.execFnmaF32 o s
  | .fdivF32 o => Sys2Proof.Machine.execFdivF32 o s
  | .fsqrtF32 o => Sys2Proof.Machine.execFsqrtF32 o s
  | .fminF32 o => Sys2Proof.Machine.execFminF32 o s
  | .fmaxF32 o => Sys2Proof.Machine.execFmaxF32 o s
  | .fabsF32 o => Sys2Proof.Machine.execFabsF32 o s
  | .fnegF32 o => Sys2Proof.Machine.execFnegF32 o s
  | .fcmpEqF32 o => Sys2Proof.Machine.execFcmpEqF32 o s
  | .fcmpLtF32 o => Sys2Proof.Machine.execFcmpLtF32 o s
  | .fcmpLeF32 o => Sys2Proof.Machine.execFcmpLeF32 o s
  | .fcmpUnF32 o => Sys2Proof.Machine.execFcmpUnF32 o s
  | .fclsF32 o => Sys2Proof.Machine.execFclsF32 o s
  | .cvt o => Sys2Proof.Machine.execCvt o s
  | .vaddI32 o => Sys2Proof.Machine.execVaddI32 o s
  | .vsubI32 o => Sys2Proof.Machine.execVsubI32 o s
  | .vmulI32 o => Sys2Proof.Machine.execVmulI32 o s
  | .vmulhI32 o => Sys2Proof.Machine.execVmulhI32 o s
  | .vmulhUi32 o => Sys2Proof.Machine.execVmulhUi32 o s
  | .vminI32 o => Sys2Proof.Machine.execVminI32 o s
  | .vmaxI32 o => Sys2Proof.Machine.execVmaxI32 o s
  | .vminUi32 o => Sys2Proof.Machine.execVminUi32 o s
  | .vmaxUi32 o => Sys2Proof.Machine.execVmaxUi32 o s
  | .vabsI32 o => Sys2Proof.Machine.execVabsI32 o s
  | .vnegI32 o => Sys2Proof.Machine.execVnegI32 o s
  | .vaddF32 o => Sys2Proof.Machine.execVaddF32 o s
  | .vsubF32 o => Sys2Proof.Machine.execVsubF32 o s
  | .vmulF32 o => Sys2Proof.Machine.execVmulF32 o s
  | .vfmaF32 o => Sys2Proof.Machine.execVfmaF32 o s
  | .vfmsF32 o => Sys2Proof.Machine.execVfmsF32 o s
  | .vminF32 o => Sys2Proof.Machine.execVminF32 o s
  | .vmaxF32 o => Sys2Proof.Machine.execVmaxF32 o s
  | .vabsF32 o => Sys2Proof.Machine.execVabsF32 o s
  | .vnegF32 o => Sys2Proof.Machine.execVnegF32 o s
  | .vand o => Sys2Proof.Machine.execVand o s
  | .vor o => Sys2Proof.Machine.execVor o s
  | .vxor o => Sys2Proof.Machine.execVxor o s
  | .vandn o => Sys2Proof.Machine.execVandn o s
  | .vshl o => Sys2Proof.Machine.execVshl o s
  | .vshr o => Sys2Proof.Machine.execVshr o s
  | .vsra o => Sys2Proof.Machine.execVsra o s
  | .vcmpEqI32 o => Sys2Proof.Machine.execVcmpEqI32 o s
  | .vcmpNeI32 o => Sys2Proof.Machine.execVcmpNeI32 o s
  | .vcmpLtI32 o => Sys2Proof.Machine.execVcmpLtI32 o s
  | .vcmpLeI32 o => Sys2Proof.Machine.execVcmpLeI32 o s
  | .vcmpLtUi32 o => Sys2Proof.Machine.execVcmpLtUi32 o s
  | .vcmpLeUi32 o => Sys2Proof.Machine.execVcmpLeUi32 o s
  | .vcmpEqF32 o => Sys2Proof.Machine.execVcmpEqF32 o s
  | .vcmpLtF32 o => Sys2Proof.Machine.execVcmpLtF32 o s
  | .vcmpLeF32 o => Sys2Proof.Machine.execVcmpLeF32 o s
  | .vcmpUnF32 o => Sys2Proof.Machine.execVcmpUnF32 o s
  | .vsel o => Sys2Proof.Machine.execVsel o s
  | .vsplat o => Sys2Proof.Machine.execVsplat o s
  | .vsplatI o => Sys2Proof.Machine.execVsplatI o s
  | .vmov o => Sys2Proof.Machine.execVmov o s
  | .vext o => Sys2Proof.Machine.execVext o s
  | .vins o => Sys2Proof.Machine.execVins o s
  | .vperm o => Sys2Proof.Machine.execVperm o s
  | .vshufl o => Sys2Proof.Machine.execVshufl o s
  | .vrot o => Sys2Proof.Machine.execVrot o s
  | .vredaddI32 o => Sys2Proof.Machine.execVredaddI32 o s
  | .vredaddF32 o => Sys2Proof.Machine.execVredaddF32 o s
  | .vredminI32 o => Sys2Proof.Machine.execVredminI32 o s
  | .vredminUi32 o => Sys2Proof.Machine.execVredminUi32 o s
  | .vredminF32 o => Sys2Proof.Machine.execVredminF32 o s
  | .vredmaxI32 o => Sys2Proof.Machine.execVredmaxI32 o s
  | .vredmaxUi32 o => Sys2Proof.Machine.execVredmaxUi32 o s
  | .vredmaxF32 o => Sys2Proof.Machine.execVredmaxF32 o s
  | .vscanAddI32 o => Sys2Proof.Machine.execVscanAddI32 o s
  | .vscanAddF32 o => Sys2Proof.Machine.execVscanAddF32 o s
  | .vscanMinI32 o => Sys2Proof.Machine.execVscanMinI32 o s
  | .vscanMinUi32 o => Sys2Proof.Machine.execVscanMinUi32 o s
  | .vscanMinF32 o => Sys2Proof.Machine.execVscanMinF32 o s
  | .vscanMaxI32 o => Sys2Proof.Machine.execVscanMaxI32 o s
  | .vscanMaxUi32 o => Sys2Proof.Machine.execVscanMaxUi32 o s
  | .vscanMaxF32 o => Sys2Proof.Machine.execVscanMaxF32 o s
  | .mand o => Sys2Proof.Machine.execMand o s
  | .mor o => Sys2Proof.Machine.execMor o s
  | .mxor o => Sys2Proof.Machine.execMxor o s
  | .mnot o => Sys2Proof.Machine.execMnot o s
  | .mpop o => Sys2Proof.Machine.execMpop o s
  | .mfirst o => Sys2Proof.Machine.execMfirst o s
  | .mset o => Sys2Proof.Machine.execMset o s
  | .m2pAny o => Sys2Proof.Machine.execM2pAny o s
  | .m2pAll o => Sys2Proof.Machine.execM2pAll o s
  | .vcvt o => Sys2Proof.Machine.execVcvt o s
  | .vld o => Sys2Proof.Machine.execVld o s
  | .vst o => Sys2Proof.Machine.execVst o s
  | .vlds o => Sys2Proof.Machine.execVlds o s
  | .vsts o => Sys2Proof.Machine.execVsts o s
  | .vgather o => Sys2Proof.Machine.execVgather o s
  | .vscatter o => Sys2Proof.Machine.execVscatter o s
  | .vldUnpTf6 o => Sys2Proof.Machine.execVldUnpTf6 o s
  | .vldUnpI4 o => Sys2Proof.Machine.execVldUnpI4 o s
  | .vldUnpUi4 o => Sys2Proof.Machine.execVldUnpUi4 o s
  | .vstPkTf6 o => Sys2Proof.Machine.execVstPkTf6 o s
  | .vstPkI4 o => Sys2Proof.Machine.execVstPkI4 o s
  | .vstPkUi4 o => Sys2Proof.Machine.execVstPkUi4 o s
  | .vcvtLf8 o => Sys2Proof.Machine.execVcvtLf8 o s
  | .vdotLf8 o => Sys2Proof.Machine.execVdotLf8 o s
  | .ldI8 o => Sys2Proof.Machine.execLdI8 o s
  | .ldUi8 o => Sys2Proof.Machine.execLdUi8 o s
  | .ldI16 o => Sys2Proof.Machine.execLdI16 o s
  | .ldUi16 o => Sys2Proof.Machine.execLdUi16 o s
  | .ldI32 o => Sys2Proof.Machine.execLdI32 o s
  | .ldUi32 o => Sys2Proof.Machine.execLdUi32 o s
  | .ld64 o => Sys2Proof.Machine.execLd64 o s
  | .st8 o => Sys2Proof.Machine.execSt8 o s
  | .st16 o => Sys2Proof.Machine.execSt16 o s
  | .st32 o => Sys2Proof.Machine.execSt32 o s
  | .st64 o => Sys2Proof.Machine.execSt64 o s
  | .pref o => Sys2Proof.Machine.execPref o s
  | .ldAcq o => Sys2Proof.Machine.execLdAcq o s
  | .stRel o => Sys2Proof.Machine.execStRel o s
  | .amoAdd o => Sys2Proof.Machine.execAmoAdd o s
  | .amoAnd o => Sys2Proof.Machine.execAmoAnd o s
  | .amoOr o => Sys2Proof.Machine.execAmoOr o s
  | .amoXor o => Sys2Proof.Machine.execAmoXor o s
  | .amoMin o => Sys2Proof.Machine.execAmoMin o s
  | .amoMax o => Sys2Proof.Machine.execAmoMax o s
  | .amoMinu o => Sys2Proof.Machine.execAmoMinu o s
  | .amoMaxu o => Sys2Proof.Machine.execAmoMaxu o s
  | .amoSwap o => Sys2Proof.Machine.execAmoSwap o s
  | .amoCas o => Sys2Proof.Machine.execAmoCas o s
  | .amoFaddF32 o => Sys2Proof.Machine.execAmoFaddF32 o s
  | .fenceThr o => Sys2Proof.Machine.execFenceThr o s
  | .fenceGang o => Sys2Proof.Machine.execFenceGang o s
  | .fenceDev o => Sys2Proof.Machine.execFenceDev o s
  | .fenceXd o => Sys2Proof.Machine.execFenceXd o s
  | .barArrive o => Sys2Proof.Machine.execBarArrive o s
  | .barWait o => Sys2Proof.Machine.execBarWait o s
  | .barSync o => Sys2Proof.Machine.execBarSync o s
  | .barJoin o => Sys2Proof.Machine.execBarJoin o s
  | .barLeave o => Sys2Proof.Machine.execBarLeave o s
  | .barMissing o => Sys2Proof.Machine.execBarMissing o s
  | .tagWaitAny o => Sys2Proof.Machine.execTagWaitAny o s
  | .tagWaitAll o => Sys2Proof.Machine.execTagWaitAll o s
  | .tagWaitAnyXd o => Sys2Proof.Machine.execTagWaitAnyXd o s
  | .tagWaitAllXd o => Sys2Proof.Machine.execTagWaitAllXd o s
  | .tagFirst o => Sys2Proof.Machine.execTagFirst o s
  | .tagTest o => Sys2Proof.Machine.execTagTest o s
  | .tagClr o => Sys2Proof.Machine.execTagClr o s
  | .cp o => Sys2Proof.Machine.execCp o s
  | .cpDec o => Sys2Proof.Machine.execCpDec o s
  | .cpFill o => Sys2Proof.Machine.execCpFill o s
  | .cpFabRd o => Sys2Proof.Machine.execCpFabRd o s
  | .cpFabWr o => Sys2Proof.Machine.execCpFabWr o s
  | .cpFabRed o => Sys2Proof.Machine.execCpFabRed o s
  | .cpFabSig o => Sys2Proof.Machine.execCpFabSig o s
  | .cpSub o => Sys2Proof.Machine.execCpSub o s
  | .cpSlot o => Sys2Proof.Machine.execCpSlot o s
  | .cpUnsub o => Sys2Proof.Machine.execCpUnsub o s
  | .mxCtx o => Sys2Proof.Machine.execMxCtx o s
  | .mxCtxSt o => Sys2Proof.Machine.execMxCtxSt o s
  | .mxZero o => Sys2Proof.Machine.execMxZero o s
  | .mxMm o => Sys2Proof.Machine.execMxMm o s
  | .mxMms o => Sys2Proof.Machine.execMxMms o s
  | .mxConv o => Sys2Proof.Machine.execMxConv o s
  | .mxGmm o => Sys2Proof.Machine.execMxGmm o s
  | .mxLd o => Sys2Proof.Machine.execMxLd o s
  | .mxSt o => Sys2Proof.Machine.execMxSt o s
  | .mxPri o => Sys2Proof.Machine.execMxPri o s
  | .snd o => Sys2Proof.Machine.execSnd o s
  | .sndp o => Sys2Proof.Machine.execSndp o s
  | .spawn o => Sys2Proof.Machine.execSpawn o s
  | .link o => Sys2Proof.Machine.execLink o s
  | .unlink o => Sys2Proof.Machine.execUnlink o s
  | .mon o => Sys2Proof.Machine.execMon o s
  | .demon o => Sys2Proof.Machine.execDemon o s
  | .exit o => Sys2Proof.Machine.execExit o s
  | .kill o => Sys2Proof.Machine.execKill o s
  | .exitmail o => Sys2Proof.Machine.execExitmail o s
  | .retire o => Sys2Proof.Machine.execRetire o s
  | .txnAbort o => Sys2Proof.Machine.execTxnAbort o s
  | .txnAbortDrop o => Sys2Proof.Machine.execTxnAbortDrop o s
  | .txnExcl o => Sys2Proof.Machine.execTxnExcl o s
  | .rdsr o => Sys2Proof.Machine.execRdsr o s
  | .wrsr o => Sys2Proof.Machine.execWrsr o s
  | .trap o => Sys2Proof.Machine.execTrap o s
  | .eret o => Sys2Proof.Machine.execEret o s
  | .eretRe o => Sys2Proof.Machine.execEretRe o s
  | .ebreak o => Sys2Proof.Machine.execEbreak o s
  | .park o => Sys2Proof.Machine.execPark o s
  | .icinv o => Sys2Proof.Machine.execIcinv o s
  | .icinvAll o => Sys2Proof.Machine.execIcinvAll o s
  | .tlbinv o => Sys2Proof.Machine.execTlbinv o s
  | .tlbinvAll o => Sys2Proof.Machine.execTlbinvAll o s
  | .nop o => Sys2Proof.Machine.execNop o s
  | .hintSpaceWord o => Sys2Proof.Machine.execHintSpaceWord o s
  | .variableResultWrite ctx serial => Sys2Proof.Machine.execVariableResultWrite ctx serial s
  | .parkTimeout ctx => Sys2Proof.Machine.execParkTimeout ctx s
  | .issueGapExpiry ctx => Sys2Proof.Machine.execIssueGapExpiry ctx s
  | .letterArrival p l host => Sys2Proof.Machine.execLetterArrival p l host s
  | .groupTimeout p gid => Sys2Proof.Machine.execGroupTimeout p gid s
  | .place cluster => Sys2Proof.Machine.execPlace cluster s
  | .gangSave act => Sys2Proof.Machine.execGangSave act s
  | .drainEnter cluster => Sys2Proof.Machine.execDrainEnter cluster s
  | .activationCommit act => Sys2Proof.Machine.execActivationCommit act s
  | .groupPrepare p gid => Sys2Proof.Machine.execGroupPrepare p gid s
  | .groupCommitPoint p gid => Sys2Proof.Machine.execGroupCommitPoint p gid s
  | .groupApply p gid => Sys2Proof.Machine.execGroupApply p gid s
  | .groupWithdrawal p gid target why => Sys2Proof.Machine.execGroupWithdrawal p gid target why s
  | .activationFail act => Sys2Proof.Machine.execActivationFail act s
  | .budgetExpiry act => Sys2Proof.Machine.execBudgetExpiry act s
  | .killPoint p target why => Sys2Proof.Machine.execKillPoint p target why s
  | .restartEvent p sup child reason bySup => Sys2Proof.Machine.execRestartEvent p sup child reason bySup s
  | .wholeRestartRebuild p sup => Sys2Proof.Machine.execWholeRestartRebuild p sup s
  | .remoteRebuildRequest p src supervisor child img kill => Sys2Proof.Machine.execRemoteRebuildRequest p src supervisor child img kill s
  | .remoteCompletionReport p supervisor child result reason => Sys2Proof.Machine.execRemoteCompletionReport p supervisor child result reason s
  | .spawnReservationRequest p src serial img => Sys2Proof.Machine.execSpawnReservationRequest p src serial img s
  | .spawnReservationReply serial ok child => Sys2Proof.Machine.execSpawnReservationReply serial ok child s
  | .reservationRelease p child => Sys2Proof.Machine.execReservationRelease p child s
  | .linkRequestArrival p src issuer target isLink => Sys2Proof.Machine.execLinkRequestArrival p src issuer target isLink s
  | .courierCommandComplete cluster serial => Sys2Proof.Machine.execCourierCommandComplete cluster serial s
  | .feederTile act member handle => Sys2Proof.Machine.execFeederTile act member handle s
  | .mxDecision cluster => Sys2Proof.Machine.execMxDecision cluster s
  | .mxCommandComplete cluster => Sys2Proof.Machine.execMxCommandComplete cluster s
  | .frankedCommandArrival cluster c => Sys2Proof.Machine.execFrankedCommandArrival cluster c s
  | .frankingEntryActivate cluster index => Sys2Proof.Machine.execFrankingEntryActivate cluster index s
  | .lwbell p v => Sys2Proof.Machine.execLwbell p v s
  | .serviceCoreLetter p slot l die seq => Sys2Proof.Machine.execServiceCoreLetter p slot l die seq s
  | .apertureRead p off len => Sys2Proof.Machine.execApertureRead p off len s
  | .apertureWrite p off data => Sys2Proof.Machine.execApertureWrite p off data s
  | .ntcons p v => Sys2Proof.Machine.execNtcons p v s
  | .cmncmdCreate p id unordered => Sys2Proof.Machine.execCmncmdCreate p id unordered s
  | .cmncmdDestroy p id => Sys2Proof.Machine.execCmncmdDestroy p id s
  | .pdescSetUp p row0 nrows => Sys2Proof.Machine.execPdescSetUp p row0 nrows s
  | .pdescTearDown p => Sys2Proof.Machine.execPdescTearDown p s
  | .rprackRetry p serial => Sys2Proof.Machine.execRprackRetry p serial s
  | .rprackFail p serial => Sys2Proof.Machine.execRprackFail p serial s
  | .pwrcap cap => Sys2Proof.Machine.execPwrcap cap s
  | .powerAverageUpdate watts => Sys2Proof.Machine.execPowerAverageUpdate watts s
  | .dbgctlHalt core => Sys2Proof.Machine.execDbgctlHalt core s
  | .dbgctlResume core => Sys2Proof.Machine.execDbgctlResume core s
  | .dbgctlStep core ctx => Sys2Proof.Machine.execDbgctlStep core ctx s
  | .keyInstall p k key counter owner onIde => Sys2Proof.Machine.execKeyInstall p k key counter owner onIde s
  | .lostmaskClear bits => Sys2Proof.Machine.execLostmaskClear bits s
  | .registerWrite space off v => Sys2Proof.Machine.execRegisterWrite space off v s
  | .getVersion fn => Sys2Proof.Machine.execGetVersion fn s
  | .getCapabilities fn => Sys2Proof.Machine.execGetCapabilities fn s
  | .negotiateAlgorithms fn => Sys2Proof.Machine.execNegotiateAlgorithms fn s
  | .getDigests fn => Sys2Proof.Machine.execGetDigests fn s
  | .getCertificate fn => Sys2Proof.Machine.execGetCertificate fn s
  | .challenge fn nonce => Sys2Proof.Machine.execChallenge fn nonce s
  | .getMeasurements fn => Sys2Proof.Machine.execGetMeasurements fn s
  | .keyExchange fn => Sys2Proof.Machine.execKeyExchange fn s
  | .finish fin => Sys2Proof.Machine.execFinish fin s
  | .endSession fn => Sys2Proof.Machine.execEndSession fn s
  | .getTdispVersion p => Sys2Proof.Machine.execGetTdispVersion p s
  | .getTdispCapabilities p => Sys2Proof.Machine.execGetTdispCapabilities p s
  | .lockInterfaceRequest p => Sys2Proof.Machine.execLockInterfaceRequest p s
  | .getDeviceInterfaceReport p => Sys2Proof.Machine.execGetDeviceInterfaceReport p s
  | .getDeviceInterfaceState p => Sys2Proof.Machine.execGetDeviceInterfaceState p s
  | .startInterfaceRequest p => Sys2Proof.Machine.execStartInterfaceRequest p s
  | .stopInterfaceRequest p => Sys2Proof.Machine.execStopInterfaceRequest p s
  | .ideIntegrityFailure stream => Sys2Proof.Machine.execIdeIntegrityFailure stream s
  | .firmwareUpdate fw => Sys2Proof.Machine.execFirmwareUpdate fw s
  | .reset stage1 => Sys2Proof.Machine.execReset stage1 s
  | .junctionTemperature die celsius => Sys2Proof.Machine.execJunctionTemperature die celsius s
  | .serviceCoreCheck answered => Sys2Proof.Machine.execServiceCoreCheck answered s
  | .managementCoreCheck answered => Sys2Proof.Machine.execManagementCoreCheck answered s
  | .flitArrival router upstream crcOk forwarding tail => Sys2Proof.Machine.execFlitArrival router upstream crcOk forwarding tail s
  | .meshPacketArrival src dst cls seq needsForward msg => Sys2Proof.Machine.execMeshPacketArrival src dst cls seq needsForward msg s
  | .packetResendTimeout src dst cls => Sys2Proof.Machine.execPacketResendTimeout src dst cls s
  | .refusedRequestRetry target requester => Sys2Proof.Machine.execRefusedRequestRetry target requester s
  | .reservationHoldExpiry target => Sys2Proof.Machine.execReservationHoldExpiry target s
  | .fabricOpportunity port slot => Sys2Proof.Machine.execFabricOpportunity port slot s
  | .fabricItemArrival src item crcOk => Sys2Proof.Machine.execFabricItemArrival src item crcOk s
  | .creditWordArrival src credit ack relaxedBase relaxed lost => Sys2Proof.Machine.execCreditWordArrival src credit ack relaxedBase relaxed lost s
  | .relaxedResendTimeout dst seq => Sys2Proof.Machine.execRelaxedResendTimeout dst seq s
  | .fabricReadResponse src serial data denied cause => Sys2Proof.Machine.execFabricReadResponse src serial data denied cause s
  | .refusalResponseArrival src seq relaxed cause lost => Sys2Proof.Machine.execRefusalResponseArrival src seq relaxed cause lost s
  | .rotationEnd rotation => Sys2Proof.Machine.execRotationEnd rotation s
  | .uncorrectableError site => Sys2Proof.Machine.execUncorrectableError site s
  | .scrubLine site found => Sys2Proof.Machine.execScrubLine site found s
  | .exclusiveServiceStart die => Sys2Proof.Machine.execExclusiveServiceStart die s
  | .recordStallTimeout p => Sys2Proof.Machine.execRecordStallTimeout p s
  | .linkGridWindow => Sys2Proof.Machine.execLinkGridWindow s
  | .fatalCondition code p die place what => Sys2Proof.Machine.execFatalCondition code p die place what s
  | .storeDrainDeadline p => Sys2Proof.Machine.execStoreDrainDeadline p s
  | .dumpWrite => Sys2Proof.Machine.execDumpWrite s
  | .dumpWriteTimeout sect => Sys2Proof.Machine.execDumpWriteTimeout sect s
  | .dlcons p v => Sys2Proof.Machine.execDlcons p v s
  | .die0ManagementCoreFailure => Sys2Proof.Machine.execDie0ManagementCoreFailure s
  | .fabricCaptureComplete serial => Sys2Proof.Machine.execFabricCaptureComplete serial s

end Sys2Proof.Machine
end

