-- ==== Sys2Proof/Machine/Issue.lean ====
section
/-! DEFINITION. What the selector asks of an instruction before it issues (R76): its modifiers, registers and room, and whether it is a
control transfer. -/

namespace Sys2Proof

open Machine

/-- What an instruction issues under; none for a hint-space word, which waits for nothing (R159), and for an event. -/
def Instr.asks (i : Instr) : Option (Mods × Need × Ctl) :=
  match i with
  | .add o => some (o.m, o.need, .none)
  | .sub o => some (o.m, o.need, .none)
  | .and o => some (o.m, o.need, .none)
  | .or o => some (o.m, o.need, .none)
  | .xor o => some (o.m, o.need, .none)
  | .andn o => some (o.m, o.need, .none)
  | .orn o => some (o.m, o.need, .none)
  | .shl o => some (o.m, o.need, .none)
  | .shr o => some (o.m, o.need, .none)
  | .sra o => some (o.m, o.need, .none)
  | .rol o => some (o.m, o.need, .none)
  | .ror o => some (o.m, o.need, .none)
  | .min o => some (o.m, o.need, .none)
  | .max o => some (o.m, o.need, .none)
  | .minu o => some (o.m, o.need, .none)
  | .maxu o => some (o.m, o.need, .none)
  | .sel o => some (o.m, o.need, .none)
  | .mov o => some (o.m, o.need, .none)
  | .mul o => some (o.m, o.need, .none)
  | .mulh o => some (o.m, o.need, .none)
  | .mulhu o => some (o.m, o.need, .none)
  | .div o => some (o.m, o.needDiv, .none)
  | .divu o => some (o.m, o.needDiv, .none)
  | .rem o => some (o.m, o.needDiv, .none)
  | .remu o => some (o.m, o.needDiv, .none)
  | .clz o => some (o.m, o.need, .none)
  | .ctz o => some (o.m, o.need, .none)
  | .popc o => some (o.m, o.need, .none)
  | .bswap o => some (o.m, o.need, .none)
  | .addi o => some (o.m, o.need, .none)
  | .andi o => some (o.m, o.need, .none)
  | .ori o => some (o.m, o.need, .none)
  | .xori o => some (o.m, o.need, .none)
  | .shli o => some (o.m, o.need, .none)
  | .shri o => some (o.m, o.need, .none)
  | .srai o => some (o.m, o.need, .none)
  | .li o => some (o.m, o.need, .none)
  | .lih o => some (o.m, o.needRW, .none)
  | .lea o => some (o.m, o.need, .none)
  | .cmpEq o => some (o.m, o.need, .none)
  | .cmpNe o => some (o.m, o.need, .none)
  | .cmpLt o => some (o.m, o.need, .none)
  | .cmpLe o => some (o.m, o.need, .none)
  | .cmpLtu o => some (o.m, o.need, .none)
  | .cmpLeu o => some (o.m, o.need, .none)
  | .cmpEqImm o => some (o.m, o.need, .none)
  | .cmpNeImm o => some (o.m, o.need, .none)
  | .cmpLtImm o => some (o.m, o.need, .none)
  | .cmpLeImm o => some (o.m, o.need, .none)
  | .cmpLtuImm o => some (o.m, o.need, .none)
  | .cmpLeuImm o => some (o.m, o.need, .none)
  | .pand o => some (o.m, noNeed, .none)
  | .por o => some (o.m, noNeed, .none)
  | .pxor o => some (o.m, noNeed, .none)
  | .pnot o => some (o.m, noNeed, .none)
  | .br o => some (o.m, noNeed, .transfer)
  | .jmp o => some (o.m, o.needR, .transfer)
  | .call o => some (o.m, o.need, .transfer)
  | .callx o => some (o.m, o.needCallx, .transfer)
  | .ret o => some (o.m, o.needR, .transfer)
  | .brtagSet o => some (o.m, noNeed, .transfer)
  | .brtagClr o => some (o.m, noNeed, .transfer)
  | .brtagErr o => some (o.m, noNeed, .transfer)
  | .loop o => some (o.m, o.needRW, .transfer)
  | .faddF32 o => some (o.m, o.need, .none)
  | .fsubF32 o => some (o.m, o.need, .none)
  | .fmulF32 o => some (o.m, o.need, .none)
  | .fmaF32 o => some (o.m, o.need3, .none)
  | .fmsF32 o => some (o.m, o.need3, .none)
  | .fnmaF32 o => some (o.m, o.need3, .none)
  | .fdivF32 o => some (o.m, o.needDiv, .none)
  | .fsqrtF32 o => some (o.m, o.needDiv, .none)
  | .fminF32 o => some (o.m, o.need, .none)
  | .fmaxF32 o => some (o.m, o.need, .none)
  | .fabsF32 o => some (o.m, o.need, .none)
  | .fnegF32 o => some (o.m, o.need, .none)
  | .fcmpEqF32 o => some (o.m, o.need, .none)
  | .fcmpLtF32 o => some (o.m, o.need, .none)
  | .fcmpLeF32 o => some (o.m, o.need, .none)
  | .fcmpUnF32 o => some (o.m, o.need, .none)
  | .fclsF32 o => some (o.m, o.need, .none)
  | .cvt o => some (o.m, o.need, .none)
  | .vaddI32 o => some (o.m, o.need, .none)
  | .vsubI32 o => some (o.m, o.need, .none)
  | .vmulI32 o => some (o.m, o.need, .none)
  | .vmulhI32 o => some (o.m, o.need, .none)
  | .vmulhUi32 o => some (o.m, o.need, .none)
  | .vminI32 o => some (o.m, o.need, .none)
  | .vmaxI32 o => some (o.m, o.need, .none)
  | .vminUi32 o => some (o.m, o.need, .none)
  | .vmaxUi32 o => some (o.m, o.need, .none)
  | .vabsI32 o => some (o.m, o.need, .none)
  | .vnegI32 o => some (o.m, o.need, .none)
  | .vaddF32 o => some (o.m, o.need, .none)
  | .vsubF32 o => some (o.m, o.need, .none)
  | .vmulF32 o => some (o.m, o.need, .none)
  | .vfmaF32 o => some (o.m, o.need3, .none)
  | .vfmsF32 o => some (o.m, o.need3, .none)
  | .vminF32 o => some (o.m, o.need, .none)
  | .vmaxF32 o => some (o.m, o.need, .none)
  | .vabsF32 o => some (o.m, o.need, .none)
  | .vnegF32 o => some (o.m, o.need, .none)
  | .vand o => some (o.m, o.need, .none)
  | .vor o => some (o.m, o.need, .none)
  | .vxor o => some (o.m, o.need, .none)
  | .vandn o => some (o.m, o.need, .none)
  | .vshl o => some (o.m, o.need, .none)
  | .vshr o => some (o.m, o.need, .none)
  | .vsra o => some (o.m, o.need, .none)
  | .vcmpEqI32 o => some (o.m, o.need, .none)
  | .vcmpNeI32 o => some (o.m, o.need, .none)
  | .vcmpLtI32 o => some (o.m, o.need, .none)
  | .vcmpLeI32 o => some (o.m, o.need, .none)
  | .vcmpLtUi32 o => some (o.m, o.need, .none)
  | .vcmpLeUi32 o => some (o.m, o.need, .none)
  | .vcmpEqF32 o => some (o.m, o.need, .none)
  | .vcmpLtF32 o => some (o.m, o.need, .none)
  | .vcmpLeF32 o => some (o.m, o.need, .none)
  | .vcmpUnF32 o => some (o.m, o.need, .none)
  | .vsel o => some (o.m, o.need, .none)
  | .vsplat o => some (o.m, o.need, .none)
  | .vsplatI o => some (o.m, o.need, .none)
  | .vmov o => some (o.m, o.need, .none)
  | .vext o => some (o.m, o.need, .none)
  | .vins o => some (o.m, o.need, .none)
  | .vperm o => some (o.m, o.need, .none)
  | .vshufl o => some (o.m, o.need, .none)
  | .vrot o => some (o.m, o.need, .none)
  | .vredaddI32 o => some (o.m, o.need, .none)
  | .vredaddF32 o => some (o.m, o.need, .none)
  | .vredminI32 o => some (o.m, o.need, .none)
  | .vredminUi32 o => some (o.m, o.need, .none)
  | .vredminF32 o => some (o.m, o.need, .none)
  | .vredmaxI32 o => some (o.m, o.need, .none)
  | .vredmaxUi32 o => some (o.m, o.need, .none)
  | .vredmaxF32 o => some (o.m, o.need, .none)
  | .vscanAddI32 o => some (o.m, o.need, .none)
  | .vscanAddF32 o => some (o.m, o.need, .none)
  | .vscanMinI32 o => some (o.m, o.need, .none)
  | .vscanMinUi32 o => some (o.m, o.need, .none)
  | .vscanMinF32 o => some (o.m, o.need, .none)
  | .vscanMaxI32 o => some (o.m, o.need, .none)
  | .vscanMaxUi32 o => some (o.m, o.need, .none)
  | .vscanMaxF32 o => some (o.m, o.need, .none)
  | .mand o => some (o.m, noNeed, .none)
  | .mor o => some (o.m, noNeed, .none)
  | .mxor o => some (o.m, noNeed, .none)
  | .mnot o => some (o.m, noNeed, .none)
  | .mpop o => some (o.m, o.need, .none)
  | .mfirst o => some (o.m, o.need, .none)
  | .mset o => some (o.m, o.need, .none)
  | .m2pAny o => some (o.m, noNeed, .none)
  | .m2pAll o => some (o.m, noNeed, .none)
  | .vcvt o => some (o.m, o.need, .none)
  | .vld o => some (o.m, o.needL, .none)
  | .vst o => some (o.m, o.needS, .none)
  | .vlds o => some (o.m, o.needL, .none)
  | .vsts o => some (o.m, o.needS, .none)
  | .vgather o => some (o.m, o.needL, .none)
  | .vscatter o => some (o.m, o.needS, .none)
  | .vldUnpTf6 o => some (o.m, o.needL, .none)
  | .vldUnpI4 o => some (o.m, o.needL, .none)
  | .vldUnpUi4 o => some (o.m, o.needL, .none)
  | .vstPkTf6 o => some (o.m, o.needS, .none)
  | .vstPkI4 o => some (o.m, o.needS, .none)
  | .vstPkUi4 o => some (o.m, o.needS, .none)
  | .vcvtLf8 o => some (o.m, o.need, .none)
  | .vdotLf8 o => some (o.m, o.need3, .none)
  | .ldI8 o => some (o.m, o.needL, .none)
  | .ldUi8 o => some (o.m, o.needL, .none)
  | .ldI16 o => some (o.m, o.needL, .none)
  | .ldUi16 o => some (o.m, o.needL, .none)
  | .ldI32 o => some (o.m, o.needL, .none)
  | .ldUi32 o => some (o.m, o.needL, .none)
  | .ld64 o => some (o.m, o.needL, .none)
  | .st8 o => some (o.m, o.needS, .none)
  | .st16 o => some (o.m, o.needS, .none)
  | .st32 o => some (o.m, o.needS, .none)
  | .st64 o => some (o.m, o.needS, .none)
  | .pref o => some (o.m, o.need, .none)
  | .ldAcq o => some (o.m, o.needL, .none)
  | .stRel o => some (o.m, o.needS, .none)
  | .amoAdd o => some (o.m, o.need, .none)
  | .amoAnd o => some (o.m, o.need, .none)
  | .amoOr o => some (o.m, o.need, .none)
  | .amoXor o => some (o.m, o.need, .none)
  | .amoMin o => some (o.m, o.need, .none)
  | .amoMax o => some (o.m, o.need, .none)
  | .amoMinu o => some (o.m, o.need, .none)
  | .amoMaxu o => some (o.m, o.need, .none)
  | .amoSwap o => some (o.m, o.need, .none)
  | .amoCas o => some (o.m, o.needCas, .none)
  | .amoFaddF32 o => some (o.m, o.need, .none)
  | .fenceThr o => some (o.m, noNeed, .none)
  | .fenceGang o => some (o.m, noNeed, .none)
  | .fenceDev o => some (o.m, noNeed, .none)
  | .fenceXd o => some (o.m, noNeed, .none)
  | .barArrive o => some (o.m, noNeed, .none)
  | .barWait o => some (o.m, noNeed, .none)
  | .barSync o => some (o.m, noNeed, .none)
  | .barJoin o => some (o.m, noNeed, .none)
  | .barLeave o => some (o.m, noNeed, .none)
  | .barMissing o => some (o.m, o.need, .none)
  | .tagWaitAny o => some (o.m, o.needTag, .none)
  | .tagWaitAll o => some (o.m, o.needTag, .none)
  | .tagWaitAnyXd o => some (o.m, o.needTag, .none)
  | .tagWaitAllXd o => some (o.m, o.needTag, .none)
  | .tagFirst o => some (o.m, o.needFirst, .none)
  | .tagTest o => some (o.m, o.needTest, .none)
  | .tagClr o => some (o.m, o.needR, .none)
  | .cp o => some (o.m, o.need, .none)
  | .cpDec o => some (o.m, o.need, .none)
  | .cpFill o => some (o.m, o.need, .none)
  | .cpFabRd o => some (o.m, o.need, .none)
  | .cpFabWr o => some (o.m, o.need, .none)
  | .cpFabRed o => some (o.m, o.need, .none)
  | .cpFabSig o => some (o.m, o.need, .none)
  | .cpSub o => some (o.m, o.needSub, .none)
  | .cpSlot o => some (o.m, o.needSlot, .none)
  | .cpUnsub o => some (o.m, o.needUnsub, .none)
  | .mxCtx o => some (o.m, o.need, .none)
  | .mxCtxSt o => some (o.m, o.need, .none)
  | .mxZero o => some (o.m, o.need, .none)
  | .mxMm o => some (o.m, o.need, .none)
  | .mxMms o => some (o.m, o.need, .none)
  | .mxConv o => some (o.m, o.need, .none)
  | .mxGmm o => some (o.m, o.need, .none)
  | .mxLd o => some (o.m, o.need, .none)
  | .mxSt o => some (o.m, o.need, .none)
  | .mxPri o => some (o.m, mxPriNeed, .none)
  | .snd o => some (o.m, o.needSnd, .none)
  | .sndp o => some (o.m, o.needSnd, .none)
  | .spawn o => some (o.m, o.need, .none)
  | .link o => some (o.m, o.needActor, .none)
  | .unlink o => some (o.m, o.needActor, .none)
  | .mon o => some (o.m, o.needActor, .none)
  | .demon o => some (o.m, o.needActor, .none)
  | .exit o => some (o.m, o.needActor, .none)
  | .kill o => some (o.m, o.needActor, .none)
  | .exitmail o => some (o.m, actorNeed, .none)
  | .retire o => some (o.m, noNeed, .none)
  | .txnAbort o => some (o.m, noNeed, .none)
  | .txnAbortDrop o => some (o.m, noNeed, .none)
  | .txnExcl o => some (o.m, noNeed, .none)
  | .rdsr o => some (o.m, o.needR, .none)
  | .wrsr o => some (o.m, o.needW, .none)
  | .trap o => some (o.m, noNeed, .none)
  | .eret o => some (o.m, noNeed, .eret)
  | .eretRe o => some (o.m, noNeed, .eret)
  | .ebreak o => some (o.m, noNeed, .none)
  | .park o => some (o.m, noNeed, .none)
  | .icinv o => some (o.m, o.needActor, .none)
  | .icinvAll o => some (o.m, o.needActor, .none)
  | .tlbinv o => some (o.m, o.needActor, .none)
  | .tlbinvAll o => some (o.m, o.needActor, .none)
  | .nop _ => none
  | .hintSpaceWord _ => none
  | .variableResultWrite _ _ => none
  | .parkTimeout _ => none
  | .issueGapExpiry _ => none
  | .letterArrival _ _ _ => none
  | .groupTimeout _ _ => none
  | .place _ => none
  | .gangSave _ => none
  | .drainEnter _ => none
  | .activationCommit _ => none
  | .groupPrepare _ _ => none
  | .groupCommitPoint _ _ => none
  | .groupApply _ _ => none
  | .groupWithdrawal _ _ _ _ => none
  | .activationFail _ => none
  | .budgetExpiry _ => none
  | .killPoint _ _ _ => none
  | .restartEvent _ _ _ _ _ => none
  | .wholeRestartRebuild _ _ => none
  | .remoteRebuildRequest _ _ _ _ _ _ => none
  | .remoteCompletionReport _ _ _ _ _ => none
  | .spawnReservationRequest _ _ _ _ => none
  | .spawnReservationReply _ _ _ => none
  | .reservationRelease _ _ => none
  | .linkRequestArrival _ _ _ _ _ => none
  | .courierCommandComplete _ _ => none
  | .feederTile _ _ _ => none
  | .mxDecision _ => none
  | .mxCommandComplete _ => none
  | .frankedCommandArrival _ _ => none
  | .frankingEntryActivate _ _ => none
  | .lwbell _ _ => none
  | .serviceCoreLetter _ _ _ _ _ => none
  | .apertureRead _ _ _ => none
  | .apertureWrite _ _ _ => none
  | .ntcons _ _ => none
  | .cmncmdCreate _ _ _ => none
  | .cmncmdDestroy _ _ => none
  | .pdescSetUp _ _ _ => none
  | .pdescTearDown _ => none
  | .rprackRetry _ _ => none
  | .rprackFail _ _ => none
  | .pwrcap _ => none
  | .powerAverageUpdate _ => none
  | .dbgctlHalt _ => none
  | .dbgctlResume _ => none
  | .dbgctlStep _ _ => none
  | .keyInstall _ _ _ _ _ _ => none
  | .lostmaskClear _ => none
  | .registerWrite _ _ _ => none
  | .getVersion _ => none
  | .getCapabilities _ => none
  | .negotiateAlgorithms _ => none
  | .getDigests _ => none
  | .getCertificate _ => none
  | .challenge _ _ => none
  | .getMeasurements _ => none
  | .keyExchange _ => none
  | .finish _ => none
  | .endSession _ => none
  | .getTdispVersion _ => none
  | .getTdispCapabilities _ => none
  | .lockInterfaceRequest _ => none
  | .getDeviceInterfaceReport _ => none
  | .getDeviceInterfaceState _ => none
  | .startInterfaceRequest _ => none
  | .stopInterfaceRequest _ => none
  | .ideIntegrityFailure _ => none
  | .firmwareUpdate _ => none
  | .reset _ => none
  | .junctionTemperature _ _ => none
  | .serviceCoreCheck _ => none
  | .managementCoreCheck _ => none
  | .flitArrival _ _ _ _ _ => none
  | .meshPacketArrival _ _ _ _ _ _ => none
  | .packetResendTimeout _ _ _ => none
  | .refusedRequestRetry _ _ => none
  | .reservationHoldExpiry _ => none
  | .fabricOpportunity _ _ => none
  | .fabricItemArrival _ _ _ => none
  | .creditWordArrival _ _ _ _ _ _ => none
  | .relaxedResendTimeout _ _ => none
  | .fabricReadResponse _ _ _ _ _ => none
  | .refusalResponseArrival _ _ _ _ _ => none
  | .rotationEnd _ => none
  | .uncorrectableError _ => none
  | .scrubLine _ _ => none
  | .exclusiveServiceStart _ => none
  | .recordStallTimeout _ => none
  | .linkGridWindow => none
  | .fatalCondition _ _ _ _ _ => none
  | .storeDrainDeadline _ => none
  | .dumpWrite => none
  | .dumpWriteTimeout _ => none
  | .dlcons _ _ => none
  | .die0ManagementCoreFailure => none
  | .fabricCaptureComplete _ => none

/-- The branches of R184, which a breakpoint in their slot stops before (R319). -/
def Instr.isTransfer (i : Instr) : Bool :=
  match i.asks with
  | some (_, _, .transfer) => true
  | _ => false

end Sys2Proof
end

