-- ==== Sys2Proof/Machine/Cycle.lean ====
section
/-! DEFINITION. One cycle of the device: what a context fetches, which context of a core issues, what stops a core, and what the end of a
cycle brings (R65 to R77, R144, R145, R150, R268, R281, R298, R317 to R324, R328, R346, R351, R352, R360, R389, R396). -/

namespace Sys2Proof

open Machine

/-- The cause of an encoding fault (R150, R352). -/
def DecodeError.cause (e : DecodeError) : Nat :=
  match e with
  | .illegalInstruction => cIllegalInstruction
  | .illegalExtension => cIllegalExtension
  | .illegalOperand => cIllegalOperand

/-- Gap and switch-away mark of an instruction (R144). -/
def Instr.sw (i : Instr) : Bool :=
  match i with
  | .nop o => o.rest.getLsbD 11
  | .hintSpaceWord o => o.word.getLsbD 11
  | i => (i.asks.map fun a => a.1.sw).getD false

/-- The guard lets the instruction execute; never so of a hint-space word, which has no effect to stop before (R149, R319). -/
def Instr.guardOn (i : Instr) (k : Ctx) : Bool :=
  match i.asks with
  | some (m, _, _) => k.pr m.guard != m.sense
  | none => false

/-- The instruction may stand at the same PC again by its own effect: a return to itself (R165). -/
def Instr.returns (i : Instr) : Bool :=
  match i with
  | .eret _ => true
  | .eretRe _ => true
  | _ => false

end Sys2Proof

namespace Sys2Proof.Machine

/-! ## Fetch (R145, R346, R352) -/

/-- What a fetch answers: the twelve bytes, a trap with the table error behind it, or a line that never comes (R383). -/
inductive Fetched where
  | bytes (bs : List Byte)
  | trap (t : Trap) (table : Option (Nat × Nat × Nat))
  | never
  deriving DecidableEq, Repr

/-- A fetch trap: sr.badaddr is the PC. -/
def fetchTrap (code : Nat) (course : Course) (pc : Word) (table : Option (Nat × Nat × Nat)) : Fetched :=
  .trap { code := code, badaddr := some pc, course := course } table

/-- A fetched line stays usable until `icinv` (R145): where it differs from memory, either may be used (log 6). -/
def State.codeLine (s : State) (cl line pa : Nat) : List Byte × State :=
  let now := s.dram.read pa 64
  let keep (s : State) : State := s.modCluster cl fun k => { k with icache := k.icache.set line now }
  match (s.cluster cl).icache.find? line with
  | none => (now, keep s)
  | some old =>
    if old = now then (now, s)
    else
      let (stale, s1) := s.choose
      if stale then (old, s1) else (now, keep s1)

/-- Bytes [va, va + n) of one page, at pa, from the lines that hold them. -/
def State.codeBytes (s : State) (cl va pa n : Nat) : List Byte × State :=
  let (a, s1) := s.codeLine cl (va / 64) (pa / 64 * 64)
  let first := (a.drop (va % 64)).take n
  if n ≤ 64 - va % 64 then (first, s1)
  else
    let (b, s2) := s1.codeLine cl (va / 64 + 1) (pa / 64 * 64 + 64)
    (first ++ b.take (n - (64 - va % 64)), s2)

/-- Bytes of an instruction on one page: the page's leaf, its x attribute, its bytes. -/
def State.fetchPage (s : State) (c p : Nat) (pc : Word) (va n : Nat) : Fetched × State :=
  let cl := clusterOf c
  let miss := ((s.cluster cl).tlbHit va).isNone
  let (w, s0) := s.translate cl p va
  let s1 := if miss then s0.bump c 6 else s0
  match w with
  | .absent => (fetchTrap cNotPresent (s.repairCourse p false false) pc none, s1)
  | .error lv e at_ => (fetchTrap cNotPresent .fail pc (some (lv, e, at_)), s1)
  | .leaf l =>
    let pa := l.addr + va % l.size
    if !l.x then (fetchTrap cExecuteProtect .fail pc none, s1)
    else if s1.poison.contains (pa / 64) then (.never, s1.poisonHit p l pa)
    else
      let (bs, s2) := s1.codeBytes cl va pa n
      (.bytes bs, s2)

/-- The fetch at a PC, for a context of partition p. DESIGN CHOICE (log 92): a PC in the windows of TCM or scratchpad whose offset is itself
non-canonical meets both conditions of R352 and R372; it is execute-protect. -/
def State.fetch (s : State) (c p : Nat) (pc : Word) : Fetched × State :=
  let va := pc.toNat
  let win := va / 2 ^ 56
  if va % 4 ≠ 0 then (fetchTrap cMisaligned .fail pc none, s)
  else if win ≠ 0xFE ∧ win ≠ 0xFD ∧ (win ≠ 0 ∨ 2 ^ 52 < va + 12) then (fetchTrap cNonCanonical .fail pc none, s)
  else if win ≠ 0 then (fetchTrap cExecuteProtect .fail pc none, s)
  else
    let n := min 12 (65536 - va % 65536)
    match s.fetchPage c p pc va n with
    | (.bytes a, s1) =>
      if n = 12 then (.bytes a, s1)
      else
        match s1.fetchPage c p pc (va + n) (12 - n) with
        | (.bytes b, s2) => (.bytes (a ++ b), s2)
        | r => r
    | r => r

/-! ## What a context would issue (R70, R76) -/

/-- What holds an instruction back: an empty register, a held tag, an engine queue (R76, R321). -/
structure Blocked where
  reg : Bool
  tag : Bool
  queue : Bool
  deriving DecidableEq, Repr

/-- A context in a cycle: nothing to issue, an instruction that waits, or one that is eligible; of a trap of decoding, whether the guard of the
word lets it execute. -/
inductive Look where
  | idle
  | blocked (b : Blocked)
  | instr (i : Instr)
  | trap (t : Trap) (table : Option (Nat × Nat × Nat)) (guardOn : Bool)

def Look.eligible (l : Look) : Bool :=
  match l with
  | .instr _ => true
  | .trap _ _ _ => true
  | _ => false

/-- A decoded instruction: eligible, or held back. -/
def State.lookAt (s : State) (c : Nat) (k : Ctx) (i : Instr) : Look :=
  match i.asks with
  | none => .instr i
  | some (_, n, _) =>
    if s.eligible c k n then .instr i
    else .blocked
      { reg := n.srcs.any (fun r => r.2.isNone && !k.full r.1) || (n.dest.map fun r => !k.full r).getD false
        tag := !n.tag s k, queue := n.cls == .engine && !n.room s c k }

/-- The guard of a word that is no instruction (R149). -/
def wordGuard (k : Ctx) (bs : List Byte) : Bool :=
  let w := numOf bs
  k.pr (BitVec.ofNat 4 (w / 2 ^ 52)) != (w / 2 ^ 51 % 2 == 1)

/-- What the context at the head of a fetch finds; a FREE context has nothing. DESIGN CHOICE (log 93): a word that fails steps 2 to 4 of R150
traps without waiting for the registers its fields name. -/
noncomputable def State.look (s : State) (c : Nat) : Look × State :=
  match s.ctxs.find? c with
  | none => (.idle, s)
  | some k =>
    if !s.runs k then (.idle, s)
    else
      let p := ((s.acts.find? k.act).map fun a => a.p).getD 0
      match s.fetch c p k.pc with
      | (.trap t e, s1) => (.trap t e false, s1)
      | (.never, s1) => (.idle, s1)
      | (.bytes bs, s1) =>
        match decodeBytes bs with
        | .error e => (.trap { code := e.cause } none (wordGuard k bs), s1)
        | .ok i => (s1.lookAt c k i, s1)

/-- The contexts of a core, in number order. -/
noncomputable def State.looks (s : State) (cs : List Nat) : List (Nat × Look) × State :=
  match cs with
  | [] => ([], s)
  | c :: r =>
    let (l, s1) := s.look c
    let (ls, s2) := s1.looks r
    ((c, l) :: ls, s2)

/-! ## The selector (R77) -/

/-- The wait count of a context. -/
def Core.wait (q : Core) (c : Nat) : Nat := q.waits.getD (c % 8) 0
/-- Eligible contexts not chosen in the last cycle wait one cycle more. -/
def Core.countWaits (q : Core) (es : List Nat) : Core :=
  es.foldl (fun q c => if q.chosen == some (c % 8) then q else { q with waits := setAt q.waits (c % 8) (q.wait c + 1) }) q

/-- The starved context of greatest wait, lowest number on a tie. -/
def Core.starved (q : Core) (es : List Nat) : Option Nat :=
  (es.filter fun c => 256 ≤ q.wait c).foldl (fun b c =>
    match b with
    | none => some c
    | some x => if q.wait x < q.wait c then some c else b) none

/-- The context core n issues from, of those eligible. -/
def Core.pickCtx (q : Core) (n : Nat) (es : List Nat) : Option Nat :=
  match q.starved es with
  | some c => some c
  | none =>
    if es.contains (8 * n + q.cur) && !q.marks.getLsbD q.cur then some (8 * n + q.cur)
    else ((List.range 8).map fun i => 8 * n + (q.cur + 1 + i) % 8).find? es.contains

/-! ## Counters and samples (R321, R324) -/


/-- One cycle of waiting, or its end, for a context. -/
def State.countLook (s : State) (x : Nat × Look) : State :=
  let c := x.1
  let tagWait := ((s.ctxs.find? c).bind fun k => k.wait).any fun w => match w with
    | .tag _ _ _ _ => true
    | _ => false
  let waits := tagWait || match x.2 with
    | .blocked b => b.reg || b.tag
    | _ => false
  if waits then s.modCtx c fun k => { k with sampleWait := k.sampleWait + 1 } else s.endWait c

/-- Events 3 and 4: a cycle in which some context of the core waited on an empty register, or on an engine queue or a held tag. Whether one
was eligible is kept for event 2. -/
def Core.countBlocked (k : Core) (ls : List (Nat × Look)) : Core :=
  let has (f : Blocked → Bool) : Bool := ls.any fun x => match x.2 with
    | .blocked b => f b
    | _ => false
  let k0 := { k with able := ls.any fun x => x.2.eligible }
  let k1 := if has Blocked.reg then k0.bump 3 1 else k0
  if has fun b => b.tag || b.queue then k1.bump 4 1 else k1

/-! ## Breakpoints, watches and steps (R317 to R319) -/

/-- An enabled instruction breakpoint matches an address. -/
def Core.breaks (k : Core) (c : Nat) (pc : Word) : Bool :=
  k.bp.zipIdx.any fun b =>
    b.1.getLsbD 0 && !b.1.getLsbD 1 && (b.1.getLsbD 2 || bits k.bpctx (3 * b.2) 3 == c % 8) && bits b.1 3 61 == bits pc 3 61

/-- The bytes committed memory holds at an address: what stands in a slot, seen before its transfer issues. -/
def State.peek (s : State) (p : Nat) (pc : Word) : Option (List Byte) :=
  let part (va n : Nat) : Option (List Byte) := match s.walk p va with
    | .leaf l => some (s.dram.read (l.addr + va % l.size) n)
    | _ => none
  let n := min 12 (65536 - pc.toNat % 65536)
  match part pc.toNat n, (if n = 12 then some [] else part (pc.toNat + n) (12 - n)) with
  | some a, some b => some (a ++ b)
  | _, _ => none
/-- The guard lets the word of these bytes execute, be it an instruction or none. -/
noncomputable def guardAt (k : Ctx) (bs : List Byte) : Bool :=
  match decodeBytes bs with
  | .ok i => i.guardOn k
  | .error _ => wordGuard k bs

/-- A breakpoint stops the core before an instruction that executes, or a word that is none, or before the transfer in whose slot it
stands. -/
noncomputable def State.breakHit (s : State) (c : Nat) (k : Ctx) (l : Look) : Bool :=
  let q := s.core (coreOf c)
  let p := ((s.acts.find? k.act).map fun a => a.p).getD 0
  !q.halted && q.passed != some (c, k.act) && k.slot.isNone &&
    match l with
    | .instr i => (q.breaks c k.pc && i.guardOn k) ||
        (i.isTransfer && q.breaks c (k.pc + 12) && (s.peek p (k.pc + 12)).any (guardAt k))
    | .trap _ _ guardOn => q.breaks c k.pc && guardOn
    | _ => false

/-- A step of R317 ends: the core is halted again. -/
def State.endStep (s : State) (n : Nat) : State :=
  let q := s.core n
  s.setCore n { q with dbgctl := setBits (q.dbgctl &&& ~~~0x100) 4 3 5, stepped := false, stopCtx := some (8 * n + bits q.dbgctl 9 3) }
    |>.traceStop n 5
/-- The PC and slot of a context are as they were. -/
def State.atSame (s : State) (c : Nat) (was : Ctx) (f : Ctx → Bool) : Bool :=
  (s.ctxs.find? c).any fun k => k.act == was.act && k.pc == was.pc && k.slot == was.slot && f k
/-- An instruction has not moved on: a bank (R83) or a line (R110) refuses it in this cycle. -/
def State.stillAt (s : State) (c : Nat) (was : Ctx) : Bool := s.atSame c was fun k => k.wait.isNone && k.pause.isNone
/-- An instruction in progress waits for a repair (R377). -/
def State.midway (s : State) (c : Nat) (was : Ctx) : Bool := s.atSame c was fun k => k.pause == some .repair
/-- An access refused in this cycle has not issued: its gap, switch-away mark, counts and samples are taken back, so that it is tried in the
next cycle (R77, R83, R321, R324); `was` and `q` are its context and core before. -/
def State.takeBack (s : State) (c : Nat) (was : Ctx) (q : Core) : State :=
  let issues (i : Nat) : Bool := bits q.pmctl (8 * i) 8 == 1
  let s1 := s.modCtx c fun k => { k with gap := was.gap, samples := was.samples }
  s1.modCore (coreOf c) fun k =>
    { k with
      issued := q.issued
      marks := setBit k.marks (c % 8) false
      pmc := k.pmc.mapIdx fun i n => if issues i then q.pmc.getD i 0 else n
      pmctl := (List.range 4).foldl (fun w i => if issues i then setBit w (32 + i) (q.pmctl.getLsbD (32 + i)) else w) k.pmctl }
/-- A step of R317 is done once an instruction has moved on and does not stand before its slot or in its sequence (R318). -/
def State.stepDone (s : State) (c : Nat) : State :=
  let n := coreOf c
  let q := s.core n
  if !q.halted || !q.dbgctl.getLsbD 8 then s
  else if (s.ctxs.find? c).any fun k => k.inside s.clock then s.modCore n fun q => { q with stepped := true }
  else s.endStep n
/-- A stepped instruction whose sequence has ended. -/
def State.settleStep (s : State) (n : Nat) : State :=
  let q := s.core n
  let c := 8 * n + bits q.dbgctl 9 3
  if q.stepped && q.halted && q.dbgctl.getLsbD 8 && !((s.ctxs.find? c).any fun k => k.inside s.clock) then s.endStep n else s

/-- After an issue: the core remembers its choice; a watch that matched asks for a stop once its instruction is over; a stop may take force.
`was` and `was'` are its context and core before; `held`: it was refused. -/
def State.afterIssue (s : State) (c : Nat) (was : Ctx) (was' : Core) (held : Bool) : State :=
  let n := coreOf c
  let ended := !(held || s.midway c was)
  let s0 := if held then s.takeBack c was was' else s
  let s1 := { s0 with cur := none }.modCore n fun q =>
    let q1 := { q with chosen := some (c % 8), cur := c % 8, watched := if ended then q.watched.filter fun x => x != c else q.watched
                       passed := if q.passed == some (c, was.act) && !held then none else q.passed }
    if ended && q.watched.contains c then q1.ask 3 (some c) else q1
  let s2 := s1.settleStop n
  if held then s2 else s2.stepDone c

/-- The chosen context issues: a trap found by its fetch or its decoding is taken, an instruction is performed. DESIGN CHOICE (log 99): a word
that traps in steps 2 to 4 of R150 leaves no gap and no switch-away mark. -/
noncomputable def State.issueFrom (s : State) (c : Nat) (l : Look) : Out :=
  let s0 := s.endWait c
  match s0.ctxs.find? c with
  | none => .next s
  | some k =>
    let q := s0.core (coreOf c)
    if s0.breakHit c k l then
      .next ((s0.modCore (coreOf c) fun q => { (q.ask 2 (some c)) with passed := some (c, k.act) }).settleStop (coreOf c))
    else
      match l with
      | .trap t e _ => .next ((((s0.charge c 0 false).noteTable (agentOf c k) k.pc.toNat e).raise c t).afterIssue c k q false)
      | .instr i =>
        match exec i { s0 with cur := some c } with
        | .next s1 => .next (s1.afterIssue c k q (s1.stillAt c k && !i.returns))
        | .fault f => .fault f
        | .refused r => .refused r
      | _ => .next s0

/-! ## A core in a cycle -/

/-- The contexts of a core that hold a member. -/
def State.heldAt (s : State) (n : Nat) : List Nat := ((List.range 8).map fun i => 8 * n + i).filter fun c => (s.ctxs.find? c).isSome
/-- The core's debug state lets a context issue: of a halted core, the stepped one; of a core about to stop, those in a slot. -/
def State.allowed (s : State) (n c : Nat) : Bool :=
  let q := s.core n
  if q.halted then q.dbgctl.getLsbD 8 && c % 8 == bits q.dbgctl 9 3 && (!q.stepped || (s.ctxs.find? c).any fun k => k.slot.isSome)
  else !q.dbgctl.getLsbD 0 || (s.ctxs.find? c).any fun k => k.slot.isSome

/-- One cycle of core n. In a withheld cycle waits are counted as in an idle one, and nothing issues (R324, R328). -/
noncomputable def State.coreCycle (s : State) (n : Nat) : Out :=
  let s0 := (s.settleStop n).settleStep n
  let (ls, s1) := s0.looks (s0.heldAt n)
  let withheld := s0.withheld.getLsbD (dieOfCluster (n / 16))
  let es := if withheld then [] else (ls.filter fun x => x.2.eligible && s0.allowed n x.1).map Prod.fst
  let s2 := (ls.foldl State.countLook s1).modCore n fun q => (q.countWaits es).countBlocked ls
  let idle := s2.modCore n fun q => { q with chosen := none }
  match (s2.core n).pickCtx n es with
  | none => .next idle
  | some c =>
    match ls.find? fun x => x.1 == c with
    | some x => idle.issueFrom c x.2
    | none => .next idle

/-! ## The end of a cycle -/

/-- The activation's partition has met no fatal condition (R406). -/
def State.lives (s : State) (a : Nat) : Bool :=
  match s.acts.find? a with
  | some k => (s.part k.p).fatal.isNone
  | none => true

/-- A context at the end of a cycle: fixed writes land (R151); its gap and its `park` run on. -/
def State.endCtx (s : State) (c : Nat) (k : Ctx) : Ctx :=
  if !s.lives k.act then k
  else
    let k1 := k.land s.clock
    let issued := (s.core (coreOf c)).chosen == some (c % 8)
    let k2 := if 1 < k1.gap && !issued then { k1 with gap := k1.gap - 1 } else k1
    match k2.wait with
    | some (.park left) => { k2 with wait := some (.park (left - 1)) }
    | _ => k2

/-- Events of a context that are due in the next cycle: the end of a gap, of a `park`, results (R76, R77, R153, R255). -/
def State.ctxEvents (s : State) (c : Nat) (k : Ctx) : List Event :=
  if !s.lives k.act then []
  else
    let issued := (s.core (coreOf c)).chosen == some (c % 8)
    (if k.gap = 1 && !issued then [.issueGapExpiry c] else []) ++
      (match k.wait with
       | some (.park left) => if left ≤ 1 then [.parkTimeout c] else []
       | _ => []) ++
      (k.vres.filterMap fun r => match r.due with
        | some d => if d ≤ s.clock + 1 then some (.variableResultWrite c r.serial) else none
        | none => none)

/-- The wait of every head that is not running (R268). -/
def Cluster.waits (k : Cluster) : Cluster :=
  { k with fctxs := k.fctxs.mapVals fun f x =>
      if x.queue.isEmpty || (k.mxrun.any fun r => r.fctx == f) then x else { x with w := x.w + 1 } }

/-- Events of a cluster: a decision point, placement, drain mode, franking entries (R67, R71, R268, R283). -/
def State.clusterEvents (s : State) (n : Nat) (k : Cluster) : List Event :=
  if (s.partAt n).any fun p => (s.part p).fatal.isSome then []
  else
    (match k.mxrun with
     | none => if (k.best none).isSome then [.mxDecision n] else []
     | some r => if r.due ≤ s.clock && r.failed.isNone && r.words.isEmpty then [.mxDecision n] else []) ++
    (match k.queue.head?, k.drain with
     | some e, none => if e.since + 3000000 ≤ s.clock then [.drainEnter n] else []
     | _, _ => []) ++
    (if k.queue.isEmpty then [] else [.place n]) ++
    (k.frank.filterMap fun e => if e.2.getLsbD 0 && !e.2.getLsbD 1 && k.activate e.1 != k then some (.frankingEntryActivate n e.1) else none)

/-- The budget count of an activation goes on at a tick of R360. -/
def State.counts (s : State) (n : Nat) (a : Act) : Bool :=
  s.clock != a.placedAt && (s.clock - a.placedAt) % 1500 == 0 && a.phase == .running && (s.part a.p).fatal.isNone && !s.finished n a &&
    a.contexts.all fun c => !(s.core (coreOf c)).halted

/-- An activation at the end of a cycle: its budget. -/
def State.countBudgets (s : State) : State :=
  { s with acts := s.acts.mapVals fun n a => if s.counts n a then { a with count := a.count + 1 } else a }

/-- Events of an activation: budget, save, failure at its turn; a commit after a free time (R73, R109, R348, R360; log 4). -/
def State.actEvents (s : State) (n : Nat) (a : Act) : List Event :=
  if (s.part a.p).fatal.isSome then []
  else
    (if a.img.budget < a.count && a.phase == .running then [.budgetExpiry n] else []) ++
    (if s.savable n then [.gangSave n] else []) ++
    (match a.phase with
     | .failed _ recorded =>
       if (recorded || s.oldest n a) && !((s.part a.p).stalled.any fun r => r.cont.contains (.activationFail n)) then [.activationFail n] else []
     | _ => [])

/-- A ready activation is taken up by its keystone after a free number of cycles, once, and commits in the first cycle from then on in which it
is ready (R63, R109; log 4). The number is bounded, as the promise of R63 to a gang that waits for its place asks. -/
def State.commitEvents (s : State) : State :=
  s.acts.foldl (fun st a =>
    if a.2.letter.inGroup || !s.ready a.1 a.2 then st
    else
      match a.2.commitAt with
      | none =>
        let (d, st1) := st.delay
        st1.modAct a.1 fun k => { k with commitAt := some (s.clock + d % 1000000) }
      | some t => if t ≤ s.clock then st.post (.activationCommit a.1) else st) s

/-- Events of a partition: groups ready to lock, records stalled too long (R114, R351). -/
def State.partEvents (s : State) (p : Nat) (k : Part) : List Event :=
  if k.fatal.isSome then []
  else
    (k.groups.filterMap fun g => if !g.2.locked && s.groupReady p g.2 then some (.groupPrepare p g.1) else none) ++
    (if k.stalled.any fun r => 15000000 ≤ s.clock - r.since then [.recordStallTimeout p] else [])

/-- A peer has work that has not been sent. -/
def State.unsent (s : State) (b : Nat) : Bool :=
  let pr := s.peers.get b {}
  pr.ordered.any (fun q => q.sentAt.isNone) || !pr.relay.isEmpty ||
    s.peers.any fun d => d.2.relaxed.any fun q => q.sentAt.isNone

/-- Opportunities in progress, and rotations that end (R298, R340, R396); `t` is the time since the epoch a cycle ago. -/
def State.fabricEvents (s : State) (before : Nat) : List Event :=
  if !s.fabricOn then []
  else
    let e := (s.fn0Word 0x10008).toNat
    match s.sinceEpoch with
    | none => []
    | some t =>
      let len := max 1 s.slotLen
      let slot := s.slotNumber % s.nslots
      (if e ≤ before && (before - e) / (len * s.nslots) != t / (len * s.nslots) then [.rotationEnd ((before - e) / (len * s.nslots))] else []) ++
      (if t % len < s.guardLen then []
       else (List.range 32).filterMap fun port =>
         match s.slotPeer port slot with
         | none => none
         | some b =>
           if ((s.ports.find? port).map fun x => x.number) != some s.slotNumber || (s.ports.find? port).any (fun x => !x.out.isEmpty) ||
               (s.unsent b && s.roomLeft port != 0) then
             some (.fabricOpportunity port slot)
           else none)

/-- A die whose cluster has an exclusive letter first in its queue begins to serve it (R389). -/
def State.exclusiveEvents (s : State) : List Event :=
  ((List.range 4).filter fun d => (s.served.find? d).isNone &&
    s.clusters.any fun k => dieOfCluster k.1 == d && (s.exclusiveHead k.1).isSome).map Event.exclusiveServiceStart

/-- Gated dies withhold issue in a free share of cycles (R328; log 4). -/
def State.gate (s : State) : State :=
  (List.range 4).foldl (fun st d =>
    if (s.gating ||| s.hot).getLsbD d then
      let (held, st1) := st.choose
      { st1 with withheld := setBit st1.withheld d held }
    else st) { s with withheld := 0 }

/-- Cores that take part in the next cycle: those with a context. -/
def State.coresDue (s : State) : List Nat :=
  let ns := s.ctxs.map fun c => coreOf c.1
  ns.foldl (fun l n => if l.contains n then l else l ++ [n]) []

/-- Counters of a core at the end of a cycle, and its last choice (R77, R321). -/
def Core.endCycle (k : Core) (due : Bool) : Core :=
  let k1 := k.bump 0 1
  let k2 := { (if k.chosen.isNone && !k.able then k1.bump 2 1 else k1) with able := false }
  if due then k2 else { k2 with chosen := none }

/-- The clocks move on: each value of the postmark clock is handed out once (R26). -/
def State.advanceClock (s : State) : State :=
  { s with skew := s.skew + (max 1 s.stamps - 1), stamps := 0, turn := 0, clock := s.clock + 1 }

/-- The queues of the placers are brought up to date (R65 to R67). -/
def State.sortFrames (s : State) : State :=
  let s1 := s.markCandidates
  let homes := s1.parts.flatMap fun k => k.2.actors.map fun w => w.2.cluster
  let ns := (s1.clusters.map Prod.fst ++ homes).foldl (fun l n => if l.contains n then l else l ++ [n]) []
  ns.foldl State.refreshQueue s1

/-- The die of an activation's keystone. -/
def State.actDie (s : State) (n : Nat) : Nat := ((s.acts.find? n).map fun a => dieOfCluster a.cluster).getD 0
/-- The lowest die of a group's members. -/
def State.groupDie (s : State) (p gid : Nat) (ks : Tbl Group) : Nat :=
  match (ks.find? gid).bind (s.groupActs p) with
  | some as => as.foldl (fun d a => min d (dieOfCluster a.2.cluster)) 3
  | none => 0
/-- The earliest turn at which an event may take a value of the postmark clock; none for one that takes none (R26). -/
def State.turnOf (s : State) (e : Event) : Option Nat :=
  match e with
  | .activationCommit n => some (Stamper.keystone.turn (s.actDie n))
  | .activationFail n => some (Stamper.keystone.turn (s.actDie n))
  | .groupCommitPoint p g => some (Stamper.keystone.turn (s.groupDie p g (s.part p).groups))
  | .groupApply p g => some (Stamper.keystone.turn (s.groupDie p g (s.part p).closing))
  | .killPoint p w _ => some (Stamper.keystone.turn (s.homeDie p w))
  | .serviceCoreLetter _ _ _ die _ => some (Stamper.serviceCore.turn die)

  | .restartEvent p sup _ _ _ => some (Stamper.keystone.turn (s.homeDie p (BitVec.ofNat 64 (sup * 2 ^ 24))))
  | .wholeRestartRebuild p sup => some (Stamper.keystone.turn (s.homeDie p (BitVec.ofNat 64 (sup * 2 ^ 24))))
  | .remoteCompletionReport p w _ _ _ => some (Stamper.keystone.turn (s.homeDie p w))
  | .fabricItemArrival _ _ _ => some 0
  | .refusalResponseArrival _ _ _ _ _ => some 0
  | .creditWordArrival _ _ _ _ _ _ => some 0
  | .rotationEnd _ => some 0
  | _ => none
/-- Events in the order of their turns, behind those that take no value (R26). -/
def State.byTurn (s : State) (es : List Event) : List Event :=
  (es.filter fun e => (s.turnOf e).isNone) ++ (List.range 16).flatMap fun t => es.filter fun e => s.turnOf e == some t

/-- Timers that have run out. -/
def State.fireTimers (s : State) : State :=
  let due (t : Nat × Event) : Bool := t.1 ≤ s.clock
  { s with timers := s.timers.filter fun t => !due t }.posts ((s.timers.filter due).map Prod.snd)

/-- Members in WAIT whose contexts may issue from this cycle on test their conditions again (R73). -/
def State.recheckWaits (s : State) : State :=
  ((s.ctxs.filter fun c => c.2.wait.isSome && c.2.start == s.clock).map Prod.fst).foldl State.recheckWait s

/-- The banks a core would ask in this cycle, were all of them free (R83; log 46). -/
noncomputable def State.coreAsks (s : State) (n : Nat) : List (Nat × Nat) :=
  let free := s.modCluster (n / 16) fun k => { k with banks := [], asks := [] }
  match free.coreCycle n with
  | .next s1 => ((s1.cluster (n / 16)).banks.filter fun b => b.2.busy == s.clock + 1).map fun b => (b.1, n % 16)
  | _ => []
/-- The requests the cores of a cycle bring to the banks, then those of the matrix units (R83). -/
noncomputable def State.askCycle (s : State) (due : List Nat) : State :=
  let s1 := { s with clusters := s.clusters.mapVals fun cl k =>
    { k with asks := (due.filter fun n => n / 16 == cl).flatMap s.coreAsks } }
  ((s1.clusters.filter fun k => !(s1.partAt k.1).any fun p => (s1.part p).fatal.isSome).map Prod.fst).foldl State.askMatrix s1

/-- A poisoned line that has become part of a page table makes its partition fatal (R385, R405). -/
def State.checkTables (s : State) : State :=
  let bad (k : Nat × Part) : Option Event :=
    if k.2.state != .ready || k.2.fatal.isSome then none
    else (s.poison.find? fun l => s.inTable k.1 (64 * l)).map fun l =>
      .fatalCondition 1 (some k.1) (dieOfPa (64 * l)) (BitVec.ofNat 64 (64 * l)) (if 64 * l < sramTop then 7 else 8)
  if s.poison.isEmpty then s else s.posts (s.parts.filterMap bad)
/-- Stops asked of a core take force also where its contexts have gone (R318). -/
def State.settleStops (s : State) : State :=
  s.cores.foldl (fun st k => if k.2.dbgctl.getLsbD 0 && !k.2.halted then st.settleStop k.1 else st) s
/-- The activations whose last command is over are checked for errors that nobody has acknowledged (R357). -/
def State.checkErrors (s : State) : State := s.acts.foldl (fun st a => if st.engineBusy a.1 then st else st.unackCheck a.1) s

/-- The end of a cycle: what was due lands, the clock moves on, and everything due in the next cycle stands in the agenda. -/
noncomputable def State.tick (s : State) : State :=
  let ctxDue := s.ctxs.flatMap fun c => s.ctxEvents c.1 c.2
  let s0 := s.sendOwed 16
  let s1 := { s0 with ctxs := s0.ctxs.mapVals fun c k => s0.endCtx c k }
  let before := s1.now
  let due := s1.coresDue
  let s2 := { s1 with cores := s1.cores.mapVals fun n k => k.endCycle (due.contains n) }.advanceClock
  let s3 := (s2.arrive fun t => t.due ≤ s2.clock).checkErrors.countBudgets.moveLetters.retryFabric
  let s4 := ((s3.posts ctxDue).fireTimers).checkTables.settleStops.yieldGroups.sortFrames.recheckWaits
  let s5 := { s4 with clusters := s4.clusters.mapVals fun _ k => k.waits }
  let es := s5.acts.flatMap (fun a => s5.actEvents a.1 a.2) ++ s5.parts.flatMap (fun k => s5.partEvents k.1 k.2) ++
    s5.clusters.flatMap (fun k => s5.clusterEvents k.1 k.2) ++ s5.exclusiveEvents ++ s5.serviceEvents ++ s5.fabricEvents before ++
    (if before / 65536 != s5.now / 65536 then [.linkGridWindow] else [])
  let s6 := (s5.posts es).commitEvents
  let s7 := s6.gate.askCycle due
  { s7 with todo := due, agenda := s7.byTurn s7.agenda }

/-! ## One step -/

/-- A device whose die 0 management core has failed is stopped, and waits for a reset (R405, R408). -/
noncomputable def State.stoppedStep (s : State) : Out :=
  match s.agenda with
  | [] => .next s
  | .reset stage1 :: r => exec (Event.toInstr (.reset stage1)) { s with agenda := r }
  | _ :: r => .next { s with agenda := r }

/-- An event the end of a cycle posts again by itself: a service core still holds its letter. -/
def State.comesBack (s : State) (e : Event) : Bool :=
  match e with
  | .serviceCoreLetter p slot l die seq => (s.svc.get die []).any fun x => x.work == .letter p slot seq l
  | _ => false
/-- The event whose turn has come is performed; one whose turn in this cycle is past waits for the next (R26). -/
noncomputable def State.runEvent (s : State) (e : Event) : Out :=
  match s.turnOf e with
  | none => exec e.toInstr s
  | some t => if t < s.turn then .next (if s.comesBack e then s else s.postAt 1 e) else exec e.toInstr (s.sendOwed t)

/-- The first event that is due, else the next core of this cycle, else the end of the cycle (log 3). The clock of a device whose bring-up has
stopped before the end of stage 4 does not run (R325): function 0 still answers. -/
noncomputable def State.oneStep (s : State) : Out :=
  if s.stopped then s.stoppedStep
  else
    match s.agenda with
    | e :: r => { s with agenda := r }.runEvent e
    | [] =>
      match s.todo with
      | n :: r => { s with todo := r }.coreCycle n
      | [] => if s.bootReason = 0 then .next s.tick else .next s

/-! ## A state that runs a given instruction next (log 8) -/

/-- The image and the letter of the actor that runs it. -/
def cradleImage : Image :=
  { entry := 0, g := 1, gx := 1, depth := 1, ordered := false, overflowFail := false, exitMail := true, delegate := true
    supervisor := true, whole := false, quota := 4096, budget := 1000, region := 0, init := [], commons := none, home := some 0
    maxr := 1, window := 1 }
def cradleLetter : Letter := Letter.made 1 0 0 0 0
/-- A page table of two entries at 0x0 and 0x20000: one page of 1 GiB at virtual address 0, readable, writable and executable, of slot 0,
on the first DRAM stack; the instruction stands at its start. -/
def cradleMem (m : Mem) (bs : List Byte) : Mem :=
  let table := m.setNum 0 16 0x20001
  let leaf := table.setNum 0x20000 16 0x1000000079
  leaf.write 0x1000000000 bs
def State.cradle (s : State) (bs : List Byte) : State :=
  let n := s.serial
  let actor := newActor 1 cradleImage 0 0 1 [] none
  let box : Held := { place := 0, letter := cradleLetter, state := .active n }
  let act : Act :=
    { p := 0, slot := 0, self := 1, letter := cradleLetter, img := cradleImage, cluster := 0, areaBase := 0, areaSize := 4096
      members := [{ ctx := some 0 }]
      bars := (List.range 8).map fun i => (i, { members := 1 })
      order := 0, place := 0, placedAt := s.clock, ranSince := s.clock }
  let part : Part :=
    { state := .ready, row0 := 0, nrows := 24, share := 536, setAt := s.clock, actors := [(0, { actor with box := [box], nextPlace := 1, nextOrder := 1 })]
      images := [(0, cradleImage)] }
  { s with
    serial := n + 1
    stopped := false
    agenda := []
    todo := [0]
    cur := none
    cores := s.cores.erase 0
    clusters := s.clusters.erase 0
    parts := s.parts.set 0 part
    acts := s.acts.set n act
    ctxs := s.ctxs.set 0 { act := n, member := 0, start := s.clock }
    withheld := 0
    dram := cradleMem s.dram bs }

end Sys2Proof.Machine
end

