-- ==== Sys2Proof/Machine/Step.lean ====
section
/-! DEFINITION. One step of the machine, and a state about to fetch a given instruction. -/

namespace Sys2Proof.Machine

/-- One step: the first event due, else the next core of the cycle, else the end of the cycle. -/
noncomputable def step (s : State) : Host.Outcome State Fault Refusal := s.oneStep

/-- s with partition 0 set up, an activation of actor slot 0 placed with one member on context 0, its PC at address 0 of a page that
holds the instruction, and core 0 about to select (log 8). -/
def State.withFetchWord (s : State) (nbits w : Nat) : State := s.cradle (leBytes 12 (w % 2 ^ nbits))

end Sys2Proof.Machine
end

