-- ==== Sys2Proof/Machine/Loader.lean ====
section
/-! DEFINITION. Code objects: the DXO header, its sections, version note and image records, and what the loader does with them (R307 to R309,
R311). No event of the opcode table loads an object (log 54). -/

namespace Sys2Proof.Machine

/-! ## The fields of an object (R307, R308) -/

/-- The number of n bytes at an offset of a file; a file that is too short reads as zeros. -/
def field (file : List Byte) (off n : Nat) : Nat := numOf ((file.drop off).take n)
/-- Bytes that must be zero. -/
def zeroAt (file : List Byte) (off n : Nat) : Bool := field file off n == 0

structure DxoHeader where
  base : Nat
  secttab : Nat
  nsect : Nat
  note : Nat
  imgtab : Nat
  nimg : Nat
  ctsect : Option Nat
  deriving DecidableEq, Repr

inductive SectKind where
  | text | rodata | data | calltable
  deriving DecidableEq, Repr

structure Sect where
  kind : SectKind
  align : Nat
  contents : List Byte
  vaddr : Nat
  deriving DecidableEq, Repr

structure VersionNote where
  semmaj : Nat
  semmin : Nat
  mand : Word
  opt : Word
  deriving DecidableEq, Repr

/-- Why the loader refuses an object (R309). -/
inductive LoadError where
  /-- the semantic version exceeds the device's -/
  | version
  /-- a mandatory feature the device lacks -/
  | feature
  /-- a feature both mandatory and optional -/
  | mandAndOpt
  | reserved
  /-- a header or a section entry breaks R307 -/
  | malformed
  | mapped
  | tableFull
  | regionSize
  /-- the loader's own: frames or covering tables it has not got (log 54) -/
  | noRoom
  deriving DecidableEq, Repr

/-- 0xFFFF names nothing. -/
def unlessNone (n : Nat) : Option Nat := if n = 0xFFFF then none else some n

/-- The header, if R307 admits it: its base in partition virtual space (R79), its tables in the file. -/
def dxoHeader (file : List Byte) : Option DxoHeader :=
  let nsect := field file 0x06 2
  let nimg := field file 0x28 2
  let base := field file 0x08 8
  let inFile (off n : Nat) : Bool := off + n ≤ file.length
  let tables := inFile (field file 0x10 8) (48 * nsect) && inFile (field file 0x18 8) 32 && (nimg == 0 || inFile (field file 0x20 8) (64 * nimg))
  if file.take 4 == [0x44, 0x58, 0x4F, 0x00] && field file 0x04 2 == 1 && 1 ≤ nsect && nsect ≤ 256 && base % 65536 == 0 && base < 2 ^ 52 &&
      nimg ≤ 4096 && tables then
    some { base := base, secttab := field file 0x10 8, nsect := nsect, note := field file 0x18 8, imgtab := field file 0x20 8, nimg := nimg
           ctsect := unlessNone (field file 0x2A 2) }
  else none

/-- A kind code of a section. -/
def sectKind (n : Nat) : Option SectKind :=
  match n with
  | 1 => some .text
  | 2 => some .rodata
  | 3 => some .data
  | 4 => some .calltable
  | _ => none
/-- A name is ASCII, zero-padded. -/
def nameOk (bs : List Byte) : Bool := bs.all (fun b => b.toNat < 128) && (bs.dropWhile fun b => b != 0).all fun b => b == 0

/-- A section, if its entry keeps R307. -/
def dxoSect (file : List Byte) (at_ : Nat) : Option Sect :=
  let align := field file (at_ + 0x14) 4
  let off := field file (at_ + 0x18) 8
  let size := field file (at_ + 0x20) 8
  let vaddr := field file (at_ + 0x28) 8
  match sectKind (field file (at_ + 0x10) 4) with
  | none => none
  | some k =>
    if nameOk ((file.drop at_).take 16) && 2 ≤ align && align ≤ 16 && vaddr % 2 ^ align == 0 && off + size ≤ file.length &&
        (k != .calltable || size % 8 == 0) then
      some { kind := k, align := align, contents := (file.drop off).take size, vaddr := vaddr }
    else none

/-- The 64 KiB pages of a section, counted from the load base. -/
def Sect.pages (x : Sect) : List Nat :=
  if x.contents.isEmpty then []
  else (List.range ((x.vaddr + x.contents.length - 1) / 65536 + 1 - x.vaddr / 65536)).map fun i => x.vaddr / 65536 + i
/-- Sections of different kinds share no page (R307). -/
def pagesApart (xs : List Sect) : Bool := xs.all fun a => xs.all fun b => a.kind == b.kind || !a.pages.any b.pages.contains

/-- The sections, if they and the call table's index keep R307, and lie in partition virtual space (R79). -/
def dxoSects (file : List Byte) (h : DxoHeader) : Option (List Sect) :=
  ((List.range h.nsect).mapM fun i => dxoSect file (h.secttab + 48 * i)).bind fun xs =>
    let ct := match h.ctsect with
      | some i => (xs[i]?).any fun x => x.kind == .calltable
      | none => true
    if ct && pagesApart xs && xs.all fun x => h.base + x.vaddr + x.contents.length ≤ 2 ^ 52 then some xs else none

def versionNote (file : List Byte) (h : DxoHeader) : VersionNote :=
  { semmaj := field file h.note 1, semmin := field file (h.note + 1) 1, mand := BitVec.ofNat 64 (field file (h.note + 8) 8)
    opt := BitVec.ofNat 64 (field file (h.note + 0x10) 8) }

/-- Every reserved field of the header, of the version note and of the image records is zero. -/
def reservedClear (file : List Byte) (h : DxoHeader) : Bool :=
  zeroAt file 0x2C 20 && zeroAt file (h.note + 3) 5 && zeroAt file (h.note + 0x18) 8 && (List.range h.nimg).all fun i =>
    let r := h.imgtab + 64 * i
    field file (r + 0x0C) 4 < 64 && zeroAt file (r + 0x27) 1 && zeroAt file (r + 0x2C) 20 &&
      (field file (r + 0x24) 2 == 0xFFFF || field file (r + 0x24) 2 % 128 == 0)

/-! ## Image records (R311) -/

/-- The bytes a section gives a region: zero needs no entry. -/
def initOf (bs : List Byte) : List (Nat × Byte) := (bs.zipIdx.filter fun b => b.1 != 0).map fun b => (b.2, b.1)

/-- The image a 64-byte record describes; none when its initial contents name no section. DESIGN CHOICE (log 106): a mailbox depth of 0 or
above 256, which R309 does not refuse, is taken as it stands. -/
def imageOfRecord (r : List Byte) (xs : List Sect) : Option Image :=
  let flag (i : Nat) : Bool := (BitVec.ofNat 32 (field r 0x0C 4)).getLsbD i
  let init := match unlessNone (field r 0x20 2) with
    | none => some []
    | some i => (xs[i]?).map fun (x : Sect) => initOf x.contents
  init.map fun bytes =>
    { entry := BitVec.ofNat 64 (field r 0x00 8), g := field r 0x08 1, gx := field r 0x09 1, depth := field r 0x0A 2, ordered := flag 0
      overflowFail := flag 1, exitMail := flag 2, delegate := flag 3, supervisor := flag 4, whole := flag 5, quota := field r 0x10 4
      budget := field r 0x14 4, region := field r 0x18 8, init := bytes, commons := unlessNone (field r 0x22 2)
      home := (unlessNone (field r 0x24 2)).map fun n => n / 128, maxr := field r 0x26 1, window := field r 0x28 4 }

def dxoImages (file : List Byte) (h : DxoHeader) (xs : List Sect) : Option (List Image) :=
  (List.range h.nimg).mapM fun i => imageOfRecord ((file.drop (h.imgtab + 64 * i)).take 64) xs

/-! ## Admission (R309) -/

/-- An object the loader has read. -/
structure Dxo where
  header : DxoHeader
  sects : List Sect
  images : List Image
  deriving DecidableEq, Repr

/-- The pages of an object from its base, each with its kind. -/
def Dxo.pages (x : Dxo) : List (Nat × SectKind) :=
  (x.sects.flatMap fun q => q.pages.map fun i => (i, q.kind)).foldl (fun l e => if l.any (fun y => y.1 == e.1) then l else l ++ [e]) []
/-- The address of a page. -/
def Dxo.pageVa (x : Dxo) (i : Nat) : Nat := x.header.base + 65536 * i

/-- The range of an object from its base is already mapped somewhere (R309). -/
def State.mapped (s : State) (p : Nat) (x : Dxo) : Bool :=
  let size := x.sects.foldl (fun n q => max n (q.vaddr + q.contents.length)) 0
  x.pages.any (fun q => s.walk p (x.pageVa q.1) != .absent) ||
    (s.leaves p).any fun l => l.1 < x.header.base + size && x.header.base < l.1 + l.2.size
/-- (semmaj, semmin) exceeds the device's, compared major first. -/
def VersionNote.exceeds (n : VersionNote) (ver : Word) : Bool :=
  bits ver 24 8 < n.semmaj || (n.semmaj == bits ver 24 8 && bits ver 16 8 < n.semmin)

/-- The object in a file, or why the loader refuses it, by the first case of R309 that holds. -/
def State.admits (s : State) (p : Nat) (file : List Byte) : Except LoadError Dxo :=
  let k := s.part p
  match dxoHeader file with
  | none => .error .malformed
  | some h =>
    let n := versionNote file h
    if n.exceeds srVer then .error .version
    else if n.mand &&& ~~~s.srFeat != 0 then .error .feature
    else if n.mand &&& n.opt != 0 then .error .mandAndOpt
    else if !reservedClear file h then .error .reserved
    else
      match (dxoSects file h).bind fun xs => (dxoImages file h xs).map fun is => (⟨h, xs, is⟩ : Dxo) with
      | none => .error .malformed
      | some x =>
        if s.mapped p x then .error .mapped
        else if 4096 < k.images.length + x.images.length then .error .tableFull
        else if x.images.any fun i => (k.word 0x98).toNat < i.region then .error .regionSize
        else .ok x

/-! ## Loading and unloading (R307, R311) -/

/-- The attributes a kind gives its pages: bits r, w and x of a leaf. -/
def SectKind.attrs : SectKind → Nat
  | .text => 16 + 64
  | .rodata => 16
  | .data => 16 + 32
  | .calltable => 16 + 32

/-- One page: its frame takes the bytes its sections place there, zero elsewhere, and its leaf is the system actor's. -/
def State.loadPage (s : State) (x : Dxo) (entry frame : Nat) (page : Nat × SectKind) : State :=
  let m := s.dram.clear frame 65536
  let put (m : Mem) (q : Sect) : Mem :=
    let lo := max q.vaddr (65536 * page.1)
    let hi := min (q.vaddr + q.contents.length) (65536 * page.1 + 65536)
    if lo < hi then m.write (frame + (lo - 65536 * page.1)) ((q.contents.drop (lo - q.vaddr)).take (hi - lo)) else m
  let m1 := x.sects.foldl put m
  { s.cleanLines frame 65536 with dram := (m1.setNum entry 8 (1 + 8 + page.2.attrs + frame)).setNum (entry + 8) 8 (0xFFFF * 65536) }

/-- The level-0 entries of the pages of an object. -/
def State.objectEntries (s : State) (p : Nat) (vas : List Nat) : Option (List Nat × State) :=
  match vas with
  | [] => some ([], s)
  | va :: r =>
    match s.openEntry p va with
    | none => none
    | some (e, s1) => (s1.objectEntries p r).map fun q => (e :: q.1, q.2)

/-- The lowest indices of an image table that are free. -/
def freeIndices (t : Tbl Image) (n : Nat) : List Nat := ((List.range 4096).filter fun i => (t.find? i).isNone).take n

/-- The loader admits an object, maps its pages on frames of its own choice, and copies its image records into the table; `homes` are the
home clusters it sets. It reports the indices. -/
def State.loadObject (s : State) (p : Nat) (file : List Byte) (frames : List Nat) (homes : List (Option Nat)) :
    Except LoadError (List Nat × State) :=
  match s.admits p file with
  | .error e => .error e
  | .ok x =>
    match s.objectEntries p (x.pages.map fun q => x.pageVa q.1) with
    | none => .error .noRoom
    | some (es, s1) =>
      if frames.length < es.length then .error .noRoom
      else
        let s2 := ((es.zip frames).zip x.pages).foldl (fun st q => st.loadPage x q.1.1 q.1.2 q.2) s1
        let idx := freeIndices (s.part p).images x.images.length
        let put (t : Tbl Image) (q : (Nat × Image) × Nat) : Tbl Image := t.set q.1.1 { q.1.2 with home := (homes[q.2]?).getD q.1.2.home }
        .ok (idx, s2.modPart p fun k => { k with images := (idx.zip x.images).zipIdx.foldl put k.images })

/-- Unloading an object removes its entries of the image table. -/
def State.unloadObject (s : State) (p : Nat) (idx : List Nat) : State :=
  s.modPart p fun k => { k with images := k.images.filter fun i => !idx.contains i.1 }

end Sys2Proof.Machine
end

