-- ==== Sys2Proof/Safety.lean ====
section
/-! DEFINITION. What counts as a safe run, and the words in which claims speak of one instruction: when a context performs it, what an
instruction leaves alone. -/

namespace Sys2Proof

open Machine

/-- A step that neither faults nor refuses. -/
def SafeStep (s : State) : Prop := ∃ t, step s = .next t

/-- A state that n steps lead to, each of them safe. -/
def Reaches (s : State) (n : Nat) (t : State) : Prop :=
  match n with
  | 0 => s = t
  | k + 1 => ∃ u, step s = .next u ∧ Reaches u k t

/-- A run of n steps that none of them stops. -/
def SafeRun (s : State) (n : Nat) : Prop := ∃ t, Reaches s n t

/-! ## One instruction of one context -/

/-- Context c, holding k, performs the effect of i (R76, R150): it is the one that issues, nothing it needs is missing, it is no transfer in
a slot, its guard is true, and no source of empty-action 1 is empty. -/
def Issues (s : State) (i : Instr) (c : Nat) (k : Ctx) : Prop :=
  s.cur = some c ∧ s.ctxs.find? c = some k ∧
    match i.asks with
    | some (m, n, ctl) =>
      s.eligible c k n = true ∧ (ctl = .none ∨ k.slot = none) ∧ k.pr m.guard ≠ m.sense ∧ k.emptyInfo n = none
    | none => s.runs k = true

/-- The state the effect of i starts from: its issue is counted, its gap and the core's switch-away mark are set (R77, R321). -/
def issued (s : State) (i : Instr) (c : Nat) : State :=
  match i.asks with
  | some (m, _, _) => s.charge c m.gap.toNat m.sw
  | none => s

/-- t is s but for the contents of context c and the counters of its core. -/
def OnlyContext (c : Nat) (s t : State) : Prop :=
  t = { s with ctxs := t.ctxs, cores := t.cores } ∧ (∀ d, d ≠ c → t.ctxs.find? d = s.ctxs.find? d) ∧
    ∀ n, n ≠ coreOf c → t.core n = s.core n

/-- k with its PC, its selector state and its samples changed, and fixed-latency results added. -/
def SameRegisters (k k' : Ctx) : Prop :=
  k' = { k with
    pc := k'.pc, slot := k'.slot, gap := k'.gap, busy := k'.busy, samples := k'.samples, pend := k'.pend }

/-- The register a write goes to. -/
def Machine.RegWrite.toX (w : RegWrite) (r : BitVec 6) : Bool :=
  match w with
  | .x a _ => a == r
  | _ => false
def Machine.RegWrite.toV (w : RegWrite) (r : BitVec 5) : Bool :=
  match w with
  | .v a _ => a == r
  | _ => false
def Machine.RegWrite.toM (w : RegWrite) (r : BitVec 3) : Bool :=
  match w with
  | .m a _ => a == r
  | _ => false
def Machine.RegWrite.toP (w : RegWrite) (r : BitVec 4) : Bool :=
  match w with
  | .p a _ => a == r
  | _ => false

/-- What a fixed-latency instruction that reads and writes registers alone may write: its destination, and sr.fflags where it computes
floats; none for every other instruction (R173 to R183, R191 to R214, R220, R253). -/
def Instr.mayWrite (i : Instr) : Option (RegWrite → Bool) :=
  match i with
  | .add o | .sub o | .and o | .or o | .xor o | .andn o | .orn o | .shl o | .shr o | .sra o | .rol o | .ror o | .min o | .max o
    | .minu o | .maxu o | .mul o | .mulh o | .mulhu o => some fun w => w.toX o.a
  | .sel o => some fun w => w.toX o.a
  | .mov o | .clz o | .ctz o | .popc o | .bswap o | .fabsF32 o | .fnegF32 o | .fclsF32 o => some fun w => w.toX o.a
  | .addi o | .andi o | .ori o | .xori o => some fun w => w.toX o.a
  | .shli o | .shri o | .srai o => some fun w => w.toX o.a
  | .li o | .lih o => some fun w => w.toX o.a
  | .lea o => some fun w => w.toX o.a
  | .vext o => some fun w => w.toX o.a
  | .mpop o | .mfirst o => some fun w => w.toX o.a
  | .faddF32 o | .fsubF32 o | .fmulF32 o | .fmaF32 o | .fmsF32 o | .fnmaF32 o | .fminF32 o | .fmaxF32 o => some fun w => w.toX o.a || w.isOr
  | .cvt o => some fun w => w.toX o.a || w.isOr
  | .vredaddI32 o | .vredaddF32 o | .vredminI32 o | .vredminUi32 o | .vredminF32 o | .vredmaxI32 o | .vredmaxUi32 o
    | .vredmaxF32 o => some fun w => w.toX o.a || w.isOr
  | .cmpEq o | .cmpNe o | .cmpLt o | .cmpLe o | .cmpLtu o | .cmpLeu o => some fun w => w.toP o.a
  | .cmpEqImm o | .cmpNeImm o | .cmpLtImm o | .cmpLeImm o | .cmpLtuImm o | .cmpLeuImm o => some fun w => w.toP o.a
  | .pand o | .por o | .pxor o => some fun w => w.toP o.a
  | .pnot o => some fun w => w.toP o.a
  | .m2pAny o | .m2pAll o => some fun w => w.toP o.a
  | .fcmpEqF32 o | .fcmpLtF32 o | .fcmpLeF32 o | .fcmpUnF32 o => some fun w => w.toP o.a || w.isOr
  | .vaddI32 o | .vsubI32 o | .vmulI32 o | .vmulhI32 o | .vmulhUi32 o | .vminI32 o | .vmaxI32 o | .vminUi32 o | .vmaxUi32 o
    | .vand o | .vor o | .vxor o | .vandn o => some fun w => w.toV o.a
  | .vabsI32 o | .vnegI32 o | .vabsF32 o | .vnegF32 o | .vmov o => some fun w => w.toV o.a
  | .vshl o | .vshr o | .vsra o => some fun w => w.toV o.a
  | .vsel o => some fun w => w.toV o.a
  | .vsplat o => some fun w => w.toV o.a
  | .vsplatI o => some fun w => w.toV o.a
  | .vins o => some fun w => w.toV o.a
  | .vperm o => some fun w => w.toV o.a
  | .vshufl o => some fun w => w.toV o.a
  | .vrot o => some fun w => w.toV o.a
  | .vcvtLf8 o => some fun w => w.toV o.a
  | .vaddF32 o | .vsubF32 o | .vmulF32 o | .vfmaF32 o | .vfmsF32 o | .vminF32 o | .vmaxF32 o => some fun w => w.toV o.a || w.isOr
  | .vcvt o => some fun w => w.toV o.a || w.isOr
  | .vdotLf8 o => some fun w => w.toV o.a || w.isOr
  | .vscanAddI32 o | .vscanAddF32 o | .vscanMinI32 o | .vscanMinUi32 o | .vscanMinF32 o | .vscanMaxI32 o | .vscanMaxUi32 o
    | .vscanMaxF32 o => some fun w => w.toV o.a || w.isOr
  | .mand o | .mor o | .mxor o => some fun w => w.toM o.a
  | .mnot o => some fun w => w.toM o.a
  | .mset o => some fun w => w.toM o.a
  | .vcmpEqI32 o | .vcmpNeI32 o | .vcmpLtI32 o | .vcmpLeI32 o | .vcmpLtUi32 o | .vcmpLeUi32 o => some fun w => w.toM o.a
  | .vcmpEqF32 o | .vcmpLtF32 o | .vcmpLeF32 o | .vcmpUnF32 o => some fun w => w.toM o.a || w.isOr
  | .rdsr o => if o.r.variable then none else some fun w => w.toX o.a
  | .wrsr o => some fun w => match w, o.r with
      | .fflags _, .fflags => true
      | .epc _, .epc => true
      | .enpc _, .enpc => true
      | _, _ => false
  | _ => none

/-! ## Lane-wise results -/

/-- r holds op in the active lanes, and zero or the old lane in the others (R202). -/
def LaneWise (k : Ctx) (q : VMask) (old : Lanes) (op : Nat → BitVec 32) (r : Lanes) : Prop :=
  ∀ j, j < 16 → laneOf r j = if k.active q j then op j else (match q with
    | .on true _ => 0
    | _ => laneOf old j)

/-- f is the OR of the flags of the active lanes (R128). -/
def ActiveFlags (k : Ctx) (q : VMask) (op : Nat → FFlags) (f : FFlags) : Prop :=
  ∀ b, f.getLsbD b = true ↔ ∃ j, j < 16 ∧ k.active q j = true ∧ (op j).getLsbD b = true

/-! ## Exact values (R123, R124, R130) -/

/-- The kinds of FP32 words (R124, R125). -/
abbrev NanWord (w : BitVec 32) : Prop := 0x7F800000 < w.toNat % 2 ^ 31
abbrev SnanWord (w : BitVec 32) : Prop := NanWord w ∧ w.getLsbD 22 = false
abbrev InfWord (w : BitVec 32) : Prop := w.toNat % 2 ^ 31 = 0x7F800000
abbrev FinWord (w : BitVec 32) : Prop := w.toNat % 2 ^ 31 < 0x7F800000
abbrev ZeroWord (w : BitVec 32) : Prop := w.toNat % 2 ^ 31 = 0

/-- A word of an IEEE format is finite; is infinite. -/
abbrev FiniteBits (f : Machine.Ieee) (b : Nat) : Prop := b / 2 ^ f.frac % 2 ^ f.ebits ≠ 2 ^ f.ebits - 1
abbrev InfBits (f : Machine.Ieee) (b : Nat) : Prop := b / 2 ^ f.frac % 2 ^ f.ebits = 2 ^ f.ebits - 1 ∧ b % 2 ^ f.frac = 0
/-- The sign of a word of an IEEE format. -/
def negBits (f : Machine.Ieee) (b : Nat) : Bool := b / 2 ^ (f.frac + f.ebits) % 2 == 1
/-- The number a word of an IEEE format stands for (R124); an infinity counts as the power of two next to the finite numbers. -/
def ieeeQ (f : Machine.Ieee) (b : Nat) : ℚ :=
  let ex := b / 2 ^ f.frac % 2 ^ f.ebits
  let fr := b % 2 ^ f.frac
  (if negBits f b then -1 else 1) * ((if ex = 0 then fr else 2 ^ f.frac + fr : Nat) : ℚ) *
    (2 : ℚ) ^ (((max ex 1 : Nat) : Int) - ((2 ^ (f.ebits - 1) - 1 : Nat) : Int) - (f.frac : Int))
def q32 (w : BitVec 32) : ℚ := ieeeQ Machine.fp32 w.toNat

/-- The least magnitude that rounds to nearest even beyond the finite numbers of a format. -/
def overQ (f : Machine.Ieee) : ℚ := (2 : ℚ) ^ (2 ^ (f.ebits - 1)) - (2 : ℚ) ^ (2 ^ (f.ebits - 1) - f.frac - 2)
/-- b is x rounded once to nearest even (R125, R126): an infinity from `overQ` on, else a finite word of x's sign that no finite word is nearer
to x than, even if another value is as near. -/
def RoundsTo (f : Machine.Ieee) (x : ℚ) (b : Nat) : Prop :=
  if overQ f ≤ |x| then b = (if x < 0 then 2 ^ (f.frac + f.ebits) else 0) + (2 ^ f.ebits - 1) * 2 ^ f.frac
  else
    b < 2 ^ (f.frac + f.ebits + 1) ∧ FiniteBits f b ∧ (x ≠ 0 → (negBits f b = true ↔ x < 0)) ∧
      ∀ v, FiniteBits f v → |ieeeQ f b - x| ≤ |ieeeQ f v - x| ∧ (|ieeeQ f v - x| = |ieeeQ f b - x| → ieeeQ f v ≠ ieeeQ f b → b % 2 = 0)
/-- The flags of that rounding (R125, R127): overflow with inexact; inexact, with underflow where the result is tiny after rounding. -/
def roundFlags (f : Machine.Ieee) (x : ℚ) (b : Nat) : BitVec 7 :=
  if overQ f ≤ |x| then 0x05
  else if ieeeQ f b = x then 0
  else if |x| < (2 : ℚ) ^ (2 - (2 ^ (f.ebits - 1) : Int)) - (2 : ℚ) ^ (2 - (2 ^ (f.ebits - 1) : Int) - f.frac - 2) then 0x03 else 0x01
/-- An FP32 result with its flags is x rounded once. -/
def Rounded32 (x : ℚ) (r : BitVec 32 × BitVec 7) : Prop := RoundsTo Machine.fp32 x r.1.toNat ∧ r.2 = roundFlags Machine.fp32 x r.1.toNat

/-- b is x rounded under a mode of R126: a directed mode gives the nearest finite number on its side, and beyond the finite numbers the value of
the table of R126. -/
def RoundsBy (f : Machine.Ieee) (rm : Machine.Rm) (x : ℚ) (b : Nat) : Prop :=
  let big := (2 ^ f.ebits - 1) * 2 ^ f.frac - 1
  let low : Prop := ieeeQ f b ≤ x ∧ ∀ v, FiniteBits f v → ieeeQ f v ≤ x → ieeeQ f v ≤ ieeeQ f b
  let high : Prop := x ≤ ieeeQ f b ∧ ∀ v, FiniteBits f v → x ≤ ieeeQ f v → ieeeQ f b ≤ ieeeQ f v
  let side (p : Prop) : Prop := b < 2 ^ (f.frac + f.ebits + 1) ∧ FiniteBits f b ∧ (x ≠ 0 → (negBits f b = true ↔ x < 0)) ∧ p
  let sgn : Nat := if x < 0 then 2 ^ (f.frac + f.ebits) else 0
  match rm with
  | .rne => RoundsTo f x b
  | .rz => if ieeeQ f big < |x| then b = sgn + big else side (if x < 0 then high else low)
  | .rd => if ieeeQ f big < |x| then b = sgn + (if x < 0 then big + 1 else big) else side low
  | .ru => if ieeeQ f big < |x| then b = sgn + (if x < 0 then big else big + 1) else side high

/-- x rounded to an integer under a mode (R126, R138). -/
def intQ (rm : Machine.Rm) (x : ℚ) : Int :=
  match rm with
  | .rz => if x < 0 then ⌈x⌉ else ⌊x⌋
  | .rd => ⌊x⌋
  | .ru => ⌈x⌉
  | .rne => if x - ⌊x⌋ < 1 / 2 ∨ (x - ⌊x⌋ = 1 / 2 ∧ ⌊x⌋ % 2 = 0) then ⌊x⌋ else ⌊x⌋ + 1

/-- The number a tapered word stands for (R130), 0 for NaR. -/
def taperQ (n w : Nat) : ℚ :=
  match Machine.tfValue w n with
  | .fin neg m e => (if neg then -1 else 1) * (m : ℚ) * (2 : ℚ) ^ e
  | _ => 0

/-- The number the low bits of a word stand for in a type, if they stand for one (R123, R124, R130). -/
def numberQ (t : Machine.NType) (b : Nat) : Option ℚ :=
  match t with
  | .sint w => some ((if b % 2 ^ w < 2 ^ (w - 1) then (b % 2 ^ w : Int) else (b % 2 ^ w : Int) - 2 ^ w : Int) : ℚ)
  | .uint w => some ((b % 2 ^ w : Nat) : ℚ)
  | .ieee f => if FiniteBits f (b % 2 ^ f.width) then some (ieeeQ f (b % 2 ^ f.width)) else none
  | .taper n => if b % 2 ^ n = 2 ^ (n - 1) then none else some (taperQ n (b % 2 ^ n))

/-- r is x rounded to a tapered word of n bits with its flags (R131, R132), for x ≠ 0: ±maxpos or ±minpos beyond the range of the format, else one
of the two positive patterns whose values enclose the magnitude, as the mode says. -/
def RoundsTaper (n : Nat) (rm : Machine.Rm) (x : ℚ) (r : Nat × BitVec 7) : Prop :=
  let sgn (p : Nat) : Nat := if x < 0 then 2 ^ n - p else p
  if (2 : ℚ) ^ (2 * n - 4) < |x| then r = (sgn (2 ^ (n - 1) - 1), 0x41)
  else if |x| < 1 / (2 : ℚ) ^ (2 * n - 4) then r = (sgn 1, 0x41)
  else ∃ lo hi, 0 < lo ∧ hi < 2 ^ (n - 1) ∧ lo ≤ hi ∧ hi ≤ lo + 1 ∧ taperQ n lo ≤ |x| ∧ |x| ≤ taperQ n hi ∧
    (lo = hi → r = (sgn lo, 0)) ∧ (lo ≠ hi → taperQ n lo < |x| ∧ |x| < taperQ n hi ∧ r.2 = 0x01 ∧
      r.1 = sgn (match rm with
        | .rz => lo
        | .rd => if x < 0 then hi else lo
        | .ru => if x < 0 then lo else hi
        | .rne => if |x| - taperQ n lo < taperQ n hi - |x| then lo
          else if taperQ n hi - |x| < |x| - taperQ n lo then hi else if lo % 2 = 0 then lo else hi))

/-! ## Accesses to TCM -/

/-- The same results are outstanding, whatever parts of loads among them may still be performed later (R103, R104). -/
def SameResults (a b : List VRes) : Prop := (a.map fun r => { r with again := [] }) = b.map fun r => { r with again := [] }

/-- A range of n bytes at an address lies in the TCM of the issuing context (R79, R81). -/
def InTcm (ea : Word) (n : Nat) : Prop := ea.toNat % n = 0 ∧ ea.toNat / 2 ^ 56 = 0xFE ∧ ea.toNat % 2 ^ 56 ≤ 0x13FF

/-- What an operation of R227 writes, from the old value, the operand and the expected value, on w bits. -/
def amoTable : List ((AmoArgs → Instr) × (Nat → Nat → Nat → Nat → Option Nat)) :=
  let sg (w v : Nat) : Int := (BitVec.ofNat w v).toInt
  [(.amoAdd, fun w o v _ => some ((o + v) % 2 ^ w)), (.amoAnd, fun _ o v _ => some (o &&& v)), (.amoOr, fun _ o v _ => some (o ||| v)),
    (.amoXor, fun _ o v _ => some (o ^^^ v)), (.amoMin, fun w o v _ => some (if sg w v < sg w o then v else o)),
    (.amoMax, fun w o v _ => some (if sg w o < sg w v then v else o)), (.amoMinu, fun _ o v _ => some (min o v)),
    (.amoMaxu, fun _ o v _ => some (max o v)), (.amoSwap, fun _ _ v _ => some v), (.amoCas, fun _ o v e => if o = e then some v else none)]

/-- A vector load completes: the result awaited holds, from lane vlane upward, the words at the lanes' addresses; nothing in memory changes
(R215, R216). -/
def VectorLoads (s : State) (i : Instr) (c : Nat) (k : Ctx) (a : BitVec 5) (q : VMask) (ea : Nat → Word) : Prop :=
  ∃ t k' r w, exec i s = .next t ∧ t.ctxs.find? c = some k' ∧ k'.pc = k.nextPc ∧ k'.slot = none ∧ k'.vlane = 0 ∧
    (∃ vs, k'.vres = vs ++ [r] ∧ SameResults k.vres vs) ∧ r.ws = [.v a w] ∧ k'.full (.v a) = false ∧ k'.x = k.x ∧ k'.v = k.v ∧ k'.tcm = k.tcm ∧
    (k.denials = none → t.dram = s.dram) ∧ t.scratch = s.scratch ∧
    ∀ j, j < 16 → laneOf w j = if j < k.vlane then laneOf (k.vr a) j else if k.active q j then
      BitVec.ofNat 32 (k.tcm.num ((ea j).toNat % 2 ^ 56) 4) else inactive q (laneOf (k.vr a) j)

/-- A vector store completes: TCM holds the words of the active lanes from vlane upward, written in ascending order; nothing else changes
(R215, R216). -/
def VectorStores (s : State) (i : Instr) (c : Nat) (k : Ctx) (a : BitVec 5) (q : VMask) (ea : Nat → Word) : Prop :=
  ∃ t k', exec i s = .next t ∧ OnlyContext c s t ∧ t.ctxs.find? c = some k' ∧ k'.pc = k.nextPc ∧ k'.slot = none ∧
    SameRegisters { k with tcm := k'.tcm, vlane := 0, vres := k'.vres } k' ∧ k'.pend = k.pend ∧ SameResults k.vres k'.vres ∧
    k'.tcm = (((List.range 16).drop k.vlane).filter (k.active q)).foldl
      (fun m j => m.setNum ((ea j).toNat % 2 ^ 56) 4 (laneOf (k.vr a) j).toNat) k.tcm

/-! ## Matrix commands -/

/-- The number a value stands for (R136), 0 for what is no number. -/
def xvalQ (v : Machine.XVal) : ℚ :=
  match v with
  | .fin neg m e => (if neg then -1 else 1) * (m : ℚ) * (2 : ℚ) ^ e
  | _ => 0

/-- Element j of w bits of packed elements that begin at an offset of a cluster's scratchpad (R123, R265). -/
def packedAt (s : State) (cl w off j : Nat) : Nat :=
  s.scratch.num (4194304 * cl + off + w * j / 8) ((w * j % 8 + w + 7) / 8) / 2 ^ (w * j % 8) % 2 ^ w

/-- A command of this cluster alone, whose activation has no write in its scratchpad that the unit may not see yet (R117). -/
def SeesAll (s : State) (c : MxCmd) : Prop := c.cap = none ∧ ∀ e ∈ s.stale, e.act ≠ c.act

/-- A matrix command that is no `mx.ctx`: operation, function, tile, the two operand words, K, far and tag (R271). -/
def Instr.matrix (i : Instr) (k : Ctx) : Option (MxOp × BitVec 8 × Nat × Word × Word × Nat × MxTail) :=
  match i with
  | .mxCtxSt o => some (.ctxSt o.clr, 0x01, 0, k.xr o.b, 0, 0, o.tl)
  | .mxZero o => some (.zero, 0x02, o.tile.toNat, 0, 0, 0, o.tl)
  | .mxMm o => some (.mm, 0x03, o.tile.toNat, k.xr o.b, k.xr o.c, o.k.toNat, o.tl)
  | .mxMms o => some (.mms, 0x04, o.tile.toNat, k.xr o.b, k.xr o.c, o.k.toNat, o.tl)
  | .mxConv o => some (.conv, 0x05, o.tile.toNat, k.xr o.b, k.xr o.c, 0, o.tl)
  | .mxGmm o => some (.gmm, 0x06, o.tile.toNat, k.xr o.b, k.xr o.c, o.k.toNat, o.tl)
  | .mxLd o => some (.ld o.fmt, 0x07, o.tile.toNat, k.xr o.b, 0, 0, o.tl)
  | .mxSt o => some (.st o.fmt, 0x08, o.tile.toNat, k.xr o.b, 0, 0, o.tl)
  | _ => none

/-- A command context c, holding k, issues to the matrix unit: its priority is that of the format context of its core (R268, R280). -/
def matrixCommand (s : State) (c : Nat) (k : Ctx) (op : MxOp) (fn : BitVec 8) (tile : Nat) (aw bw : Word) (kk : Nat) (tl : MxTail) : MxCmd :=
  { op := op, tile := tile, aw := aw, bw := bw, k := kk, tag := tl.tag.map BitVec.toNat, pri := (s.fctxOf c).pri, act := k.act
    member := k.member, cluster := clusterOf c, ctx := c, fn := fn, cap := tl.far.map k.xr }

/-- A command leaves its context: its tag is taken, it joins the queue of the core's format context or is sent to the cluster its capability
names, and the context goes on (R235, R266, R282). -/
def matrixSent (s : State) (c : Nat) (k : Ctx) (cmd : MxCmd) : State :=
  let s1 := match cmd.tag with
    | some t => s.takeTag k.act k.member t
    | none => s
  (match cmd.cap with
    | some cap => s1.sendFranked (capCluster cap) cmd
    | none => s1.mxQueue (clusterOf c) (coreOf c % 16) cmd).advance c

/-! ## The invariant of a run -/

/-- Every memory of the machine keeps its canonical form: shared SRAM and DRAM, the scratchpads, the TCM of every context and of every
saved member. -/
def MemInv (s : State) : Prop :=
  s.dram.wf = true ∧ s.scratch.wf = true ∧ (∀ x ∈ s.ctxs, x.2.tcm.wf = true) ∧
    ∀ a ∈ s.acts, ∀ m ∈ a.2.members, ∀ v, m.saved = some v → v.ctx.tcm.wf = true

/-- The tables of the state are in order: activations, contexts, partitions, and the actors, reservations and launch groups of each partition stand
by rising number; every core has eight wait counts and one of its eight contexts is the current one (R38, R77). -/
def TablesInOrder (s : State) : Prop :=
  s.acts.sorted = true ∧ s.ctxs.sorted = true ∧ s.parts.sorted = true ∧
    (∀ k ∈ s.parts, k.2.actors.sorted = true ∧ k.2.reserved.sorted = true ∧ k.2.groups.sorted = true) ∧
    ∀ q ∈ s.cores, q.2.waits.length = 8 ∧ q.2.cur < 8
end Sys2Proof
end

