-- ==== Sys2Proof/Certificates/Slice0/Obligations.lean ====
section
/-! DEFINITION. The statements for the provers. Each says in its docstring, or beside each of its parts, which rules of the spec it rests on.
`Issues s i c k` says that context c, holding k, performs the effect of i; `issued s i c` is the state that effect starts from. -/

open Sys2Proof Sys2Proof.Machine

/-! ## Integer instructions, predicates, control transfers -/

/-- The value of every two-source instruction of majors 0x01 and 0x02 but the divisions, and its latency (R173, R175, R151). -/
def Obligations.TwoSourceIntegerResults : Prop :=
  ∀ q ∈ ([(.add, 1, fun b c => b + c), (.sub, 1, fun b c => b - c), (.and, 1, fun b c => b &&& c), (.or, 1, fun b c => b ||| c),
      (.xor, 1, fun b c => b ^^^ c), (.andn, 1, fun b c => b &&& ~~~c), (.orn, 1, fun b c => b ||| ~~~c),
      (.shl, 1, fun b c => BitVec.ofNat 64 (b.toNat * 2 ^ (c.toNat % 64))),
      (.shr, 1, fun b c => BitVec.ofNat 64 (b.toNat / 2 ^ (c.toNat % 64))),
      (.sra, 1, fun b c => BitVec.ofInt 64 (b.toInt / 2 ^ (c.toNat % 64))),
      (.rol, 1, fun b c => b <<< (c.toNat % 64) ||| b >>> (64 - c.toNat % 64)),
      (.ror, 1, fun b c => b >>> (c.toNat % 64) ||| b <<< (64 - c.toNat % 64)),
      (.min, 1, fun b c => if b.toInt < c.toInt then b else c), (.max, 1, fun b c => if b.toInt > c.toInt then b else c),
      (.minu, 1, fun b c => if b.toNat < c.toNat then b else c), (.maxu, 1, fun b c => if b.toNat > c.toNat then b else c),
      (.mul, 3, fun b c => BitVec.ofNat 64 (b.toNat * c.toNat)),
      (.mulh, 3, fun b c => BitVec.ofInt 64 (b.toInt * c.toInt / 2 ^ 64)),
      (.mulhu, 3, fun b c => BitVec.ofNat 64 (b.toNat * c.toNat / 2 ^ 64))] : List ((XXX → Instr) × Nat × (Word → Word → Word))),
    ∀ (o : XXX) (s : State) (c : Nat) (k : Ctx), Issues s (q.1 o) c k →
      exec (q.1 o) s = .next ((issued s (q.1 o) c).done c q.2.1 [.x o.a (q.2.2 (k.xr o.b) (k.xr o.c))])

/-- Division never traps and never writes sr.fflags: the result, with the borderline cases of R176, is known at issue, its register becomes
empty, and it is written after a free number of cycles (R153, R177; log 4). -/
def Obligations.DivisionResults : Prop :=
  (∀ q ∈ ([(.div, fun b c => if c = 0 then BitVec.allOnes 64 else BitVec.ofInt 64 (b.toInt.tdiv c.toInt)),
      (.divu, fun b c => if c = 0 then BitVec.allOnes 64 else BitVec.ofNat 64 (b.toNat / c.toNat)),
      (.rem, fun b c => if c = 0 then b else BitVec.ofInt 64 (b.toInt.tmod c.toInt)),
      (.remu, fun b c => if c = 0 then b else BitVec.ofNat 64 (b.toNat % c.toNat))] : List ((XXX → Instr) × (Word → Word → Word))),
    ∀ (o : XXX) (s : State) (c : Nat) (k : Ctx), Issues s (q.1 o) c k →
      exec (q.1 o) s = .next (((issued s (q.1 o) c).fill c .divide [.x o.a (q.2 (k.xr o.b) (k.xr o.c))]).advance c) ∧
      ∃ k', (((issued s (q.1 o) c).fill c .divide [.x o.a (q.2 (k.xr o.b) (k.xr o.c))]).advance c).ctxs.find? c = some k' ∧
        k'.fflags = k.fflags ∧ k'.cause = k.cause ∧ k'.epc = k.epc ∧ k'.enpc = k.enpc ∧ k'.badaddr = k.badaddr ∧ k'.pc = k.nextPc ∧
        k'.pend = k.pend) ∧
  (∀ q ∈ ([(.div, 0x8000000000000000), (.rem, 0)] : List ((XXX → Instr) × Word)),
    ∀ (o : XXX) (s : State) (c : Nat) (k : Ctx), Issues s (q.1 o) c k → k.xr o.b = 0x8000000000000000 → k.xr o.c = BitVec.allOnes 64 →
      exec (q.1 o) s = .next (((issued s (q.1 o) c).fill c .divide [.x o.a q.2]).advance c))

/-- Values of sel, mov, bit counts, immediate forms and lea; the compares and predicate logic. -/
def Obligations.OneSourceAndImmediateResults : Prop :=
  -- `sel`, `mov`, the bit counts and `bswap` (R173, R174, R178).
  (
    (∀ (o : SelOp) (s : State) (c : Nat) (k : Ctx), Issues s (.sel o) c k →
      exec (.sel o) s = .next ((issued s (.sel o) c).done c 1 [.x o.a (if k.pr o.p then k.xr o.b else k.xr o.c)])) ∧
    (∀ (o : XX) (s : State) (c : Nat) (k : Ctx), Issues s (.mov o) c k →
      exec (.mov o) s = .next ((issued s (.mov o) c).done c 1 [.x o.a (k.xr o.b)])) ∧
    (∀ (o : XX) (s : State) (c : Nat) (k : Ctx), Issues s (.clz o) c k →
      ∃ n : Nat, exec (.clz o) s = .next ((issued s (.clz o) c).done c 1 [.x o.a (BitVec.ofNat 64 n)]) ∧
        n ≤ 64 ∧ (∀ i, 64 - n ≤ i → (k.xr o.b).getLsbD i = false) ∧ (n < 64 → (k.xr o.b).getLsbD (63 - n) = true)) ∧
    (∀ (o : XX) (s : State) (c : Nat) (k : Ctx), Issues s (.ctz o) c k →
      ∃ n : Nat, exec (.ctz o) s = .next ((issued s (.ctz o) c).done c 1 [.x o.a (BitVec.ofNat 64 n)]) ∧
        n ≤ 64 ∧ (∀ i, i < n → (k.xr o.b).getLsbD i = false) ∧ (n < 64 → (k.xr o.b).getLsbD n = true)) ∧
    (∀ (o : XX) (s : State) (c : Nat) (k : Ctx), Issues s (.popc o) c k →
      exec (.popc o) s = .next ((issued s (.popc o) c).done c 1
        [.x o.a (BitVec.ofNat 64 (((List.range 64).filter fun i => (k.xr o.b).getLsbD i).length))])) ∧
    (∀ (o : XX) (s : State) (c : Nat) (k : Ctx), Issues s (.bswap o) c k →
      ∃ v : Word, exec (.bswap o) s = .next ((issued s (.bswap o) c).done c 1 [.x o.a v]) ∧
        ∀ i, i < 8 → v.extractLsb' (8 * (7 - i)) 8 = (k.xr o.b).extractLsb' (8 * i) 8)) ∧
  -- The immediate forms, constants and `lea` (R179 to R181).
  (
    (∀ q ∈ ([(.addi, fun b i => b + i), (.andi, fun b i => b &&& i), (.ori, fun b i => b ||| i), (.xori, fun b i => b ^^^ i)] :
        List ((XXImm → Instr) × (Word → Word → Word))), ∀ (o : XXImm) (s : State) (c : Nat) (k : Ctx), Issues s (q.1 o) c k →
      exec (q.1 o) s = .next ((issued s (q.1 o) c).done c 1 [.x o.a (q.2 (k.xr o.b) (BitVec.ofInt 64 o.imm.toInt))])) ∧
    (∀ q ∈ ([(.shli, fun b n => BitVec.ofNat 64 (b.toNat * 2 ^ n)), (.shri, fun b n => BitVec.ofNat 64 (b.toNat / 2 ^ n)),
        (.srai, fun b n => BitVec.ofInt 64 (b.toInt / 2 ^ n))] :
        List ((XXSh → Instr) × (Word → Nat → Word))), ∀ (o : XXSh) (s : State) (c : Nat) (k : Ctx), Issues s (q.1 o) c k →
      exec (q.1 o) s = .next ((issued s (q.1 o) c).done c 1 [.x o.a (q.2 (k.xr o.b) o.n.toNat)])) ∧
    (∀ (o : XImm) (s : State) (c : Nat) (k : Ctx), Issues s (.li o) c k →
      exec (.li o) s = .next ((issued s (.li o) c).done c 1 [.x o.a (BitVec.ofInt 64 o.imm.toInt)])) ∧
    (∀ (o : XImm) (s : State) (c : Nat) (k : Ctx), Issues s (.lih o) c k →
      exec (.lih o) s = .next ((issued s (.lih o) c).done c 1
        [.x o.a (BitVec.ofNat 64 (o.imm.toNat * 2 ^ 32 + (k.xr o.a).toNat % 2 ^ 32))])) ∧
    (∀ (o : LeaOp) (s : State) (c : Nat) (k : Ctx), Issues s (.lea o) c k →
      exec (.lea o) s = .next ((issued s (.lea o) c).done c 1
        [.x o.a (k.xr o.b + BitVec.ofNat 64 ((k.xr o.c).toNat * 2 ^ o.scale.toNat) + BitVec.ofInt 64 o.imm.toInt)]))) ∧
  -- The compares of both majors (R182).
  (
    (∀ q ∈ ([(.cmpEq, fun b y => decide (b = y)), (.cmpNe, fun b y => decide (b ≠ y)), (.cmpLt, fun b y => decide (b.toInt < y.toInt)),
        (.cmpLe, fun b y => decide (b.toInt ≤ y.toInt)), (.cmpLtu, fun b y => decide (b.toNat < y.toNat)),
        (.cmpLeu, fun b y => decide (b.toNat ≤ y.toNat))] : List ((PXX → Instr) × (Word → Word → Bool))),
      ∀ (o : PXX) (s : State) (c : Nat) (k : Ctx), Issues s (q.1 o) c k →
        exec (q.1 o) s = .next ((issued s (q.1 o) c).done c 1 [.p o.a (q.2 (k.xr o.b) (k.xr o.c))])) ∧
    (∀ q ∈ ([(.cmpEqImm, fun b y => decide (b = y)), (.cmpNeImm, fun b y => decide (b ≠ y)),
        (.cmpLtImm, fun b y => decide (b.toInt < y.toInt)), (.cmpLeImm, fun b y => decide (b.toInt ≤ y.toInt)),
        (.cmpLtuImm, fun b y => decide (b.toNat < y.toNat)), (.cmpLeuImm, fun b y => decide (b.toNat ≤ y.toNat))] :
        List ((PXImm → Instr) × (Word → Word → Bool))),
      ∀ (o : PXImm) (s : State) (c : Nat) (k : Ctx), Issues s (q.1 o) c k →
        exec (q.1 o) s = .next ((issued s (q.1 o) c).done c 1 [.p o.a (q.2 (k.xr o.b) (BitVec.ofInt 64 o.imm.toInt))]))) ∧
  -- Predicate logic (R183).
  (
    (∀ q ∈ ([(.pand, fun b c => b && c), (.por, fun b c => b || c), (.pxor, fun b c => b ^^ c)] :
        List ((PPP → Instr) × (Bool → Bool → Bool))), ∀ (o : PPP) (s : State) (c : Nat) (k : Ctx), Issues s (q.1 o) c k →
      exec (q.1 o) s = .next ((issued s (q.1 o) c).done c 1 [.p o.a (q.2 (k.pr o.b) (k.pr o.c))])) ∧
    (∀ (o : PP) (s : State) (c : Nat) (k : Ctx), Issues s (.pnot o) c k →
      exec (.pnot o) s = .next ((issued s (.pnot o) c).done c 1 [.p o.a (!k.pr o.b)])))

/-- Targets of br, jmp, call, ret and brtag, and the delay slot of a taken transfer. -/
def Obligations.BranchesAndTheirSlots : Prop :=
  -- `br`, `jmp`, `call`, `ret` (R185, R186): the target of each, the link of `call`.
  (
    (∀ (o : ImmOp) (s : State) (c : Nat) (k : Ctx), Issues s (.br o) c k →
      exec (.br o) s = .next ((issued s (.br o) c).branch c (k.pc + 12 * BitVec.ofInt 64 o.imm.toInt))) ∧
    (∀ (o : XImm) (s : State) (c : Nat) (k : Ctx), Issues s (.jmp o) c k →
      exec (.jmp o) s = .next ((issued s (.jmp o) c).branch c (k.xr o.a + BitVec.ofInt 64 o.imm.toInt))) ∧
    (∀ (o : XImm) (s : State) (c : Nat) (k : Ctx), Issues s (.call o) c k →
      exec (.call o) s = .next (((issued s (.call o) c).result c 1 [.x o.a (k.pc + 24)]).branch c (k.pc + 12 * BitVec.ofInt 64 o.imm.toInt))) ∧
    (∀ (o : XOp) (s : State) (c : Nat) (k : Ctx), Issues s (.ret o) c k →
      exec (.ret o) s = .next ((issued s (.ret o) c).branch c (k.xr o.a)))) ∧
  -- `brtag` branches on one snapshot of sr.tags and sr.tagerr of the issuing member (R188).
  (
    ∀ q ∈ ([(.brtagSet, fun done _ => done), (.brtagClr, fun done _ => !done), (.brtagErr, fun _ err => err)] :
        List ((TagBr → Instr) × (Bool → Bool → Bool))), ∀ (o : TagBr) (s : State) (c : Nat) (k : Ctx) (a : Act) (m : Member),
      Issues s (q.1 o) c k → s.acts.find? k.act = some a → a.members[k.member]? = some m →
        exec (q.1 o) s = .next
          (if q.2 (m.tags.getLsbD o.t.toNat) (m.tagerr.getLsbD o.t.toNat) then
            (issued s (q.1 o) c).branch c (k.pc + 12 * BitVec.ofInt 64 o.d.toInt)
           else (issued s (q.1 o) c).modCtx c fun x => { x with pc := x.pc + 12, slot := some (k.pc + 24) })) ∧
  -- A taken transfer: its slot at PC + 12 comes next and the target after it; nothing else of the context changes; a core that records no
  -- branches changes nothing else (R154, R320).
  (
    ∀ (s : State) (c : Nat) (k : Ctx) (target : Word), s.ctxs.find? c = some k →
      (s.branch c target).ctxs.find? c = some { k with pc := k.pc + 12, slot := some target } ∧
      (∀ d, d ≠ c → (s.branch c target).ctxs.find? d = s.ctxs.find? d) ∧
      ((s.core (coreOf c)).pmctl.getLsbD 36 = false →
        s.branch c target = { s with ctxs := (s.branch c target).ctxs }))

/-- `loop` (R189): the counter falls by one modulo 2^64 with integer-ALU latency, so the slot reads the new value, and the branch is taken while
it is not zero, from a counter of 0 too; not taken, the slot runs and then PC + 24. -/
def Obligations.LoopCountsAndBranches : Prop :=
  ∀ (o : XImm) (s : State) (c : Nat) (k : Ctx), Issues s (.loop o) c k →
    exec (.loop o) s = .next
      (let t := (issued s (.loop o) c).result c 1 [.x o.a (k.xr o.a - 1)]
       if k.xr o.a ≠ 1 then t.branch c (k.pc + 12 * BitVec.ofInt 64 o.imm.toInt)
       else t.modCtx c fun x => { x with pc := x.pc + 12, slot := some (k.pc + 24) }) ∧
    (∀ t k', exec (.loop o) s = .next t → t.ctxs.find? c = some k' →
      (o.a ≠ 0 → (k'.land s.clock).xr o.a = BitVec.ofInt 64 ((k.xr o.a).toInt - 1)) ∧ k'.pc = k.pc + 12 ∧
      k'.slot = some (if k.xr o.a = 1 then k.pc + 24 else k.pc + 12 * BitVec.ofInt 64 o.imm.toInt)) ∧
    (k.xr o.a = 0 → exec (.loop o) s = .next
      (((issued s (.loop o) c).result c 1 [.x o.a (BitVec.allOnes 64)]).branch c (k.pc + 12 * BitVec.ofInt 64 o.imm.toInt)))

/-- Results and flags of scalar float instructions, and the values of their special operands. -/
def Obligations.ScalarFloatResults : Prop :=
  -- Scalar FP32 operations of latency class scalar float: the result zero-extended, its flags ORed into sr.fflags (R127, R191, R192).
  (
    (∀ q ∈ ([(.faddF32, fadd), (.fsubF32, fsub), (.fmulF32, fmul), (.fminF32, fmin), (.fmaxF32, fmax)] :
        List ((XXX → Instr) × (BitVec 32 → BitVec 32 → BitVec 32 × FFlags))), ∀ (o : XXX) (s : State) (c : Nat) (k : Ctx),
      Issues s (q.1 o) c k →
        exec (q.1 o) s = .next (let r := q.2 ((k.xr o.b).setWidth 32) ((k.xr o.c).setWidth 32)
          (issued s (q.1 o) c).done c 4 [.x o.a (r.1.setWidth 64), .orFlags r.2])) ∧
    (∀ q ∈ ([(.fmaF32, ffma), (.fmsF32, ffms), (.fnmaF32, ffnma)] :
        List ((XXX → Instr) × (BitVec 32 → BitVec 32 → BitVec 32 → BitVec 32 × FFlags))), ∀ (o : XXX) (s : State) (c : Nat) (k : Ctx),
      Issues s (q.1 o) c k →
        exec (q.1 o) s = .next (let r := q.2 ((k.xr o.b).setWidth 32) ((k.xr o.c).setWidth 32) ((k.xr o.a).setWidth 32)
          (issued s (q.1 o) c).done c 4 [.x o.a (r.1.setWidth 64), .orFlags r.2])) ∧
    (∀ q ∈ ([(.fabsF32, fun b => b &&& 0x7FFFFFFF), (.fnegF32, fun b => b ^^^ 0x80000000)] :
        List ((XX → Instr) × (BitVec 32 → BitVec 32))), ∀ (o : XX) (s : State) (c : Nat) (k : Ctx), Issues s (q.1 o) c k →
        exec (q.1 o) s = .next ((issued s (q.1 o) c).done c 4 [.x o.a ((q.2 ((k.xr o.b).setWidth 32)).setWidth 64)])) ∧
    (∀ (o : XXX) (s : State) (c : Nat) (k : Ctx), Issues s (.fdivF32 o) c k →
      exec (.fdivF32 o) s = .next (let r := fdiv ((k.xr o.b).setWidth 32) ((k.xr o.c).setWidth 32)
        ((issued s (.fdivF32 o) c).fill c .divide [.x o.a (r.1.setWidth 64), .orFlags r.2]).advance c)) ∧
    (∀ (o : XX) (s : State) (c : Nat) (k : Ctx), Issues s (.fsqrtF32 o) c k →
      exec (.fsqrtF32 o) s = .next (let r := fsqrt ((k.xr o.b).setWidth 32)
        ((issued s (.fsqrtF32 o) c).fill c .divide [.x o.a (r.1.setWidth 64), .orFlags r.2]).advance c))) ∧
  -- Float compares, classes and converts (R194 to R198, R123).
  (
    (∀ q ∈ ([(.fcmpEqF32, .eq), (.fcmpLtF32, .lt), (.fcmpLeF32, .le), (.fcmpUnF32, .un)] : List ((PXX → Instr) × FCmp)),
      ∀ (o : PXX) (s : State) (c : Nat) (k : Ctx), Issues s (q.1 o) c k →
        exec (q.1 o) s = .next (let r := fcmp q.2 ((k.xr o.b).setWidth 32) ((k.xr o.c).setWidth 32)
          (issued s (q.1 o) c).done c 1 [.p o.a r.1, .orFlags r.2])) ∧
    (∀ (o : XX) (s : State) (c : Nat) (k : Ctx), Issues s (.fclsF32 o) c k →
      exec (.fclsF32 o) s = .next ((issued s (.fclsF32 o) c).done c 4
        [.x o.a (BitVec.ofNat 64 (2 ^ fclass ((k.xr o.b).setWidth 32)))])) ∧
    (∀ (o : CvtOp) (s : State) (c : Nat) (k : Ctx), Issues s (.cvt o) c k →
      exec (.cvt o) s = .next (let r := convert (scalarType o.dst) (scalarType o.src) (rmOf o.rm) (k.xr o.b).toNat
        (issued s (.cvt o) c).done c 3
          [.x o.a (if o.dst = 0 then (BitVec.ofNat 32 r.1).signExtend 64 else BitVec.ofNat 64 r.1), .orFlags r.2]))) ∧
  -- Sums and products of special operands (R125, R191, R192): a NaN operand gives the canonical NaN, with invalid for a signalling one;
  -- infinities of unlike signs added, and infinity times zero, are invalid; other infinities stay; an exact zero sum is −0 only of two −0, and
  -- a zero product has the sign of its factors; fsub, fms and fnma are fadd and fma of an operand with its sign inverted.
  (
    (∀ a b : BitVec 32, NanWord a ∨ NanWord b → fadd a b = (0x7FC00000, if SnanWord a ∨ SnanWord b then 0x10 else 0) ∧
      fmul a b = (0x7FC00000, if SnanWord a ∨ SnanWord b then 0x10 else 0)) ∧
    (∀ a b : BitVec 32, InfWord a → FinWord b → fadd a b = (a, 0) ∧ fadd b a = (a, 0)) ∧
    (∀ a b : BitVec 32, InfWord a → InfWord b → fadd a b = if a = b then (a, 0) else (0x7FC00000, 0x10)) ∧
    (∀ a b : BitVec 32, FinWord a → FinWord b → q32 a + q32 b = 0 → fadd a b = (if a = 0x80000000 ∧ b = 0x80000000 then 0x80000000 else 0, 0)) ∧
    (∀ a b : BitVec 32, InfWord a → ZeroWord b → fmul a b = (0x7FC00000, 0x10) ∧ fmul b a = (0x7FC00000, 0x10)) ∧
    (∀ a b : BitVec 32, InfWord a → ¬ NanWord b → ¬ ZeroWord b → fmul a b = (if a.msb = b.msb then 0x7F800000 else 0xFF800000, 0) ∧
      fmul b a = (if a.msb = b.msb then 0x7F800000 else 0xFF800000, 0)) ∧
    (∀ a b : BitVec 32, FinWord a → FinWord b → ZeroWord a ∨ ZeroWord b → fmul a b = (if a.msb = b.msb then 0 else 0x80000000, 0)) ∧
    (∀ b c a : BitVec 32, (InfWord b ∧ ZeroWord c) ∨ (ZeroWord b ∧ InfWord c) → ffma b c a = (0x7FC00000, 0x10)) ∧
    (∀ b c a : BitVec 32, ¬ ((InfWord b ∧ ZeroWord c) ∨ (ZeroWord b ∧ InfWord c)) → NanWord b ∨ NanWord c ∨ NanWord a →
      ffma b c a = (0x7FC00000, if SnanWord b ∨ SnanWord c ∨ SnanWord a then 0x10 else 0)) ∧
    (∀ b c a : BitVec 32, FinWord b → FinWord c → InfWord a → ffma b c a = (a, 0)) ∧
    (∀ b c a : BitVec 32, ¬ NanWord b → ¬ NanWord c → InfWord b ∨ InfWord c → ¬ ZeroWord b → ¬ ZeroWord c →
      let p : BitVec 32 := if b.msb = c.msb then 0x7F800000 else 0xFF800000
      (FinWord a → ffma b c a = (p, 0)) ∧ (InfWord a → ffma b c a = if a = p then (p, 0) else (0x7FC00000, 0x10))) ∧
    (∀ b c a : BitVec 32, FinWord b → FinWord c → FinWord a → q32 b * q32 c + q32 a = 0 →
      ffma b c a = (if b.msb ≠ c.msb ∧ (ZeroWord b ∨ ZeroWord c) ∧ a = 0x80000000 then 0x80000000 else 0, 0)) ∧
    (∀ a b : BitVec 32, fsub a b = fadd a (b ^^^ 0x80000000)) ∧
    (∀ b c a : BitVec 32, ffms b c a = ffma b c (a ^^^ 0x80000000) ∧ ffnma b c a = ffma (b ^^^ 0x80000000) c a)) ∧
  -- Quotients and roots of special operands (R125, R194).
  (
    (∀ b c : BitVec 32, NanWord b ∨ NanWord c → fdiv b c = (0x7FC00000, if SnanWord b ∨ SnanWord c then 0x10 else 0)) ∧
    (∀ b c : BitVec 32, (ZeroWord b ∧ ZeroWord c) ∨ (InfWord b ∧ InfWord c) → fdiv b c = (0x7FC00000, 0x10)) ∧
    (∀ b c : BitVec 32, FinWord b → ¬ ZeroWord b → ZeroWord c → fdiv b c = (if b.msb = c.msb then 0x7F800000 else 0xFF800000, 0x08)) ∧
    (∀ b c : BitVec 32, InfWord b → FinWord c → fdiv b c = (if b.msb = c.msb then 0x7F800000 else 0xFF800000, 0)) ∧
    (∀ b c : BitVec 32, (FinWord b ∧ InfWord c) ∨ (ZeroWord b ∧ FinWord c ∧ ¬ ZeroWord c) →
      fdiv b c = (if b.msb = c.msb then 0 else 0x80000000, 0)) ∧
    (∀ b : BitVec 32, NanWord b → fsqrt b = (0x7FC00000, if SnanWord b then 0x10 else 0)) ∧
    (∀ b : BitVec 32, ZeroWord b ∨ b = 0x7F800000 → fsqrt b = (b, 0)) ∧
    (∀ b : BitVec 32, ¬ NanWord b → b.msb = true → ¬ ZeroWord b → fsqrt b = (0x7FC00000, 0x10))) ∧
  -- Minimum, maximum, comparison and class (R193, R195, R196): −0 is the lesser zero to fmin and fmax and equal to +0 in a compare; one NaN
  -- gives way to the other operand; NaNs compare false but as unordered.
  (
    (∀ a b : BitVec 32, let f : BitVec 7 := if SnanWord a ∨ SnanWord b then 0x10 else 0
      fmin a b = (if NanWord a ∧ NanWord b then 0x7FC00000 else if NanWord a then b else if NanWord b then a
        else if q32 b < q32 a ∨ (q32 a = q32 b ∧ b.msb = true) then b else a, f) ∧
      fmax a b = (if NanWord a ∧ NanWord b then 0x7FC00000 else if NanWord a then b else if NanWord b then a
        else if q32 a < q32 b ∨ (q32 a = q32 b ∧ a.msb = true) then b else a, f)) ∧
    (∀ a b : BitVec 32, let f : BitVec 7 := if SnanWord a ∨ SnanWord b then 0x10 else 0
      let g : BitVec 7 := if NanWord a ∨ NanWord b then 0x10 else 0
      fcmp .eq a b = (decide (¬ NanWord a ∧ ¬ NanWord b ∧ q32 a = q32 b), f) ∧
      fcmp .lt a b = (decide (¬ NanWord a ∧ ¬ NanWord b ∧ q32 a < q32 b), g) ∧
      fcmp .le a b = (decide (¬ NanWord a ∧ ¬ NanWord b ∧ q32 a ≤ q32 b), g) ∧
      fcmp .un a b = (decide (NanWord a ∨ NanWord b), f)) ∧
    (∀ w : BitVec 32, fclass w = if NanWord w then (if w.getLsbD 22 then 9 else 8)
      else if InfWord w then (if w.msb then 0 else 7)
      else if ZeroWord w then (if w.msb then 3 else 4)
      else if w.toNat % 2 ^ 31 < 2 ^ 23 then (if w.msb then 2 else 5)
      else (if w.msb then 1 else 6)))

/-- Sums, products, quotients and roots of finite operands (R125, R191, R192, R194, R204): the exact sum, product, fused sum or quotient rounded
once to nearest even, with its flags; the root is the word whose square root's neighbours on either side are no nearer, inexact unless it is
exact. -/
def Obligations.FloatOperationsRoundOnce : Prop :=
  (∀ a b : BitVec 32, FinWord a → FinWord b → q32 a + q32 b ≠ 0 → Rounded32 (q32 a + q32 b) (fadd a b)) ∧
  (∀ a b : BitVec 32, FinWord a → FinWord b → q32 a - q32 b ≠ 0 → Rounded32 (q32 a - q32 b) (fsub a b)) ∧
  (∀ a b : BitVec 32, FinWord a → FinWord b → q32 a * q32 b ≠ 0 → Rounded32 (q32 a * q32 b) (fmul a b)) ∧
  (∀ b c a : BitVec 32, FinWord b → FinWord c → FinWord a → q32 b * q32 c + q32 a ≠ 0 → Rounded32 (q32 b * q32 c + q32 a) (ffma b c a)) ∧
  (∀ b c : BitVec 32, FinWord b → FinWord c → q32 b ≠ 0 → q32 c ≠ 0 → Rounded32 (q32 b / q32 c) (fdiv b c)) ∧
  (∀ b : BitVec 32, FinWord b → 0 < q32 b → FinWord (fsqrt b).1 ∧ (fsqrt b).1.msb = false ∧
    (fsqrt b).2 = (if q32 (fsqrt b).1 * q32 (fsqrt b).1 = q32 b then 0 else 0x01) ∧
    ∀ v : BitVec 32, FinWord v → v.msb = false → let mid := (q32 v + q32 (fsqrt b).1) / 2
      (q32 (fsqrt b).1 < q32 v → q32 b ≤ mid * mid) ∧ (q32 v < q32 (fsqrt b).1 → mid * mid ≤ q32 b))

/-- Values of tapered words, converts between formats, the legacy format. -/
def Obligations.ConvertsAndTaperedWords : Prop :=
  -- Tapered words (R129, R130, R133): every positive code of TF6 has the value of R130's table, the codes of TF8 and TF16 that the spec lists
  -- have theirs, a negative word is the negative of its two's complement, and the order of positive words is that of their values.
  (
    (∀ q ∈ ([(0x01, 1/256), (0x02, 1/64), (0x03, 1/32), (0x04, 1/16), (0x05, 3/32), (0x06, 1/8), (0x07, 3/16), (0x08, 1/4), (0x09, 5/16),
        (0x0A, 3/8), (0x0B, 7/16), (0x0C, 1/2), (0x0D, 5/8), (0x0E, 3/4), (0x0F, 7/8), (0x10, 1), (0x11, 5/4), (0x12, 3/2), (0x13, 7/4),
        (0x14, 2), (0x15, 5/2), (0x16, 3), (0x17, 7/2), (0x18, 4), (0x19, 6), (0x1A, 8), (0x1B, 12), (0x1C, 16), (0x1D, 32), (0x1E, 64),
        (0x1F, 256)] : List (Nat × ℚ)), taperQ 6 q.1 = q.2) ∧
    (∀ q ∈ ([(0x01, 1/4096), (0x02, 1/1024), (0x03, 1/512), (0x04, 1/256), (0x20, 1/4), (0x30, 1/2), (0x40, 1), (0x50, 2), (0x5A, 13/4),
        (0x5B, 27/8), (0x60, 4), (0x70, 16), (0x78, 64), (0x79, 96), (0x7A, 128), (0x7C, 256), (0x7E, 1024), (0x7F, 4096)] : List (Nat × ℚ)),
      taperQ 8 q.1 = q.2) ∧
    taperQ 16 0x0001 = 1 / 2 ^ 28 ∧ taperQ 16 0x4000 = 1 ∧ taperQ 16 0x7FFF = 2 ^ 28 ∧
    (∀ n ∈ [6, 8, 16], taperQ n 0 = 0 ∧ ∀ w, 2 ^ (n - 1) < w → w < 2 ^ n → taperQ n w = - taperQ n (2 ^ n - w)) ∧
    (∀ n ∈ [6, 8, 16], ∀ p, p + 1 < 2 ^ (n - 1) → taperQ n p < taperQ n (p + 1))) ∧
  -- Converts of numbers (R137, R138): to an integer, rounded by the mode, the nearer bound with invalid outside the range; to an IEEE format,
  -- rounded by the mode, a zero keeping its sign; to a tapered format, shifted from a narrower one, else rounded as R131 says.
  (
    ∀ src ∈ ([.sint 32, .sint 8, .uint 32, .ieee fp32, .ieee fp16, .ieee bf16, .taper 6, .taper 8, .taper 16] : List NType),
      ∀ (b : Nat) (rm : Rm) (x : ℚ), numberQ src b = some x →
      (∀ q ∈ ([(.sint 32, 32, -2 ^ 31, 2 ^ 31 - 1), (.sint 8, 8, -2 ^ 7, 2 ^ 7 - 1), (.uint 32, 32, 0, 2 ^ 32 - 1)] : List (NType × Nat × Int × Int)),
        convert q.1 src rm b = if intQ rm x < q.2.2.1 then ((q.2.2.1 % 2 ^ q.2.1).toNat, 0x10)
          else if q.2.2.2 < intQ rm x then ((q.2.2.2 % 2 ^ q.2.1).toNat, 0x10)
          else ((intQ rm x % 2 ^ q.2.1).toNat, if (intQ rm x : ℚ) = x then 0 else 0x01)) ∧
      (∀ f ∈ [fp32, fp16, bf16], x ≠ 0 → RoundsBy f rm x (convert (.ieee f) src rm b).1 ∧
        (rm = .rne → (convert (.ieee f) src rm b).2 = roundFlags f x (convert (.ieee f) src rm b).1)) ∧
      (∀ f ∈ [fp32, fp16, bf16], x = 0 → convert (.ieee f) src rm b = (match src with
        | .ieee g => if negBits g (b % 2 ^ g.width) then 2 ^ (f.frac + f.ebits) else 0
        | _ => 0, 0)) ∧
      ∀ n ∈ [6, 8, 16], (∀ k, src = .taper k → k < n → convert (.taper n) src rm b = (b % 2 ^ k * 2 ^ (n - k), 0)) ∧
        ((∀ k, src = .taper k → n ≤ k) → (x = 0 → convert (.taper n) src rm b = (0, 0)) ∧
          (x ≠ 0 → RoundsTaper n rm x (convert (.taper n) src rm b)))) ∧
  -- Converts of what is no number (R137): an infinity gives the bound of its side with invalid, itself, or NaR with narp; a NaN or NaR gives
  -- the least integer with invalid, the canonical NaN, or NaR, with invalid for a signalling one and narp where the source was no NaR.
  (
    (∀ g ∈ [fp32, fp16, bf16], ∀ (b : Nat) (rm : Rm), let w := b % 2 ^ g.width
      (InfBits g w →
        (∀ q ∈ ([(.sint 32, 0x80000000, 0x7FFFFFFF), (.sint 8, 0x80, 0x7F), (.uint 32, 0, 0xFFFFFFFF)] : List (NType × Nat × Nat)),
          convert q.1 (.ieee g) rm b = (if negBits g w then q.2.1 else q.2.2, 0x10)) ∧
        (∀ f ∈ [fp32, fp16, bf16], convert (.ieee f) (.ieee g) rm b =
          ((if negBits g w then 2 ^ (f.frac + f.ebits) else 0) + (2 ^ f.ebits - 1) * 2 ^ f.frac, 0)) ∧
        ∀ n ∈ [6, 8, 16], convert (.taper n) (.ieee g) rm b = (2 ^ (n - 1), 0x20)) ∧
      (¬ FiniteBits g w → ¬ InfBits g w → let sig : BitVec 7 := if w % 2 ^ g.frac < 2 ^ (g.frac - 1) then 0x10 else 0
        (∀ q ∈ ([(.sint 32, 0x80000000), (.sint 8, 0x80), (.uint 32, 0)] : List (NType × Nat)), convert q.1 (.ieee g) rm b = (q.2, 0x10)) ∧
        (∀ q ∈ [(fp32, 0x7FC00000), (fp16, 0x7E00), (bf16, 0x7FC0)], convert (.ieee q.1) (.ieee g) rm b = (q.2, sig)) ∧
        ∀ n ∈ [6, 8, 16], convert (.taper n) (.ieee g) rm b = (2 ^ (n - 1), 0x20 ||| sig))) ∧
    (∀ k ∈ [6, 8, 16], ∀ (b : Nat) (rm : Rm), b % 2 ^ k = 2 ^ (k - 1) →
      (∀ q ∈ ([(.sint 32, 0x80000000), (.sint 8, 0x80), (.uint 32, 0)] : List (NType × Nat)), convert q.1 (.taper k) rm b = (q.2, 0x10)) ∧
      (∀ q ∈ [(fp32, 0x7FC00000), (fp16, 0x7E00), (bf16, 0x7FC0)], convert (.ieee q.1) (.taper k) rm b = (q.2, 0)) ∧
      ∀ n ∈ [6, 8, 16], convert (.taper n) (.taper k) rm b = (2 ^ (n - 1), 0))) ∧
  -- LF8 (R139, R220): a code has the value of R139, exact in FP32, −0 kept, and a NaN code gives the canonical NaN; a lane of `vdot.lf8` is
  -- its addend and four exact products rounded once, −0 if every term is, a NaN the canonical one, and an infinite addend stays.
  (
    (∀ b, b < 256 → (b % 128 = 127 → lf8ToF32 b = 0x7FC00000) ∧ (b % 128 ≠ 127 → FinWord (lf8ToF32 b) ∧ (lf8ToF32 b).msb = decide (128 ≤ b) ∧
      q32 (lf8ToF32 b) = (if 128 ≤ b then -1 else 1) *
        (if b / 8 % 16 = 0 then ((b % 8 : Nat) : ℚ) / 256 else (1 + ((b % 8 : Nat) : ℚ) / 8) * (2 : ℚ) ^ (((b / 8 % 16 : Nat) : Int) - 6)))) ∧
    (∀ (a : BitVec 32) (ps : List (Nat × Nat)), (∀ p ∈ ps, p.1 < 256 ∧ p.2 < 256) →
      let bad := NanWord a ∨ ∃ p ∈ ps, p.1 % 128 = 127 ∨ p.2 % 128 = 127
      let x := q32 a + (ps.map fun p => q32 (lf8ToF32 p.1) * q32 (lf8ToF32 p.2)).sum
      (bad → (lf8Dot a ps).1 = 0x7FC00000 ∧ ((lf8Dot a ps).2 = 0x10 ↔ SnanWord a) ∧ ((lf8Dot a ps).2 = 0 ↔ ¬ SnanWord a)) ∧
      (¬ bad → InfWord a → lf8Dot a ps = (a, 0)) ∧
      (¬ bad → FinWord a → x ≠ 0 → Rounded32 x (lf8Dot a ps)) ∧
      (¬ bad → FinWord a → x = 0 → (lf8Dot a ps).2 = 0 ∧ ((lf8Dot a ps).1 = 0x80000000 ∨ (lf8Dot a ps).1 = 0) ∧
        ((lf8Dot a ps).1 = 0x80000000 ↔ a = 0x80000000 ∧ ∀ p ∈ ps, (p.1 % 128 = 0 ∨ p.2 % 128 = 0) ∧ decide (128 ≤ p.1) ≠ decide (128 ≤ p.2)))))

/-- What fixed-latency and divide-unit instructions leave unchanged. -/
def Obligations.RegisterInstructionFrames : Prop :=
  -- A fixed-latency instruction of registers alone changes no memory, no other context and none of the machine's other state; of its own
  -- context it changes the PC and the selector's marks, and adds one pending result that writes its destination, and sr.fflags where it
  -- computes floats, and nothing else (R143, R151, R173 to R183, R191 to R214, R253).
  (
    ∀ (i : Instr) (ok : RegWrite → Bool) (s t : State) (c : Nat) (k : Ctx), i.mayWrite = some ok → Issues s i c k → exec i s = .next t →
      OnlyContext c s t ∧ ∃ k' f, t.ctxs.find? c = some k' ∧ SameRegisters k k' ∧ k'.pc = k.nextPc ∧ k'.slot = none ∧
        k'.pend = k.pend ++ [f] ∧ s.clock ≤ f.due ∧ ∀ w ∈ f.ws, ok w = true) ∧
  -- The instructions of the divide unit change their own context, the free-value counter and the serial counter alone; of the context, the PC,
  -- the selector's marks, the full bit of the destination and the pending result (R153, R177).
  (
    (∀ i ∈ ([.div, .divu, .rem, .remu, .fdivF32] : List (XXX → Instr)), ∀ (o : XXX) (s t : State) (c : Nat) (k : Ctx),
      Issues s (i o) c k → exec (i o) s = .next t →
        t = { s with ctxs := t.ctxs, cores := t.cores, free := t.free, serial := t.serial } ∧
        (∀ d, d ≠ c → t.ctxs.find? d = s.ctxs.find? d) ∧ (∀ n, n ≠ coreOf c → t.core n = s.core n) ∧
        ∃ k' r, t.ctxs.find? c = some k' ∧ SameRegisters { k with fullX := k'.fullX, vres := k.vres ++ [r] } k' ∧ k'.pend = k.pend ∧
          (∀ q, q ≠ o.a → k'.full (.x q) = k.full (.x q)) ∧ ∀ w ∈ r.ws, w.toX o.a || w.isOr) ∧
    (∀ (o : XX) (s t : State) (c : Nat) (k : Ctx), Issues s (.fsqrtF32 o) c k → exec (.fsqrtF32 o) s = .next t →
        t = { s with ctxs := t.ctxs, cores := t.cores, free := t.free, serial := t.serial } ∧
        (∀ d, d ≠ c → t.ctxs.find? d = s.ctxs.find? d) ∧ (∀ n, n ≠ coreOf c → t.core n = s.core n) ∧
        ∃ k' r, t.ctxs.find? c = some k' ∧ SameRegisters { k with fullX := k'.fullX, vres := k.vres ++ [r] } k' ∧ k'.pend = k.pend ∧
          (∀ q, q ≠ o.a → k'.full (.x q) = k.full (.x q)) ∧ ∀ w ∈ r.ws, w.toX o.a || w.isOr))

/-- Fixed-latency results land at the end of their cycle, and an add is seen in the next. -/
def Obligations.FixedLatencyResultsLand : Prop :=
  -- The end of a cycle makes the results due then visible (R151, R152, R128): a register no due result writes is as before, x0 and p0 take no
  -- write, the last result in issue order holds, flags are ORed in, and the results not due stay.
  (
    ∀ (k : Ctx) (t : Nat),
      (∀ r, (∀ f ∈ k.pend, f.due ≤ t → ∀ w ∈ f.ws, w.toX r = false) → (k.land t).xr r = k.xr r ∧ (k.land t).full (.x r) = k.full (.x r)) ∧
      (∀ r, (∀ f ∈ k.pend, f.due ≤ t → ∀ w ∈ f.ws, w.toV r = false) → (k.land t).vr r = k.vr r ∧ (k.land t).full (.v r) = k.full (.v r)) ∧
      (∀ r, (∀ f ∈ k.pend, f.due ≤ t → ∀ w ∈ f.ws, w.toM r = false) → (k.land t).mr r = k.mr r) ∧
      (∀ r, (∀ f ∈ k.pend, f.due ≤ t → ∀ w ∈ f.ws, w.toP r = false) → (k.land t).pr r = k.pr r) ∧
      (∀ p d r v, k.pend = p ++ [⟨d, [.x r v]⟩] → d ≤ t →
        (k.land t).xr r = (if r = 0 then 0 else v) ∧ (r ≠ 0 → (k.land t).full (.x r) = true)) ∧
      (∀ p d r v, k.pend = p ++ [⟨d, [.v r v]⟩] → d ≤ t → (k.land t).vr r = v ∧ (k.land t).full (.v r) = true) ∧
      (∀ p d r b, k.pend = p ++ [⟨d, [.m r b]⟩] → d ≤ t → (k.land t).mr r = b) ∧
      (∀ p d r b, k.pend = p ++ [⟨d, [.p r b]⟩] → d ≤ t → (k.land t).pr r = (if r = 0 then true else b)) ∧
      (∀ p d f, k.pend = p ++ [⟨d, [.orFlags f]⟩] → d ≤ t → (k.land t).fflags &&& f = f) ∧
      (∀ p d f, k.pend = p ++ [⟨d, [.fflags f]⟩] → d ≤ t → (∀ e ∈ p, e.due ≤ t → ∀ w ∈ e.ws, w.isOr = false) → (k.land t).fflags = f) ∧
      (k.land t).pend = k.pend.filter fun f => decide (t < f.due)) ∧
  -- The end of a cycle lands the results due at it, in every context of an activation whose partition runs, and changes nothing else of the
  -- context but its gap and what is left of a `park` (R76, R77, R151, R255).
  (
    ∀ (s : State) (c : Nat) (k : Ctx), s.lives k.act = true →
      s.endCtx c k = { k.land s.clock with gap := (s.endCtx c k).gap, wait := (s.endCtx c k).wait } ∧
      (s.endCtx c k).gap ≤ k.gap ∧ k.gap ≤ (s.endCtx c k).gap + 1 ∧ ((s.endCtx c k).wait.isNone = k.wait.isNone)) ∧
  -- An `add` seen to its end: issued with nothing pending, its destination holds the sum after the cycle, x0 excepted (R147, R151, R173).
  (
    ∀ (o : XXX) (s t : State) (c : Nat) (k k' : Ctx), Issues s (.add o) c k → k.pend = [] → s.lives k.act = true →
      exec (.add o) s = .next t → t.ctxs.find? c = some k' →
        (t.endCtx c k').xr o.a = (if o.a = 0 then 0 else k.xr o.b + k.xr o.c) ∧
        (∀ r, r ≠ o.a → (t.endCtx c k').xr r = k.xr r) ∧ (t.endCtx c k').pend = [])

/-! ## Vector instructions -/

/-- Lane-wise integer results, the movement of lanes, vector compares and mask instructions. -/
def Obligations.VectorIntegerAndLaneMovement : Prop :=
  -- Lane-wise integer and bit operations of two sources, latency class vector integer (R202, R203, R205).
  (
    (∀ q ∈ ([(.vaddI32, fun b c => b + c), (.vsubI32, fun b c => b - c), (.vmulI32, fun b c => BitVec.ofNat 32 (b.toNat * c.toNat)),
        (.vmulhI32, fun b c => BitVec.ofInt 32 (b.toInt * c.toInt / 2 ^ 32)), (.vmulhUi32, fun b c => BitVec.ofNat 32 (b.toNat * c.toNat / 2 ^ 32)),
        (.vminI32, fun b c => if b.toInt ≤ c.toInt then b else c), (.vmaxI32, fun b c => if b.toInt ≤ c.toInt then c else b),
        (.vminUi32, fun b c => if b.toNat ≤ c.toNat then b else c), (.vmaxUi32, fun b c => if b.toNat ≤ c.toNat then c else b),
        (.vand, fun b c => b &&& c), (.vor, fun b c => b ||| c), (.vxor, fun b c => b ^^^ c), (.vandn, fun b c => b &&& ~~~c)] :
        List ((V3 → Instr) × (BitVec 32 → BitVec 32 → BitVec 32))), ∀ (o : V3) (s : State) (c : Nat) (k : Ctx), Issues s (q.1 o) c k →
      ∃ r, exec (q.1 o) s = .next ((issued s (q.1 o) c).done c 2 [.v o.a r]) ∧
        LaneWise k o.k (k.vr o.a) (fun j => q.2 (laneOf (k.vr o.b) j) (match o.c with
          | .v n => laneOf (k.vr n) j
          | .x n => (k.xr n).setWidth 32)) r) ∧
    (∀ q ∈ ([(.vabsI32, 2, fun b => if b.toInt < 0 then -b else b), (.vnegI32, 2, fun b => -b), (.vmov, 2, fun b => b),
        (.vabsF32, 4, fun b => b &&& 0x7FFFFFFF), (.vnegF32, 4, fun b => b ^^^ 0x80000000)] :
        List ((V2 → Instr) × Nat × (BitVec 32 → BitVec 32))), ∀ (o : V2) (s : State) (c : Nat) (k : Ctx), Issues s (q.1 o) c k →
      ∃ r, exec (q.1 o) s = .next ((issued s (q.1 o) c).done c q.2.1 [.v o.a r]) ∧
        LaneWise k o.k (k.vr o.a) (fun j => q.2.2 (laneOf (k.vr o.b) j)) r) ∧
    (∀ q ∈ ([(.vshl, fun b n => BitVec.ofNat 32 (b.toNat * 2 ^ n)), (.vshr, fun b n => BitVec.ofNat 32 (b.toNat / 2 ^ n)),
        (.vsra, fun b n => BitVec.ofInt 32 (b.toInt / 2 ^ n))] :
        List ((VShOp → Instr) × (BitVec 32 → Nat → BitVec 32))), ∀ (o : VShOp) (s : State) (c : Nat) (k : Ctx), Issues s (q.1 o) c k →
      ∃ r, exec (q.1 o) s = .next ((issued s (q.1 o) c).done c 2 [.v o.a r]) ∧
        LaneWise k o.k (k.vr o.a) (fun j => q.2 (laneOf (k.vr o.b) j) (match o.c with
          | .v n => (laneOf (k.vr n) j).toNat % 32
          | .x n => (k.xr n).toNat % 32
          | .imm n => n.toNat)) r)) ∧
  -- The nine instructions that move lanes (R207, R208).
  (
    (∀ (o : VSelOp) (s : State) (c : Nat) (k : Ctx), Issues s (.vsel o) c k →
      ∃ r, exec (.vsel o) s = .next ((issued s (.vsel o) c).done c 2 [.v o.a r]) ∧
        ∀ j, j < 16 → laneOf r j = if (k.mr o.n).getLsbD j then laneOf (k.vr o.b) j else laneOf (k.vr o.c) j) ∧
    (∀ (o : VSplatOp) (s : State) (c : Nat) (k : Ctx), Issues s (.vsplat o) c k →
      ∃ r, exec (.vsplat o) s = .next ((issued s (.vsplat o) c).done c 2 [.v o.a r]) ∧
        LaneWise k o.k (k.vr o.a) (fun _ => (k.xr o.b).setWidth 32) r) ∧
    (∀ (o : VSplatI) (s : State) (c : Nat) (k : Ctx), Issues s (.vsplatI o) c k →
      ∃ r, exec (.vsplatI o) s = .next ((issued s (.vsplatI o) c).done c 2 [.v o.a r]) ∧ ∀ j, j < 16 → laneOf r j = o.imm) ∧
    (∀ (o : VExtOp) (s : State) (c : Nat) (k : Ctx), Issues s (.vext o) c k →
      exec (.vext o) s = .next ((issued s (.vext o) c).done c 2 [.x o.a ((laneOf (k.vr o.b) (match o.n with
        | .x n => (k.xr n).toNat % 16
        | .imm n => n.toNat)).setWidth 64)])) ∧
    (∀ (o : VInsOp) (s : State) (c : Nat) (k : Ctx), Issues s (.vins o) c k →
      ∃ r, exec (.vins o) s = .next ((issued s (.vins o) c).done c 2 [.v o.a r]) ∧
        ∀ j, j < 16 → laneOf r j = if j = (match o.n with
          | .x n => (k.xr n).toNat % 16
          | .imm n => n.toNat) then (k.xr o.b).setWidth 32 else laneOf (k.vr o.a) j) ∧
    (∀ (o : VVV) (s : State) (c : Nat) (k : Ctx), Issues s (.vperm o) c k →
      ∃ r, exec (.vperm o) s = .next ((issued s (.vperm o) c).done c 2 [.v o.a r]) ∧
        LaneWise k o.k (k.vr o.a) (fun j => laneOf (k.vr o.b) ((laneOf (k.vr o.c) j).toNat % 16)) r) ∧
    (∀ (o : VShufOp) (s : State) (c : Nat) (k : Ctx), Issues s (.vshufl o) c k →
      ∃ r, exec (.vshufl o) s = .next ((issued s (.vshufl o) c).done c 2 [.v o.a r]) ∧
        ∃ w, LaneWise k o.k (k.vr o.a) (laneOf w) r ∧
          (o.pat = 0 → ∀ i, i < 8 → laneOf w (2 * i) = laneOf (k.vr o.b) i ∧ laneOf w (2 * i + 1) = laneOf (k.vr o.c) i) ∧
          (o.pat = 1 → ∀ i, i < 8 → laneOf w (2 * i) = laneOf (k.vr o.b) (8 + i) ∧ laneOf w (2 * i + 1) = laneOf (k.vr o.c) (8 + i)) ∧
          (o.pat = 2 → ∀ i, i < 8 → laneOf w i = laneOf (k.vr o.b) (2 * i) ∧ laneOf w (8 + i) = laneOf (k.vr o.c) (2 * i)) ∧
          (o.pat = 3 → ∀ i, i < 8 → laneOf w i = laneOf (k.vr o.b) (2 * i + 1) ∧ laneOf w (8 + i) = laneOf (k.vr o.c) (2 * i + 1))) ∧
    (∀ (o : VRotOp) (s : State) (c : Nat) (k : Ctx), Issues s (.vrot o) c k →
      ∃ r, exec (.vrot o) s = .next ((issued s (.vrot o) c).done c 2 [.v o.a r]) ∧
        LaneWise k o.k (k.vr o.a) (fun j => laneOf (k.vr o.b) ((j + (match o.n with
          | .x n => (k.xr n).toNat % 16
          | .imm n => n.toNat)) % 16)) r)) ∧
  -- Lane compares to a mask: an active lane's bit is the result, an inactive lane's stays under merge and is cleared under zero (R206).
  (
    (∀ q ∈ ([(.vcmpEqI32, fun b c => decide (b = c)), (.vcmpNeI32, fun b c => decide (b ≠ c)), (.vcmpLtI32, fun b c => decide (b.toInt < c.toInt)),
        (.vcmpLeI32, fun b c => decide (b.toInt ≤ c.toInt)), (.vcmpLtUi32, fun b c => decide (b.toNat < c.toNat)),
        (.vcmpLeUi32, fun b c => decide (b.toNat ≤ c.toNat))] : List ((VCmpOp → Instr) × (BitVec 32 → BitVec 32 → Bool))),
      ∀ (o : VCmpOp) (s : State) (c : Nat) (k : Ctx), Issues s (q.1 o) c k →
      ∃ b, exec (q.1 o) s = .next ((issued s (q.1 o) c).done c 2 [.m o.a b]) ∧
        ∀ j, j < 16 → b.getLsbD j = if k.active o.k j then q.2 (laneOf (k.vr o.b) j) (k.vx o.c j) else (match o.k with
          | .on true _ => false
          | _ => (k.mr o.a).getLsbD j)) ∧
    (∀ q ∈ ([(.vcmpEqF32, .eq), (.vcmpLtF32, .lt), (.vcmpLeF32, .le), (.vcmpUnF32, .un)] : List ((VCmpOp → Instr) × FCmp)),
      ∀ (o : VCmpOp) (s : State) (c : Nat) (k : Ctx), Issues s (q.1 o) c k →
      ∃ b f, exec (q.1 o) s = .next ((issued s (q.1 o) c).done c 4 [.m o.a b, .orFlags f]) ∧
        (∀ j, j < 16 → b.getLsbD j = if k.active o.k j then (fcmp q.2 (laneOf (k.vr o.b) j) (k.vx o.c j)).1 else (match o.k with
          | .on true _ => false
          | _ => (k.mr o.a).getLsbD j)) ∧
        ActiveFlags k o.k (fun j => (fcmp q.2 (laneOf (k.vr o.b) j) (k.vx o.c j)).2) f)) ∧
  -- Mask operations (R212).
  (
    (∀ q ∈ ([(.mand, fun b c => b &&& c), (.mor, fun b c => b ||| c), (.mxor, fun b c => b ^^^ c)] :
        List ((MMM → Instr) × (BitVec 16 → BitVec 16 → BitVec 16))), ∀ (o : MMM) (s : State) (c : Nat) (k : Ctx), Issues s (q.1 o) c k →
      exec (q.1 o) s = .next ((issued s (q.1 o) c).done c 2 [.m o.a (q.2 (k.mr o.b) (k.mr o.c))])) ∧
    (∀ (o : MM) (s : State) (c : Nat) (k : Ctx), Issues s (.mnot o) c k →
      exec (.mnot o) s = .next ((issued s (.mnot o) c).done c 2 [.m o.a (~~~k.mr o.b)])) ∧
    (∀ (o : XM) (s : State) (c : Nat) (k : Ctx), Issues s (.mpop o) c k →
      exec (.mpop o) s = .next ((issued s (.mpop o) c).done c 2
        [.x o.a (BitVec.ofNat 64 ((List.range 16).filter fun i => (k.mr o.b).getLsbD i).length)])) ∧
    (∀ (o : XM) (s : State) (c : Nat) (k : Ctx), Issues s (.mfirst o) c k →
      ∃ n, exec (.mfirst o) s = .next ((issued s (.mfirst o) c).done c 2 [.x o.a (BitVec.ofNat 64 n)]) ∧ n ≤ 16 ∧
        (∀ i, i < n → (k.mr o.b).getLsbD i = false) ∧ (n < 16 → (k.mr o.b).getLsbD n = true)) ∧
    (∀ (o : MSetOp) (s : State) (c : Nat) (k : Ctx), Issues s (.mset o) c k →
      exec (.mset o) s = .next ((issued s (.mset o) c).done c 2 [.m o.a (match o.s with
        | .x r => (k.xr r).setWidth 16
        | .imm n => n)])) ∧
    (∀ (o : PM) (s : State) (c : Nat) (k : Ctx), Issues s (.m2pAny o) c k →
      exec (.m2pAny o) s = .next ((issued s (.m2pAny o) c).done c 2 [.p o.a (decide (k.mr o.b ≠ 0))])) ∧
    (∀ (o : PM) (s : State) (c : Nat) (k : Ctx), Issues s (.m2pAll o) c k →
      exec (.m2pAll o) s = .next ((issued s (.m2pAll o) c).done c 2 [.p o.a (decide (k.mr o.b = 0xFFFF))])))

/-- Vector float results, converts and the microcoded forms. -/
def Obligations.VectorFloatAndConverts : Prop :=
  -- Lane-wise FP32 operations, latency class vector float, with the flags of the active lanes (R128, R202, R204).
  (
    (∀ q ∈ ([(.vaddF32, fadd), (.vsubF32, fsub), (.vmulF32, fmul), (.vminF32, fmin), (.vmaxF32, fmax)] :
        List ((V3 → Instr) × (BitVec 32 → BitVec 32 → BitVec 32 × FFlags))), ∀ (o : V3) (s : State) (c : Nat) (k : Ctx), Issues s (q.1 o) c k →
      ∃ r f, exec (q.1 o) s = .next ((issued s (q.1 o) c).done c 4 [.v o.a r, .orFlags f]) ∧
        LaneWise k o.k (k.vr o.a) (fun j => (q.2 (laneOf (k.vr o.b) j) (k.vx o.c j)).1) r ∧
        ActiveFlags k o.k (fun j => (q.2 (laneOf (k.vr o.b) j) (k.vx o.c j)).2) f) ∧
    (∀ q ∈ ([(.vfmaF32, ffma), (.vfmsF32, ffms)] : List ((V3 → Instr) × (BitVec 32 → BitVec 32 → BitVec 32 → BitVec 32 × FFlags))),
      ∀ (o : V3) (s : State) (c : Nat) (k : Ctx), Issues s (q.1 o) c k →
      ∃ r f, exec (q.1 o) s = .next ((issued s (q.1 o) c).done c 4 [.v o.a r, .orFlags f]) ∧
        LaneWise k o.k (k.vr o.a) (fun j => (q.2 (laneOf (k.vr o.b) j) (k.vx o.c j) (laneOf (k.vr o.a) j)).1) r ∧
        ActiveFlags k o.k (fun j => (q.2 (laneOf (k.vr o.b) j) (k.vx o.c j) (laneOf (k.vr o.a) j)).2) f)) ∧
  -- A vector convert (R213, R214): sixteen elements, an inactive one old or zero, the elements outside the destination part unchanged.
  (
    ∀ (o : VCvtOp) (s : State) (c : Nat) (k : Ctx), (Instr.vcvt o).wf = true → Issues s (.vcvt o) c k →
      let w := vtypeWidth o.dst
      let e := fun j => convert (vectorType o.dst) (vectorType o.src) (rmOf o.rm) (elemOf (k.vr o.b) (vtypeWidth o.src) (16 * o.spart.toNat + j))
      ∃ r f, exec (.vcvt o) s = .next ((issued s (.vcvt o) c).done c 3 [.v o.a r, .orFlags f]) ∧
        ActiveFlags k o.k (fun j => (e j).2) f ∧
        ∀ d, d < 512 / w → elemOf r w d =
          if d / 16 = o.dpart.toNat then
            (if k.active o.k (d % 16) then placeElem o.dst (e (d % 16)).1 else (match o.k with
              | .on true _ => 0
              | _ => elemOf (k.vr o.a) w d))
          else elemOf (k.vr o.a) w d) ∧
  -- The LF8 forms (R220): masked lane results, and four and eight issue cycles, in which the context issues nothing further; that a greater
  -- encoded gap stands is log 16's.
  (
    (∀ (o : VLf8Op) (s : State) (c : Nat) (k : Ctx), Issues s (.vcvtLf8 o) c k →
      ∃ r, exec (.vcvtLf8 o) s = .next (((issued s (.vcvtLf8 o) c).done c 3 [.v o.a r]).modCtx c fun x =>
          { x with busy := s.clock + 4, gap := max x.gap 3 }) ∧
        LaneWise k o.k (k.vr o.a) (fun j => lf8ToF32 (elemOf (k.vr o.b) 8 (16 * o.spart.toNat + j))) r) ∧
    (∀ (o : VVV) (s : State) (c : Nat) (k : Ctx), Issues s (.vdotLf8 o) c k →
      let d := fun j => lf8Dot (laneOf (k.vr o.a) j)
        ((List.range 4).map fun i => (elemOf (k.vr o.b) 8 (4 * j + i), elemOf (k.vr o.c) 8 (4 * j + i)))
      ∃ r f, exec (.vdotLf8 o) s = .next (((issued s (.vdotLf8 o) c).done c 4 [.v o.a r, .orFlags f]).modCtx c fun x =>
          { x with busy := s.clock + 8, gap := max x.gap 7 }) ∧
        LaneWise k o.k (k.vr o.a) (fun j => (d j).1) r ∧ ActiveFlags k o.k (fun j => (d j).2) f))

/-- Reductions and scans, and the order of a float sum. -/
def Obligations.ReductionsAndScans : Prop :=
  -- Reductions and scans: the tree and the scan of R142 over the sixteen contributions, an inactive lane giving the identity (R210, R211).
  (
    (∀ q ∈ ([(.vredaddI32, 2, true, fun a b => (a + b, 0), 0), (.vredaddF32, 4, false, fadd, 0x80000000),
        (.vredminI32, 2, true, fun a b => (if a.toInt ≤ b.toInt then a else b, 0), 0x7FFFFFFF),
        (.vredminUi32, 2, false, fun a b => (if a.toNat ≤ b.toNat then a else b, 0), 0xFFFFFFFF), (.vredminF32, 4, false, fmin, 0x7FC00000),
        (.vredmaxI32, 2, true, fun a b => (if a.toInt ≤ b.toInt then b else a, 0), 0x80000000),
        (.vredmaxUi32, 2, false, fun a b => (if a.toNat ≤ b.toNat then b else a, 0), 0), (.vredmaxF32, 4, false, fmax, 0x7FC00000)] :
        List ((VRedOp → Instr) × Nat × Bool × FlagOp2 × BitVec 32)), ∀ (o : VRedOp) (s : State) (c : Nat) (k : Ctx), Issues s (q.1 o) c k →
      let r := tree16 q.2.2.2.1 ((List.range 16).map fun j => if k.active o.k j then laneOf (k.vr o.b) j else q.2.2.2.2)
      exec (q.1 o) s = .next ((issued s (q.1 o) c).done c q.2.1
        [.x o.a (if q.2.2.1 then r.1.signExtend 64 else r.1.setWidth 64), .orFlags r.2])) ∧
    (∀ q ∈ ([(.vscanAddI32, 2, fun a b => (a + b, 0), 0), (.vscanAddF32, 4, fadd, 0x80000000),
        (.vscanMinI32, 2, fun a b => (if a.toInt ≤ b.toInt then a else b, 0), 0x7FFFFFFF),
        (.vscanMinUi32, 2, fun a b => (if a.toNat ≤ b.toNat then a else b, 0), 0xFFFFFFFF), (.vscanMinF32, 4, fmin, 0x7FC00000),
        (.vscanMaxI32, 2, fun a b => (if a.toInt ≤ b.toInt then b else a, 0), 0x80000000),
        (.vscanMaxUi32, 2, fun a b => (if a.toNat ≤ b.toNat then b else a, 0), 0), (.vscanMaxF32, 4, fmax, 0x7FC00000)] :
        List ((V2 → Instr) × Nat × FlagOp2 × BitVec 32)), ∀ (o : V2) (s : State) (c : Nat) (k : Ctx), Issues s (q.1 o) c k →
      let w := scan16 q.2.2.1 ((List.range 16).map fun j => if k.active o.k j then laneOf (k.vr o.b) j else q.2.2.2)
      ∃ r, exec (q.1 o) s = .next ((issued s (q.1 o) c).done c q.2.1 [.v o.a r, .orFlags w.2]) ∧
        LaneWise k o.k (k.vr o.a) (fun j => w.1.getD j 0) r)) ∧
  -- What the tree and the scan of R142 are, whatever the operation: the tree combines neighbours, then pairs, fours and eights; lane 0 of the
  -- scan is lane 0, and every later lane the lane before it combined with its own element. Both OR the flags of all their operations (R128).
  (
    ∀ (op : FlagOp2) (e : Nat → BitVec 32),
      (let c := fun (a b : BitVec 32 × FFlags) => ((op a.1 b.1).1, a.2 ||| b.2 ||| (op a.1 b.1).2)
       let two := fun i => c (e i, 0) (e (i + 1), 0)
       let four := fun i => c (two i) (two (i + 2))
       let eight := fun i => c (four i) (four (i + 4))
       tree16 op ((List.range 16).map e) = c (eight 0) (eight 8)) ∧
      (let r := scan16 op ((List.range 16).map e)
       r.1.length = 16 ∧ r.1.getD 0 0 = e 0 ∧ (∀ j, j < 15 → r.1.getD (j + 1) 0 = (op (r.1.getD j 0) (e (j + 1))).1) ∧
       r.2 = (List.range 15).foldl (fun f j => f ||| (op (r.1.getD j 0) (e (j + 1))).2) 0))

/-! ## Waiting, guards, exceptions, system instructions -/

/-- An instruction that is not eligible changes nothing; one whose guard is false only moves on. -/
def Obligations.WaitingAndFalseGuards : Prop :=
  -- A context that is not eligible waits: nothing changes (R76). For every instruction that has operands.
  (
    ∀ (i : Instr) (m : Mods) (n : Need) (ctl : Ctl) (s : State) (c : Nat) (k : Ctx), i.asks = some (m, n, ctl) →
      s.cur = some c → s.ctxs.find? c = some k → s.eligible c k n = false → exec i s = .next s) ∧
  -- A false guard: the instruction has no effect but its place in the cycle, its gap and its mark; a transfer's slot still runs and then PC +
  -- 24 (R149, R154). For every instruction that has operands.
  (
    ∀ (i : Instr) (m : Mods) (n : Need) (ctl : Ctl) (s : State) (c : Nat) (k : Ctx), i.asks = some (m, n, ctl) →
      s.cur = some c → s.ctxs.find? c = some k → s.eligible c k n = true → (ctl = .none ∨ k.slot = none) → k.pr m.guard = m.sense →
      ∃ t k', exec i s = .next t ∧ OnlyContext c s t ∧ t.ctxs.find? c = some k' ∧ SameRegisters k k' ∧ k'.pend = k.pend ∧
        m.gap.toNat ≤ k'.gap ∧ (t.core (coreOf c)).marks.getLsbD (c % 8) = m.sw ∧
        (if ctl = .transfer then k'.pc = k.pc + 12 ∧ k'.slot = some (k.pc + 24) else k'.pc = k.nextPc ∧ k'.slot = none))

/-- Traps of a transfer in a slot and of an empty read; trap and ebreak. -/
def Obligations.SlotAndEmptyReadTraps : Prop :=
  -- A control transfer or a return in a delay slot raises illegal-slot before its guard is looked at (R150, R155, R344, R352).
  (
    ∀ (i : Instr) (m : Mods) (n : Need) (ctl : Ctl) (s : State) (c : Nat) (k : Ctx), i.asks = some (m, n, ctl) → ctl ≠ .none →
      s.cur = some c → s.ctxs.find? c = some k → s.eligible c k n = true → k.slot.isSome = true →
      exec i s = .next ((issued s i c).raise c { code := 0x04 })) ∧
  -- A read of an empty register with empty-action 1 raises empty-read, in every instruction that reads one; its information names the first
  -- such source, 1 for B and 2 for C (R76, R150, R352).
  (
    (∀ (i : Instr) (m : Mods) (n : Need) (ctl : Ctl) (s : State) (c v : Nat) (k : Ctx), i.asks = some (m, n, ctl) → s.cur = some c →
      s.ctxs.find? c = some k → s.eligible c k n = true → (ctl = .none ∨ k.slot = none) → k.pr m.guard ≠ m.sense → k.emptyInfo n = some v →
      exec i s = .next ((issued s i c).raise c { code := 0x09, info := v })) ∧
    (∀ (i : Instr) (m : Mods) (n : Need) (ctl : Ctl) (k : Ctx) (v : Nat), i.asks = some (m, n, ctl) → k.emptyInfo n = some v →
      (v = 1 ∧ m.eaB = true) ∨ (v = 2 ∧ m.eaC = true)) ∧
    (∀ (o : XXX) (k : Ctx), k.emptyInfo o.need = if o.m.eaB && !k.full (.x o.b) then some 1 else if o.m.eaC && !k.full (.x o.c) then some 2 else none)) ∧
  -- `trap n` raises software-trap with n in its information and continues (R255, R344, R347); `ebreak` raises its trap, or stops the core when
  -- its bit of dbgctl says so (R255, R317), with its context behind it (log 43, the model's reading).
  (
    (∀ (o : N16) (s : State) (c : Nat) (k : Ctx), Issues s (.trap o) c k →
      exec (.trap o) s = .next ((issued s (.trap o) c).raise c { code := 0x12, info := o.n.toNat, course := .continue_ })) ∧
    (∀ (o : NoneOp) (s : State) (c : Nat) (k : Ctx), Issues s (.ebreak o) c k → (s.core (coreOf c)).dbgctl.getLsbD 7 = false →
      exec (.ebreak o) s = .next ((issued s (.ebreak o) c).raise c { code := 0x10, course := .continue_ })) ∧
    (∀ (o : NoneOp) (s : State) (c : Nat) (k : Ctx), Issues s (.ebreak o) c k → (s.core (coreOf c)).dbgctl.getLsbD 7 = true →
      ∃ t k', exec (.ebreak o) s = .next t ∧ t.ctxs.find? c = some k' ∧ k'.pc = k.nextPc ∧ k'.slot = none ∧ k'.epc = k.epc ∧
        k'.cause = k.cause ∧ ((∀ x ∈ s.acts, ∀ m ∈ x.2.members, m.saving = false) → t.acts = s.acts)))

/-- What taking an exception saves, and its courses: continue, fail, repair. -/
def Obligations.ExceptionsAndTheirCourses : Prop :=
  -- What an exception saves (R165, R343, R346): the PC, the next address or the continuation of a slot, the cause with its parts, the address
  -- when there is one; no other register changes.
  (
    ∀ (k : Ctx) (t : Trap),
      (k.take t).epc = k.pc ∧ (k.take t).enpc = (match k.slot with
        | some n => n
        | none => k.pc + 12) ∧
      (k.take t).cause.extractLsb' 0 8 = BitVec.ofNat 8 t.code ∧ (k.take t).cause.getLsbD 8 = t.micro ∧
      (k.take t).cause.getLsbD 9 = k.slot.isSome ∧ (k.take t).cause.extractLsb' 10 6 = 0 ∧
      (k.take t).cause.extractLsb' 16 16 = BitVec.ofNat 16 t.info ∧ (k.take t).cause.extractLsb' 32 32 = 0 ∧
      (k.take t).badaddr = (match t.badaddr with
        | some a => a
        | none => k.badaddr) ∧
      k.take t = { k with
        epc := (k.take t).epc, enpc := (k.take t).enpc, cause := (k.take t).cause, badaddr := (k.take t).badaddr }) ∧
  -- The course "continue": the registers are saved and the member resumes at sr.enpc, waiting only for room in the record ring (R347, R351).
  (
    ∀ (s : State) (c : Nat) (k : Ctx) (a : Act) (t : Trap), s.ctxs.find? c = some k → s.acts.find? k.act = some a → t.course = .continue_ →
      ∃ k', (s.raise c t).ctxs.find? c = some k' ∧ k' = { k.take t with pc := (k.take t).enpc, slot := none, pause := k'.pause } ∧
        (k'.pause = none ∨ k'.pause = some .record) ∧ (∀ d, d ≠ c → (s.raise c t).ctxs.find? d = s.ctxs.find? d) ∧
        (s.raise c t).acts = s.acts) ∧
  -- The course "fail": every context of the activation becomes FREE, its writes are dropped, and the first failure stands with what the
  -- exception saved; an activation that has failed stays as it is (R348).
  (
    ∀ (s : State) (c : Nat) (k : Ctx) (a : Act) (t : Trap), s.ctxs.find? c = some k → s.acts.find? k.act = some a → t.course = .fail →
      (∀ f b, a.phase ≠ .failed f b) →
      (s.raise c t).acts.find? k.act = some (a.discard ((k.take t).failure c)) ∧
      (∀ d x, (s.raise c t).ctxs.find? d = some x → x.act ≠ k.act)) ∧
  -- The course "repair": the registers are saved, the member waits, and its repair stands under the number of its record in the ring, or
  -- behind the record while the ring is full (R347, R351, R375, R376).
  (
    ∀ (s : State) (c : Nat) (k : Ctx) (a : Act) (t : Trap) (write cow : Bool), s.ctxs.find? c = some k → s.acts.find? k.act = some a →
      t.course = .repair write cow →
      let p := s.part a.p
      let q : Repair := ⟨.context c, k.act, BitVec.ofNat 8 t.code, t.badaddr.getD 0⟩
      (∃ k', (s.raise c t).ctxs.find? c = some k' ∧ k' = { k.take t with pause := some .repair } ∧ (s.raise c t).acts = s.acts) ∧
      (p.ringOn = true → p.ringFull = false →
        ((s.raise c t).part a.p).repairs.find? ((p.word 0x410).toNat % 2 ^ 32) = some q ∧
        ((s.raise c t).part a.p).word 0x410 = p.word 0x410 + 1) ∧
      (p.ringOn = true → p.ringFull = true → ∃ r, ((s.raise c t).part a.p).stalled = p.stalled ++ [r] ∧ r.repair = some q))

/-- eret and eret.re return to the saved place, which is the one the exception interrupted. -/
def Obligations.ReturnsFromException : Prop :=
  -- The returns: `eret` goes to sr.enpc, `eret.re` to sr.epc, in its slot when sr.cause says so; nothing else changes (R255, R154).
  (
    (∀ (o : NoneOp) (s : State) (c : Nat) (k : Ctx), Issues s (.eret o) c k →
      exec (.eret o) s = .next ((issued s (.eret o) c).modCtx c fun x => { x with pc := k.enpc, slot := none })) ∧
    (∀ (o : NoneOp) (s : State) (c : Nat) (k : Ctx), Issues s (.eretRe o) c k →
      exec (.eretRe o) s = .next ((issued s (.eretRe o) c).modCtx c fun x =>
        { x with pc := k.epc, slot := if k.cause.getLsbD 9 then some k.enpc else none }))) ∧
  -- An exception and `eret.re` after it put the context back where it stood, slot and all (R154, R255, R346).
  (
    ∀ (k : Ctx) (t : Trap), ((k.take t).eretRe).pc = k.pc ∧ ((k.take t).eretRe).slot = k.slot ∧
      ((k.take t).eret).pc = k.nextPc ∧ ((k.take t).eret).slot = none)

/-- Reads and writes of system registers; the hint space only moves on. -/
def Obligations.SystemRegistersAndHints : Prop :=
  -- `rdsr` of every register of integer-ALU latency gives that register, the others are read when their result comes; `wrsr` writes the three
  -- writable registers (R253, R20, R26, R40, R69).
  (
    (∀ (o : SrOp) (s : State) (c : Nat) (k : Ctx), Issues s (.rdsr o) c k → o.r ≠ .tags → o.r ≠ .tagerr → o.r ≠ .progress →
      exec (.rdsr o) s = .next ((issued s (.rdsr o) c).done c 1 [.x o.a ((issued s (.rdsr o) c).sysReg c k o.r)])) ∧
    (∀ (o : SrOp) (s : State) (c : Nat) (k : Ctx), Issues s (.rdsr o) c k → (o.r = .tags ∨ o.r = .tagerr ∨ o.r = .progress) →
      exec (.rdsr o) s = .next (((issued s (.rdsr o) c).later c .state [] (some (o.a, .sr o.r))).1.advance c)) ∧
    (∀ (o : SrOp) (s : State) (c : Nat) (k : Ctx), Issues s (.wrsr o) c k →
      (o.r = .fflags → exec (.wrsr o) s = .next ((issued s (.wrsr o) c).done c 1 [.fflags ((k.xr o.a).setWidth 7)])) ∧
      (o.r = .epc → exec (.wrsr o) s = .next ((issued s (.wrsr o) c).done c 1 [.epc (k.xr o.a)])) ∧
      (o.r = .enpc → exec (.wrsr o) s = .next ((issued s (.wrsr o) c).done c 1 [.enpc (k.xr o.a)]))) ∧
    (∀ (s : State) (c : Nat) (k : Ctx) (a : Act), s.acts.find? k.act = some a →
      s.sysReg c k .self = a.self ∧ s.sysReg c k .sender = a.letter.sender ∧ s.sysReg c k .postmark = a.letter.postmark ∧
      s.sysReg c k .gang = BitVec.ofNat 64 (k.member + 256 * a.img.g) ∧ s.sysReg c k .clearance = a.clearance ∧
      s.sysReg c k .ctx = BitVec.ofNat 64 c ∧ s.sysReg c k .cycle = BitVec.ofNat 64 s.now ∧ s.sysReg c k .epc = k.epc ∧
      s.sysReg c k .enpc = k.enpc ∧ s.sysReg c k .cause = k.cause ∧ s.sysReg c k .badaddr = k.badaddr ∧
      s.sysReg c k .fflags = k.fflags.setWidth 64 ∧ (a.img.region = 0 → s.sysReg c k .region = 0))) ∧
  -- A hint-space word only moves on, whatever its other bits are: it waits for no register and for no predicate, and its gap and mark act
  -- (R149, R159, R160).
  (
    (∀ (o : NopRaw) (s : State) (c : Nat) (k : Ctx), s.cur = some c → s.ctxs.find? c = some k → s.runs k = true →
      ∃ t k', exec (.nop o) s = .next t ∧ OnlyContext c s t ∧ t.ctxs.find? c = some k' ∧ SameRegisters k k' ∧ k'.pend = k.pend ∧
        k'.pc = k.nextPc ∧ k'.slot = none ∧ k'.gap = (o.rest.extractLsb' 12 4).toNat ∧ (t.core (coreOf c)).marks.getLsbD (c % 8) = o.rest.getLsbD 11) ∧
    (∀ (o : HintRaw) (s : State) (c : Nat) (k : Ctx), s.cur = some c → s.ctxs.find? c = some k → s.runs k = true →
      ∃ t k', exec (.hintSpaceWord o) s = .next t ∧ OnlyContext c s t ∧ t.ctxs.find? c = some k' ∧ SameRegisters k k' ∧ k'.pend = k.pend ∧
        k'.pc = k.nextPc ∧ k'.slot = none ∧ k'.gap = (o.word.extractLsb' 12 4).toNat ∧ (t.core (coreOf c)).marks.getLsbD (c % 8) = o.word.getLsbD 11))

/-! ## Memory -/

/-- Scalar loads and stores in TCM and scratchpad, and the misaligned trap. -/
def Obligations.ScalarMemoryResults : Prop :=
  -- Scalar loads of every width from TCM (R164, R223): the bytes at the address, least significant first, extended as the form says, go to the
  -- destination when the result comes; the context's earlier loads of them take no later value (R103).
  (
    ∀ q ∈ ([(.ldI8, 1, true, fun v => BitVec.ofInt 64 (BitVec.ofNat 8 v).toInt), (.ldUi8, 1, false, fun v => BitVec.ofNat 64 v),
        (.ldI16, 2, true, fun v => BitVec.ofInt 64 (BitVec.ofNat 16 v).toInt), (.ldUi16, 2, false, fun v => BitVec.ofNat 64 v),
        (.ldI32, 4, true, fun v => BitVec.ofInt 64 (BitVec.ofNat 32 v).toInt), (.ldUi32, 4, false, fun v => BitVec.ofNat 64 v),
        (.ld64, 8, false, fun v => BitVec.ofNat 64 v)] : List ((XXImm → Instr) × Nat × Bool × (Nat → Word))),
      ∀ (o : XXImm) (s : State) (c : Nat) (k : Ctx) (a : Act), Issues s (q.1 o) c k → s.acts.find? k.act = some a →
        let ea := k.xr o.b + BitVec.ofInt 64 o.imm.toInt
        InTcm ea q.2.1 →
          exec (q.1 o) s = .next (((((issued s (q.1 o) c).settleLoads (agentOf c k) ea.toNat q.2.1).later c .load
            [.x o.a (q.2.2.2 (k.tcm.num (ea.toNat % 2 ^ 56) q.2.1))] none
            [⟨none, [(ea.toNat, q.2.1)], .scalar (8 * q.2.1) q.2.2.1⟩]).1).advance c)) ∧
  -- Scalar stores of every width to TCM (R164, R223), and what they leave alone: the low bytes of the data register stand at the address,
  -- every other byte of TCM reads as before, and no other memory, register, context or activation changes.
  (
    ∀ q ∈ ([(.st8, 1), (.st16, 2), (.st32, 4), (.st64, 8)] : List ((XXImm → Instr) × Nat)),
      ∀ (o : XXImm) (s : State) (c : Nat) (k : Ctx) (a : Act), Issues s (q.1 o) c k → s.acts.find? k.act = some a →
        let ea := k.xr o.b + BitVec.ofInt 64 o.imm.toInt
        let off := ea.toNat % 2 ^ 56
        InTcm ea q.2 →
          ∃ t k', exec (q.1 o) s = .next t ∧ OnlyContext c s t ∧ t.ctxs.find? c = some k' ∧
            SameRegisters { k with tcm := k'.tcm, vres := k'.vres } k' ∧ SameResults k.vres k'.vres ∧ k'.pend = k.pend ∧ k'.pc = k.nextPc ∧ k'.slot = none ∧
            (k.tcm.wf = true → k'.tcm.num off q.2 = (k.xr o.a).toNat % 2 ^ (8 * q.2)) ∧
            (∀ b, b < off ∨ off + q.2 ≤ b → k'.tcm.get b = k.tcm.get b)) ∧
  -- An address that is no multiple of the size of the access raises misaligned with the address, for loads, stores and atomics of scalar
  -- registers (R224, R228, R344).
  (
    (∀ q ∈ ([(.ldI16, 2), (.ldUi16, 2), (.ldI32, 4), (.ldUi32, 4), (.ld64, 8), (.st16, 2), (.st32, 4), (.st64, 8)] :
        List ((XXImm → Instr) × Nat)), ∀ (o : XXImm) (s : State) (c : Nat) (k : Ctx), Issues s (q.1 o) c k →
        let ea := k.xr o.b + BitVec.ofInt 64 o.imm.toInt
        ea.toNat % q.2 ≠ 0 → exec (q.1 o) s = .next ((issued s (q.1 o) c).raise c { code := 0x05, badaddr := some ea })) ∧
    (∀ i ∈ ([.amoAdd, .amoAnd, .amoOr, .amoXor, .amoMin, .amoMax, .amoMinu, .amoMaxu, .amoSwap, .amoCas] : List (AmoArgs → Instr)),
      ∀ (o : AmoArgs) (s : State) (c : Nat) (k : Ctx), Issues s (i o) c k →
        let ea := k.xr o.b + BitVec.ofInt 64 o.imm.toInt
        ea.toNat % (if o.w64 then 8 else 4) ≠ 0 → exec (i o) s = .next ((issued s (i o) c).raise c { code := 0x05, badaddr := some ea }))) ∧
  -- A load from the scratchpad (R83, R85, R102, R164): where the check passes, the banks grant its words and no other agent's write of this
  -- activation lies unseen at the bytes, the bytes there; no memory changes. One whose banks refuse it waits and changes nothing but the banks
  -- and the refusal count; one of a poisoned line of a parcelled tile does not complete (R383).
  (
    ∀ (s s1 : State) (ag : Agent) (ea n off : Nat), (s.settleLoads ag ea n).check ag ea n .read = (.ok (.scratch off), s1) →
      (s1.scratchPoisoned ag off n = true → s.load ag ea n = .wait s1) ∧
      (s1.scratchPoisoned ag off n = false → (s1.enterBanks ag off n).1 = true →
        (∀ e ∈ s1.stale, e.act = ag.act → e.visible ag = false → ea + n ≤ e.va ∨ e.va + e.old.length ≤ ea) →
        ∃ t, s.load ag ea n = .ok (s.scratch.num (scratchKey ag.cluster off) n) none t ∧ t.scratch = s.scratch ∧ t.dram = s.dram ∧
          t.acts = s.acts ∧ t.parts = s.parts) ∧
      (s1.scratchPoisoned ag off n = false → (s1.enterBanks ag off n).1 = false →
        ∃ t, s.load ag ea n = .wait t ∧ t = { s1 with clusters := t.clusters, cores := t.cores })) ∧
  -- A store to the scratchpad (R83, R85, R164, R223): once the banks grant its words, the bytes stand there, every other byte of every
  -- scratchpad and all of DRAM and SRAM read as before.
  (
    ∀ (s s1 : State) (ag : Agent) (ea n off d : Nat), (s.settleLoads ag ea n).check ag ea n .write = (.ok (.scratch off), s1) →
      (s1.enterBanks ag off n).1 = true →
      ∃ t, s.store ag ea n d = .ok 0 none t ∧ t.dram = s.dram ∧ t.acts = s.acts ∧ t.ctxs = s1.ctxs ∧
        (s.scratch.wf = true → t.scratch.num (scratchKey ag.cluster off) n = d % 2 ^ (8 * n)) ∧
        ∀ b, b < scratchKey ag.cluster off ∨ scratchKey ag.cluster off + n ≤ b → t.scratch.get b = s.scratch.get b)

/-- Loads and stores in global memory, with the scaffold and with denial. -/
def Obligations.GlobalMemoryResults : Prop :=
  -- A load from global memory (R103, R107, R108, R164): each byte is the activation's own latest write, or what is committed there, and the
  -- line is in the read signature; of an atomic-class page what is committed there, with none of the context's own atomics to it in the mesh,
  -- and no signature is set. No memory changes.
  (
    ∀ (s s1 : State) (ag : Agent) (ea n va pa : Nat) (l : Leaf) (a : Act),
      (s.settleLoads ag ea n).check ag ea n .read = (.ok (.glob va pa l), s1) → s1.acts.find? ag.act = some a → a.denied l.label = false →
      (l.atomic = false → s1.lockedLine ag.act (a.linePa ea pa) = false → s1.poison.contains (a.linePa ea pa / 64) = false →
        (∀ e ∈ s1.stale, e.act = ag.act → e.visible ag = false → ea + n ≤ e.va ∨ e.va + e.old.length ≤ ea) →
        ∃ t, s.load ag ea n = .ok (numOf ((List.range n).map fun i => (a.ownByte (ea + i)).getD (s.dram.get (a.linePa ea pa + i)))) none t ∧
          t.dram = s.dram ∧ t.scratch = s.scratch ∧ t.acts.find? ag.act = some { a with rsig := sigSet a.rsig ea }) ∧
      (l.atomic = true → s1.lockedLine ag.act pa = false → s1.poison.contains (pa / 64) = false →
        (∀ q ∈ s1.transit, q.ownOf ag.act ag.member pa n = false) →
        ∃ t, s.load ag ea n = .ok (s.dram.num pa n) none t ∧ t.dram = s.dram ∧ t.scratch = s.scratch ∧ t.acts.find? ag.act = some a)) ∧
  -- A denied element reads as zero and the signature is set as for any read; nothing traps (R94).
  (
    ∀ (s s1 : State) (ag : Agent) (ea n va pa : Nat) (l : Leaf) (a : Act),
      (s.settleLoads ag ea n).check ag ea n .read = (.ok (.glob va pa l), s1) → s1.acts.find? ag.act = some a →
      l.label ≠ 0 → a.labels.contains l.label = false →
      (l.atomic = false → s1.lockedLine ag.act (a.linePa ea pa) = false → s1.poison.contains (a.linePa ea pa / 64) = false →
        ∃ t, s.load ag ea n = .ok 0 (some l.label) t ∧ t.dram = s.dram ∧ t.acts.find? ag.act = some { a with rsig := sigSet a.rsig ea }) ∧
      (l.atomic = true → s1.lockedLine ag.act pa = false → s1.poison.contains (pa / 64) = false →
        (∀ q ∈ s1.transit, q.ownOf ag.act ag.member pa n = false) →
        ∃ t, s.load ag ea n = .ok 0 (some l.label) t ∧ t.dram = s.dram ∧ t.acts.find? ag.act = some a)) ∧
  -- A store to global memory enters the scaffold (R106, R108, R164): with a line entry of its line, or a free entry and fewer than 31 others
  -- in the page, the bytes are the activation's own, the line is in the write signature, and committed memory is unchanged.
  (
    ∀ (s s1 : State) (ag : Agent) (ea n d va pa : Nat) (l : Leaf) (a : Act), 0 < n → ea % 64 + n ≤ 64 →
      (s.settleLoads ag ea n).check ag ea n .write = (.ok (.glob va pa l), s1) → s1.acts.find? ag.act = some a →
      s1.lockedLine ag.act (a.linePa ea pa) = false → a.pages.find? (ea / 65536) = none →
      ((a.lines.find? (ea / 64)).isSome = true ∨
        (s1.lineTrigger a = none ∧ (a.lines.filter fun e => e.1 / 1024 == ea / 65536).length < 31)) →
      ∃ t b, s.store ag ea n d = .ok 0 none t ∧ t.dram = s.dram ∧ t.scratch = s.scratch ∧ t.acts.find? ag.act = some b ∧
        b.wsig = sigSet a.wsig ea ∧ b.rsig = a.rsig ∧
        (∀ i, i < n → b.ownByte (ea + i) = some (BitVec.ofNat 8 (d / 2 ^ (8 * i)))) ∧
        (∀ x, x < ea ∨ ea + n ≤ x → b.ownByte x = a.ownByte x))

/-- Checks of an access, conflict signatures, the page walk. -/
def Obligations.AccessChecksAndTranslation : Prop :=
  -- The order and the causes of the checks every access makes (R79, R81, R85, R88, R372): the windows, a parcel tile given away, the
  -- translation, the owner, the attributes; an atomic is checked as a write alone, not as a read (log 82).
  (
    ∀ (s : State) (ag : Agent) (va n : Nat) (acc : Acc) (a : Act), s.acts.find? ag.act = some a →
      let win := va / 2 ^ 56
      let off := va % 2 ^ 56
      let r := (s.check ag va n acc).1
      (win ≠ 0xFE → win ≠ 0xFD → win ≠ 0 → r = .bad 0x0D .fail none) ∧
      (win = 0xFE → (ag.ctx.isSome = true ∧ off ≤ 0x13FF → r = .ok (.tcm off)) ∧
        (¬ (ag.ctx.isSome = true ∧ off ≤ 0x13FF) → r = .bad 0x0D .fail none)) ∧
      (win = 0xFD → 0x3FFFFF < off → r = .bad 0x0D .fail none) ∧
      (win = 0 → 2 ^ 52 ≤ off → r = .bad 0x0D .fail none) ∧
      ((win = 0xFD ∧ off ≤ 0x3FFFFF) ∨ (win = 0 ∧ off < 2 ^ 52) → (∃ t ∈ a.gave, tileTouches t va n = true) → r = .bad 0x31 .fail none) ∧
      ((∀ t ∈ a.gave, tileTouches t va n = false) →
        (win = 0xFD → off ≤ 0x3FFFFF → (s.scratchOk ag a off n = true → r = .ok (.scratch off)) ∧
          (s.scratchOk ag a off n = false → r = .bad 0x06 .fail none)) ∧
        (win = 0 → off < 2 ^ 52 →
          ((s.translate ag.cluster a.p va).1 = .absent → ∃ u, r = .bad 0x06 u none) ∧
          (∀ lv e x, (s.translate ag.cluster a.p va).1 = .error lv e x → r = .bad 0x06 .fail (some (lv, e, x))) ∧
          (∀ l, (s.translate ag.cluster a.p va).1 = .leaf l →
            let pa := l.addr + va % l.size
            (s.owns a l pa = false → r = .bad 0x06 .fail none) ∧
            (s.owns a l pa = true →
              (acc = .read → r = if l.r then .ok (.glob va pa l) else .bad 0x06 .fail none) ∧
              (acc ≠ .read → l.cow = true → ∃ u, r = .bad 0x07 u none) ∧
              (acc = .write → l.cow = false → r = if l.w && !l.atomic then .ok (.glob va pa l) else .bad 0x07 .fail none) ∧
              (acc = .amo → l.cow = false → r = if l.w || l.atomic then .ok (.glob va pa l) else .bad 0x07 .fail none)))))) ∧
  -- A signature that two accesses share a line in always meets (R108): no conflict is ever missed.
  (
    ∀ (r w : BitVec 1024) (x y : Nat), x / 64 = y / 64 → sigMeets (sigSet r x) (sigSet w y) = true ∧
      (∀ z, sigMeets r w = true → sigMeets (sigSet r z) w = true ∧ sigMeets r (sigSet w z) = true)) ∧
  -- The walk of a page table (R89, R90): four levels of 8,192, 512, 512 and 32 entries of 16 bytes, indexed by the address bits [51:39],
  -- [38:30], [29:21] and [20:16]; an entry that is not valid maps nothing, a leaf maps its page of 1 GiB, 2 MiB or 64 KiB at bits [47:9] of
  -- its first word with the attributes of its words, and any other entry names the next table. A leaf found is aligned to its size and backed
  -- by storage; a leaf at level 3 is a table error of code 1 (R373; among several errors the least code, log 14).
  (
    ∀ (m : Mem) (table va : Nat),
      (∀ l, walkFrom m table va 3 = .leaf l →
        (l.size = 0x10000 ∨ l.size = 0x200000 ∨ l.size = 0x40000000) ∧ l.addr % l.size = 0 ∧ hasStorage l.addr l.size = true ∧
          ¬ (l.cow = true ∧ l.w = true) ∧ ¬ (l.atomic = true ∧ l.w = true)) ∧
      (∀ q ∈ ([(0, 16, 32, 0x10000), (1, 21, 512, 0x200000), (2, 30, 512, 0x40000000), (3, 39, 8192, 0)] : List (Nat × Nat × Nat × Nat)),
        let e := table + 16 * (va / 2 ^ q.2.1 % q.2.2.1)
        let d0 := m.word e
        let d1 := m.word (e + 8)
        let addr := bits d0 9 39 * 512
        (d0.getLsbD 0 = false → walkFrom m table va q.1 = .absent) ∧
        (d0.getLsbD 0 = true → d0.getLsbD 3 = true → q.1 = 3 → walkFrom m table va 3 = .error 3 1 e) ∧
        (d0.getLsbD 0 = true → d0.getLsbD 3 = false → q.1 = 0 → walkFrom m table va 0 = .error 0 1 e) ∧
        (d0.getLsbD 0 = true → bits d0 48 16 = 0 → d0.getLsbD 1 = false → bits d1 32 32 = 0 →
          (d0.getLsbD 3 = true → q.1 < 3 → addr % q.2.2.2 = 0 → hasStorage addr q.2.2.2 = true →
            (d0.getLsbD 8 = true → d0.getLsbD 7 = false ∧ d0.getLsbD 5 = false ∧ q.1 < 2 ∧ addr < 0x0A000000) →
            ¬ (d0.getLsbD 7 = true ∧ d0.getLsbD 5 = true) →
            walkFrom m table va q.1 = .leaf { size := q.2.2.2, addr := addr, atomic := d0.getLsbD 8, cow := d0.getLsbD 7, x := d0.getLsbD 6
                                              w := d0.getLsbD 5, r := d0.getLsbD 4, cmn := d0.getLsbD 2, owner := d1.extractLsb' 16 16
                                              label := d1.extractLsb' 0 16, entry := e }) ∧
          (d0.getLsbD 3 = false → 0 < q.1 → addr % (if q.1 = 1 then 512 else 8192) = 0 → bits d0 4 5 = 0 → d0.getLsbD 2 = false → d1 = 0 →
            walkFrom m table va q.1 = walkFrom m addr va (q.1 - 1)))))

/-- Atomics on TCM (R227 to R229): one step gives the old value, zero-extended, and writes the new one, `cas` only where the old value is the
expected one; with x0 there is no result; no other byte of TCM changes. -/
def Obligations.AtomicResults : Prop :=
  (∀ q ∈ amoTable, ∀ (o : AmoArgs) (s : State) (c : Nat) (k : Ctx) (a : Act), Issues s (q.1 o) c k → s.acts.find? k.act = some a →
    let ea := k.xr o.b + BitVec.ofInt 64 o.imm.toInt
    let n := if o.w64 then 8 else 4
    let off := ea.toNat % 2 ^ 56
    let old := k.tcm.num off n
    InTcm ea n → ∃ t k', exec (q.1 o) s = .next t ∧ t.ctxs.find? c = some k' ∧ k'.pc = k.nextPc ∧ k'.slot = none ∧ k'.x = k.x ∧ k'.v = k.v ∧
      k'.m = k.m ∧ k'.p = k.p ∧ k'.fflags = k.fflags ∧
      k'.tcm = (match q.2 (8 * n) old ((k.xr o.c).toNat % 2 ^ (8 * n)) ((k.xr o.a).toNat % 2 ^ (8 * n)) with
        | some v => k.tcm.setNum off n v
        | none => k.tcm) ∧
      (o.a ≠ 0 → k'.full (.x o.a) = false ∧ ∃ r ∈ k'.vres, r.ws = [.x o.a (BitVec.ofNat 64 old)]) ∧
      t.scratch = s.scratch ∧ t.acts = s.acts ∧ (o.ord.getLsbD 1 = false → t.dram = s.dram)) ∧
  (∀ (o : AmoFArgs) (s : State) (c : Nat) (k : Ctx) (a : Act), Issues s (.amoFaddF32 o) c k → s.acts.find? k.act = some a →
    let ea := k.xr o.b + BitVec.ofInt 64 o.imm.toInt
    let off := ea.toNat % 2 ^ 56
    let old := k.tcm.num off 4
    InTcm ea 4 → ∃ t k', exec (.amoFaddF32 o) s = .next t ∧ t.ctxs.find? c = some k' ∧ k'.pc = k.nextPc ∧ k'.slot = none ∧ k'.x = k.x ∧
      k'.fflags = k.fflags ∧ k'.tcm = k.tcm.setNum off 4 (fadd (BitVec.ofNat 32 old) ((k.xr o.c).setWidth 32)).1.toNat ∧
      (o.a ≠ 0 → k'.full (.x o.a) = false ∧ ∃ r ∈ k'.vres, r.ws = [.x o.a (BitVec.ofNat 64 old)]) ∧
      t.scratch = s.scratch ∧ t.acts = s.acts ∧ (o.ord.getLsbD 1 = false → t.dram = s.dram))

/-- Acquire, release, fences and prefetch. -/
def Obligations.AcquireReleaseAndFences : Prop :=
  -- `ld.acq` and `st.rel` on TCM (R226): the value as of a load of the width, zero-extended, and a hold on later accesses until it has been
  -- read; the store as of a store of the width, with the context's earlier atomics out of the mesh at device scope, and ordered before a
  -- release in force there at gang scope.
  (
    (∀ (o : AcqOp) (s : State) (c : Nat) (k : Ctx) (a : Act), Issues s (.ldAcq o) c k → s.acts.find? k.act = some a →
      let ea := k.xr o.b + BitVec.ofInt 64 o.imm.toInt
      let n := if o.w64 then 8 else 4
      InTcm ea n → ∃ t k' r, exec (.ldAcq o) s = .next t ∧ t.ctxs.find? c = some k' ∧ k'.pc = k.nextPc ∧ k'.slot = none ∧
        (∃ vs, k'.vres = vs ++ [r] ∧ SameResults k.vres vs) ∧
        r.ws = [.x o.a (BitVec.ofNat 64 (k.tcm.num (ea.toNat % 2 ^ 56) n))] ∧ k'.acqHold = r.serial :: k.acqHold ∧
        k'.full (.x o.a) = (o.a == 0 && k.full (.x 0)) ∧ k'.tcm = k.tcm ∧ t.dram = s.dram ∧ t.scratch = s.scratch ∧ t.acts = s.acts) ∧
    (∀ (o : AcqOp) (s : State) (c : Nat) (k : Ctx) (a : Act), Issues s (.stRel o) c k → s.acts.find? k.act = some a →
      let ea := k.xr o.b + BitVec.ofInt 64 o.imm.toInt
      let n := if o.w64 then 8 else 4
      InTcm ea n → ∃ t k', exec (.stRel o) s = .next t ∧ t.ctxs.find? c = some k' ∧ k'.pc = k.nextPc ∧ k'.slot = none ∧ k'.x = k.x ∧
        k'.tcm = k.tcm.setNum (ea.toNat % 2 ^ 56) n (k.xr o.a).toNat ∧ t.scratch = s.scratch ∧ t.acts = s.acts ∧
        (o.dev = true → ∀ u ∈ t.transit, (k.act, k.member) ∉ u.issuers) ∧
        ∃ r ∈ t.releases, r.act = k.act ∧ r.va = ea.toNat ∧ r.size = n ∧ ∀ u ∈ t.transit, (k.act, k.member) ∈ u.issuers → r.tok ∈ u.toks)) ∧
  -- Fences and `pref` (R115, R117, R119, R225, R231): the context moves on; after a fence of its thread, gang or device its later accesses
  -- wait for the values of its earlier loads and for its atomics in the mesh, after `fence.thr` its reads of sr.cycle too; a gang or device
  -- fence acquires what its earlier loads heard and shows the member's writes to its whole gang, and an atomic of its in the mesh that returns
  -- a value will acquire; `fence.xd` shows the writes the member has performed or seen to the engines; `pref` does nothing else.
  (
    (∀ (o : NoneOp) (s : State) (c : Nat) (k : Ctx), Issues s (.fenceThr o) c k →
      exec (.fenceThr o) s = .next ((issued s (.fenceThr o) c).modCtx c fun x => { x with
        pc := k.nextPc, slot := none
        fenceHold := (issued s (.fenceThr o) c).accessesOut k ++ x.fenceHold
        cycleHold := (issued s (.fenceThr o) c).accessesOut k ++ x.cycleHold })) ∧
    (∀ i ∈ ([.fenceGang, .fenceDev] : List (NoneOp → Instr)), ∀ (o : NoneOp) (s : State) (c : Nat) (k : Ctx), Issues s (i o) c k →
      ∃ t k' tok, exec (i o) s = .next t ∧ t.ctxs.find? c = some k' ∧ k'.pc = k.nextPc ∧ k'.slot = none ∧ k'.heard = [] ∧
        k'.fenceTok = some tok ∧ k'.x = k.x ∧ t.acts = s.acts ∧
        (∀ n ∈ k.loadsOut ++ t.inMesh k, n ∈ k'.fenceHold) ∧
        (∀ u ∈ t.transit, ∀ va, u.reader = some (k.act, k.member, va) → (k.act, k.member, va) ∈ u.acqs) ∧
        (k.heard = [] → k'.fenceHold = k.loadsOut ++ s.inMesh k ++ k.fenceHold ∧ t.dram = s.dram) ∧
        ∀ e ∈ t.stale, e.act = k.act → e.seen.contains k.member = true → tok ∈ e.toks ∧ ∀ m, m < 16 → m ∈ e.seen) ∧
    (∀ (o : NoneOp) (s : State) (c : Nat) (k : Ctx), Issues s (.fenceXd o) c k →
      ∃ t k', exec (.fenceXd o) s = .next t ∧ t.ctxs.find? c = some k' ∧ k'.pc = k.nextPc ∧ k'.slot = none ∧ t.dram = s.dram ∧
        ∀ e ∈ t.stale, e.act = k.act → e.seen.contains k.member = true → e.pub = true) ∧
    (∀ (o : PrefOp) (s : State) (c : Nat) (k : Ctx), Issues s (.pref o) c k →
      exec (.pref o) s = .next ((issued s (.pref o) c).modCtx c fun x => { x with pc := k.nextPc, slot := none })))

/-- Vector loads and stores, strided, indexed and packed. -/
def Obligations.VectorMemoryResults : Prop :=
  -- The contiguous, strided and gathered vector loads from TCM (R215 to R218): lane by lane from sr.progress.vlane upward, an active lane its
  -- word, an inactive one old or zero, a lane below vlane old; vlane ends at 0.
  (
    (∀ (o : VMemOp) (s : State) (c : Nat) (k : Ctx) (a : Act), Issues s (.vld o) c k → s.acts.find? k.act = some a →
      let ea := fun j => k.xr o.b + BitVec.ofInt 64 o.d.toInt + BitVec.ofNat 64 (4 * j)
      (∀ j, j < 16 → k.active o.k j = true → InTcm (ea j) 4) → VectorLoads s (.vld o) c k o.a o.k ea) ∧
    (∀ (o : VStrOp) (s : State) (c : Nat) (k : Ctx) (a : Act), Issues s (.vlds o) c k → s.acts.find? k.act = some a →
      let ea := fun j => k.xr o.b + BitVec.ofInt 64 o.d.toInt + BitVec.ofNat 64 j * k.xr o.c
      (∀ j, j < 16 → k.active o.k j = true → InTcm (ea j) 4) → VectorLoads s (.vlds o) c k o.a o.k ea) ∧
    (∀ (o : VGsOp) (s : State) (c : Nat) (k : Ctx) (a : Act), Issues s (.vgather o) c k → s.acts.find? k.act = some a →
      let ea := fun j => k.xr o.b + BitVec.ofNat 64 ((laneOf (k.vr o.c) j).toNat * 2 ^ o.scale.toNat)
      (∀ j, j < 16 → k.active o.k j = true → InTcm (ea j) 4) → VectorLoads s (.vgather o) c k o.a o.k ea)) ∧
  -- The contiguous, strided and scattered vector stores to TCM (R215 to R218): the active lanes from sr.progress.vlane upward in ascending
  -- order, so a later lane's word remains; no other memory changes; vlane ends at 0.
  (
    (∀ (o : VMemOp) (s : State) (c : Nat) (k : Ctx) (a : Act), Issues s (.vst o) c k → s.acts.find? k.act = some a →
      let ea := fun j => k.xr o.b + BitVec.ofInt 64 o.d.toInt + BitVec.ofNat 64 (4 * j)
      (∀ j, j < 16 → k.active o.k j = true → InTcm (ea j) 4) → VectorStores s (.vst o) c k o.a o.k ea) ∧
    (∀ (o : VStrOp) (s : State) (c : Nat) (k : Ctx) (a : Act), Issues s (.vsts o) c k → s.acts.find? k.act = some a →
      let ea := fun j => k.xr o.b + BitVec.ofInt 64 o.d.toInt + BitVec.ofNat 64 j * k.xr o.c
      (∀ j, j < 16 → k.active o.k j = true → InTcm (ea j) 4) → VectorStores s (.vsts o) c k o.a o.k ea) ∧
    (∀ (o : VGsOp) (s : State) (c : Nat) (k : Ctx) (a : Act), Issues s (.vscatter o) c k → s.acts.find? k.act = some a →
      let ea := fun j => k.xr o.b + BitVec.ofNat 64 ((laneOf (k.vr o.c) j).toNat * 2 ^ o.scale.toNat)
      (∀ j, j < 16 → k.active o.k j = true → InTcm (ea j) 4) → VectorStores s (.vscatter o) c k o.a o.k ea)) ∧
  -- The packed forms on TCM, from lane 0 (R219): each byte of an unpacked lane is its element, sign-extended or not; each packed element is
  -- the byte's low bits, or its clamped value, and the bytes of inactive lanes are not written.
  (
    (∀ q ∈ ([(.vldUnpTf6, 3, 6, true), (.vldUnpI4, 2, 4, true), (.vldUnpUi4, 2, 4, false)] : List ((VMemOp → Instr) × Nat × Nat × Bool)),
      ∀ (o : VMemOp) (s : State) (c : Nat) (k : Ctx) (a : Act), Issues s (q.1 o) c k → s.acts.find? k.act = some a → k.vlane = 0 →
      k.denials = none →
      let base := (k.xr o.b + BitVec.ofInt 64 o.d.toInt).toNat
      let off := base % 2 ^ 56
      base % 16 = 0 → base / 2 ^ 56 = 0xFE → off + 16 * q.2.1 ≤ 0x1400 →
      ∃ t k' r w, exec (q.1 o) s = .next t ∧ t.ctxs.find? c = some k' ∧ k'.pc = k.nextPc ∧ k'.slot = none ∧ k'.vlane = 0 ∧
        (∃ vs, k'.vres = vs ++ [r] ∧ SameResults k.vres vs) ∧ r.ws = [.v o.a w] ∧ t.dram = s.dram ∧ t.scratch = s.scratch ∧ k'.tcm = k.tcm ∧
        ∀ j, j < 16 → (k.active o.k j = false → laneOf w j = inactive o.k (laneOf (k.vr o.a) j)) ∧
          (k.active o.k j = true → ∀ i, i < 4 →
            let e := k.tcm.num (off + q.2.1 * j) q.2.1 / 2 ^ (q.2.2.1 * i) % 2 ^ q.2.2.1
            elemOf w 8 (4 * j + i) = if q.2.2.2 && 2 ^ (q.2.2.1 - 1) ≤ e then e + 256 - 2 ^ q.2.2.1 else e)) ∧
    (∀ q ∈ ([(.vstPkTf6, 3, 6, fun b => b % 64), (.vstPkI4, 2, 4, fun b => if b < 128 then min b 7 else max b 248 - 240),
        (.vstPkUi4, 2, 4, fun b => min b 15)] : List ((VMemOp → Instr) × Nat × Nat × (Nat → Nat))),
      ∀ (o : VMemOp) (s : State) (c : Nat) (k : Ctx) (a : Act), Issues s (q.1 o) c k → s.acts.find? k.act = some a → k.vlane = 0 →
      k.tcm.wf = true →
      let base := (k.xr o.b + BitVec.ofInt 64 o.d.toInt).toNat
      let off := base % 2 ^ 56
      base % 16 = 0 → base / 2 ^ 56 = 0xFE → off + 16 * q.2.1 ≤ 0x1400 →
      ∃ t k', exec (q.1 o) s = .next t ∧ t.ctxs.find? c = some k' ∧ k'.pc = k.nextPc ∧ k'.slot = none ∧ k'.vlane = 0 ∧
        t.dram = s.dram ∧ t.scratch = s.scratch ∧ t.acts = s.acts ∧
        (∀ j, j < 16 → k.active o.k j = true → ∀ i, i < 4 →
          k'.tcm.num (off + q.2.1 * j) q.2.1 / 2 ^ (q.2.2.1 * i) % 2 ^ q.2.2.1 = q.2.2.2 (elemOf (k.vr o.a) 8 (4 * j + i))) ∧
        ∀ b, (∀ j, j < 16 → k.active o.k j = true → b < off + q.2.1 * j ∨ off + q.2.1 * (j + 1) ≤ b) → k'.tcm.get b = k.tcm.get b))

/-- Variable-latency results empty their register and fill it when performed; callx; values read when performed. -/
def Obligations.VariableResultsArrive : Prop :=
  -- What waiting for a variable-latency result is: the destination is empty, x0 excepted, and one pending result holds the writes; no other
  -- context changes (R153).
  (
    ∀ (s : State) (c : Nat) (kind : VKind) (r : BitVec 6) (v : Word) (k : Ctx), s.ctxs.find? c = some k →
      ∃ k' n d, (s.fill c kind [.x r v]).ctxs.find? c = some k' ∧
        k' = { k with fullX := k'.fullX, vres := k.vres ++ [{ serial := n, due := some d, kind := kind, ws := [.x r v], rd := none }] } ∧
        s.clock < d ∧ k'.full (.x r) = (r == 0 && k.full (.x 0)) ∧ (∀ q, q ≠ r → k'.full (.x q) = k.full (.x q)) ∧
        (s.fill c kind [.x r v]) = { s with
          ctxs := (s.fill c kind [.x r v]).ctxs, free := s.free + 1, serial := (s.fill c kind [.x r v]).serial } ∧
        ∀ e, e ≠ c → (s.fill c kind [.x r v]).ctxs.find? e = s.ctxs.find? e) ∧
  -- `callx` from TCM (R187): the entry at B plus eight times the immediate is read; when its read comes the link is written and the transfer
  -- made, slot and all; until then the context waits, and after that for the room of its denial record if it still lacks it (R351).
  (
    (∀ (o : XXImm) (s : State) (c : Nat) (k : Ctx) (a : Act), Issues s (.callx o) c k → s.acts.find? k.act = some a →
      let ea := k.xr o.b + BitVec.ofNat 64 (8 * o.imm.toNat)
      InTcm ea 8 → exec (.callx o) s = .next ((((issued s (.callx o) c).settleLoads (agentOf c k) ea.toNat 8).fill c
        (.callx o.a (BitVec.ofNat 64 (k.tcm.num (ea.toNat % 2 ^ 56) 8)) (k.pc + 24)) []).modCtx c fun x => { x with pause := some .callx })) ∧
    (∀ (s : State) (c n : Nat) (k : Ctx) (r : VRes) (link : BitVec 6) (target ret : Word), s.ctxs.find? c = some k →
      k.vres.find? (fun q => q.serial == n) = some r → r.rd = none → r.ws = [] → r.kind = .callx link target ret →
      ∃ t k', exec (.variableResultWrite c n) s = .next t ∧ t.ctxs.find? c = some k' ∧ k'.pc = k.pc + 12 ∧ k'.slot = some target ∧
        k'.x = (k.put (.x link ret)).x ∧ k'.fullX = (k.put (.x link ret)).fullX ∧ k'.pause = (if k.pause = some .callxRecord then some .record else none) ∧
        (r.again = [] → t.acts = s.acts))) ∧
  -- A variable-latency result comes (R128, R153, R162, R226, R231): its writes and flags take effect, its register is full, the result is
  -- gone, nothing waits on it any more; the PC and the other registers stay, and so do all of memory and every activation where no part of a
  -- load is performed as late as this (R104; log 5): such a part gives the same register another value alone. One that is gone already does
  -- nothing.
  (
    (∀ (s : State) (c n : Nat) (k : Ctx) (r : VRes), s.ctxs.find? c = some k → k.vres.find? (fun q => q.serial == n) = some r →
      (∀ a b d, r.kind ≠ .callx a b d) →
      ∃ t k' ws, exec (.variableResultWrite c n) s = .next t ∧ t.ctxs.find? c = some k' ∧
        (∀ d q, r.rd = some (d, q) → ws = [RegWrite.x d (s.probe k q)]) ∧
        (r.rd = none → (r.again = [] → ws = r.ws) ∧ ws.length = r.ws.length ∧
          ∀ (i : Nat) (w : RegWrite), r.ws[i]? = some w → ∃ w' : RegWrite, ws[i]? = some w' ∧ (∀ g, w'.toX g = w.toX g) ∧ (∀ g, w'.toV g = w.toV g) ∧
            (r.again ≠ [] ∨ w' = w)) ∧
        (r.rd.isSome = true ∨ r.again = [] → t = { s with ctxs := t.ctxs }) ∧
        k' = { k.puts ws with
          vres := k'.vres, acqHold := k'.acqHold, fenceHold := k'.fenceHold, cycleHold := k'.cycleHold, heard := k'.heard } ∧
        (∀ q ∈ k'.vres, q.serial ≠ n) ∧ n ∉ k'.acqHold ∧ n ∉ k'.fenceHold ∧ n ∉ k'.cycleHold) ∧
    (∀ (s : State) (c n : Nat), (∀ k, s.ctxs.find? c = some k → k.vres.find? (fun q => q.serial == n) = none) →
      exec (.variableResultWrite c n) s = .next s)) ∧
  -- What a value read when its result comes is (R233, R236, R254): sr.tags, sr.tagerr and sr.progress of the member, the least tag of a mask
  -- that is set or 64, done and error of a tag, the members of a barrier that have not arrived.
  (
    ∀ (s : State) (k : Ctx) (a : Act) (m : Member), s.acts.find? k.act = some a → a.members[k.member]? = some m →
      s.probe k (.sr .tags) = m.tags ∧ s.probe k (.sr .tagerr) = m.tagerr ∧
      (s.probe k (.sr .progress)).toNat = k.vlane % 32 + 2 ^ 16 * k.ustep.toNat + 2 ^ 32 * k.mxstep.toNat ∧
      (∀ t, t < 64 → (s.probe k (.test t)).toNat = (if m.tags.getLsbD t then 1 else 0) + (if m.tagerr.getLsbD t then 2 else 0)) ∧
      (∀ mask, (s.probe k (.first mask)).toNat ≤ 64 ∧
        (∀ i, i < (s.probe k (.first mask)).toNat → (m.tags &&& mask).getLsbD i = false) ∧
        ((s.probe k (.first mask)).toNat < 64 → (m.tags &&& mask).getLsbD (s.probe k (.first mask)).toNat = true)) ∧
      (∀ n i, i < 16 → (s.probe k (.missing n)).getLsbD i =
        ((s.barrier k.act n).members.getLsbD i && !(s.barrier k.act n).arrived.getLsbD i)))

/-! ## Barriers, tags, engines -/

/-- Barrier instructions and the completion of a phase. -/
def Obligations.BarriersAndPhases : Prop :=
  -- The six barrier instructions (R232, R233): what each does to the context and, through the shared operations, to the barrier.
  (
    (∀ (o : BarOp) (s : State) (c : Nat) (k : Ctx), Issues s (.barArrive o) c k →
      exec (.barArrive o) s = .next (((issued s (.barArrive o) c).barArrive k.act o.n.toNat k.member).advance c)) ∧
    (∀ (o : BarOp) (s : State) (c : Nat) (k : Ctx), Issues s (.barWait o) c k →
      exec (.barWait o) s = .next ((issued s (.barWait o) c).barWait c k o.n)) ∧
    (∀ (o : BarOp) (s : State) (c : Nat) (k : Ctx), Issues s (.barSync o) c k →
      exec (.barSync o) s = .next (((issued s (.barSync o) c).barArrive k.act o.n.toNat k.member).barWait c k o.n)) ∧
    (∀ (o : BarOp) (s : State) (c : Nat) (k : Ctx), Issues s (.barLeave o) c k →
      exec (.barLeave o) s = .next (((issued s (.barLeave o) c).barLeave k.act o.n.toNat k.member).advance c)) ∧
    (∀ (o : BarOp) (s : State) (c : Nat) (k : Ctx) (a : Act), Issues s (.barJoin o) c k → s.acts.find? k.act = some a → k.member < 16 →
      ∃ t k', exec (.barJoin o) s = .next t ∧ t.ctxs.find? c = some k' ∧ k'.pc = k.nextPc ∧ k'.slot = none ∧ k'.x = k.x ∧
        (t.barrier k.act o.n.toNat).members = setBit (s.barrier k.act o.n.toNat).members k.member true) ∧
    (∀ (o : BarXOp) (s : State) (c : Nat) (k : Ctx), Issues s (.barMissing o) c k →
      exec (.barMissing o) s = .next (((issued s (.barMissing o) c).later c .state [] (some (o.a, .missing o.n.toNat))).1.advance c))) ∧
  -- What arriving, leaving and waiting do (R116, R232, R233): the last arrival completes the phase, clears the arrivals and advances the phase
  -- number in the same step; before it the member is marked; one that is not a member does nothing; a wait with nothing pending goes on, one
  -- with a phase pending waits for that phase.
  (
    (∀ (s : State) (a n m : Nat) (k : Act), s.acts.find? a = some k → m < 16 → (s.barrier a n).members.getLsbD m = true →
      let b := s.barrier a n
      let b' := (s.barArrive a n m).barrier a n
      b'.members = b.members ∧
      ((∀ i, i < 16 → b.members.getLsbD i = true → i ≠ m → b.arrived.getLsbD i = true) → b'.arrived = 0 ∧ b'.phase = b.phase + 1) ∧
      ((∃ i, i < 16 ∧ b.members.getLsbD i = true ∧ i ≠ m ∧ b.arrived.getLsbD i = false) →
        b'.arrived = setBit b.arrived m true ∧ b'.phase = b.phase ∧ b'.pending.find? m = some b.phase)) ∧
    (∀ (s : State) (a n m : Nat), (s.barrier a n).members.getLsbD m = false → s.barArrive a n m = s) ∧
    (∀ (s : State) (a n m : Nat) (k : Act), s.acts.find? a = some k → m < 16 →
      ((s.barLeave a n m).barrier a n).members = setBit (s.barrier a n).members m false ∧
      ((s.barLeave a n m).barrier a n).arrived.getLsbD m = false) ∧
    (∀ (s : State) (c : Nat) (k : Ctx) (n : BitVec 3) (ph : Nat), (s.barrier k.act n.toNat).pending.find? k.member = some ph →
      s.barWait c k n = s.modCtx c fun x => { x with wait := some (.bar n ph) }) ∧
    (∀ (s : State) (c : Nat) (k x : Ctx) (n : BitVec 3), (s.barrier k.act n.toNat).pending.find? k.member = none →
      s.ctxs.find? c = some x →
        ∃ y, (s.barWait c k n).ctxs.find? c = some y ∧ (s.barWait c k n).acts = s.acts ∧
          y = { x with
              pc := x.nextPc, slot := none, acqHold := y.acqHold, fenceHold := y.fenceHold, cycleHold := y.cycleHold
              vres := y.vres, heard := y.heard } ∧
          ((s.barrier k.act n.toNat).last.find? k.member = none → y = { x with pc := x.nextPc, slot := none }))) ∧
  -- How a wait for a barrier ends (R116, R232, R255): the arrival that completes a phase lets every member go on that waits in a context for
  -- that phase, or is parked: the instruction after its wait is next, and its scalar registers are as before.
  (
    ∀ (s : State) (a n m j c : Nat) (A : Act) (k : Ctx), s.acts.find? a = some A → s.ctxs.sorted = true → m < 16 → j < 16 →
      (s.barrier a n).members.getLsbD m = true →
      (∀ i, i < 16 → (s.barrier a n).members.getLsbD i = true → i ≠ m → (s.barrier a n).arrived.getLsbD i = true) →
      s.ctxs.filter (fun x => x.2.act == a && x.2.member == j) = [(c, k)] →
      (∃ q : BitVec 3, q.toNat = n ∧ k.wait = some (.bar q (s.barrier a n).phase)) ∨ (∃ w, k.wait = some (.park w)) →
      ∃ k', (s.barArrive a n m).ctxs.find? c = some k' ∧ k'.wait = none ∧ k'.pc = k.nextPc ∧ k'.slot = none ∧ k'.x = k.x)

/-- Tag waits, reads and clears, completion of a tag, park and gaps. -/
def Obligations.TagsAndPark : Prop :=
  -- The tag waits (R118, R235, R236): with the condition met, the result and the next instruction at once; else the context waits with its
  -- result register empty.
  (
    ∀ q ∈ ([(.tagWaitAny, false, false), (.tagWaitAll, true, false), (.tagWaitAnyXd, false, true), (.tagWaitAllXd, true, true)] :
        List ((XX → Instr) × Bool × Bool)), ∀ (o : XX) (s : State) (c : Nat) (k : Ctx) (a : Act) (m : Member),
      Issues s (q.1 o) c k → s.acts.find? k.act = some a → a.members[k.member]? = some m →
      let mask := k.xr o.b
      let met := if q.2.1 then m.tags &&& mask = mask else mask = 0 ∨ m.tags &&& mask ≠ 0
      (met → ∃ t k', exec (q.1 o) s = .next t ∧ t.ctxs.find? c = some k' ∧ k'.pc = k.nextPc ∧ k'.slot = none ∧ k'.wait = none ∧
        k'.x = (k.put (.x o.a (m.tags &&& mask))).x ∧ k'.fullX = (k.put (.x o.a (m.tags &&& mask))).fullX ∧ t.acts = s.acts ∧
        (q.2.2 = true → ∀ e ∈ t.stale, e.act = k.act →
          (∃ u, e.engine = some (k.member, u) ∧ (m.tags &&& mask).getLsbD (u % 128) = true) → e.seen.contains k.member = true)) ∧
      (¬ met → exec (q.1 o) s = .next ((issued s (q.1 o) c).modCtx c fun x =>
        { x.emptyX o.a with wait := some (.tag q.2.1 q.2.2 mask o.a) }))) ∧
  -- `tag.first`, `tag.test`, `tag.clr` and `park` (R236, R255): the first two read the tags when their result comes; `tag.clr` clears both
  -- bits of the named tags that no command and no stream holds; `park` waits for a tag, a phase, or its count, 65,536 for 0.
  (
    (∀ (o : XX) (s : State) (c : Nat) (k : Ctx), Issues s (.tagFirst o) c k →
      exec (.tagFirst o) s = .next (((issued s (.tagFirst o) c).later c .state [] (some (o.a, .first (k.xr o.b)))).1.advance c)) ∧
    (∀ (o : XN6) (s : State) (c : Nat) (k : Ctx), Issues s (.tagTest o) c k →
      exec (.tagTest o) s = .next (((issued s (.tagTest o) c).later c .state [] (some (o.a, .test o.n.toNat))).1.advance c)) ∧
    (∀ (o : XOp) (s : State) (c : Nat) (k : Ctx) (a : Act) (m : Member), Issues s (.tagClr o) c k → s.acts.find? k.act = some a →
      a.members[k.member]? = some m →
      ∃ t k' b u, exec (.tagClr o) s = .next t ∧ t.ctxs.find? c = some k' ∧ k'.pc = k.nextPc ∧ k'.slot = none ∧ k'.x = k.x ∧
        t.acts.find? k.act = some b ∧ b.members[k.member]? = some u ∧ u = { m with tags := u.tags, tagerr := u.tagerr } ∧
        ∀ i, i < 64 → let gone := (k.xr o.a).getLsbD i && !m.held.getLsbD i && !m.subTag i
          u.tags.getLsbD i = (m.tags.getLsbD i && !gone) ∧ u.tagerr.getLsbD i = (m.tagerr.getLsbD i && !gone)) ∧
    (∀ (o : N16) (s : State) (c : Nat) (k : Ctx), Issues s (.park o) c k →
      exec (.park o) s = .next ((issued s (.park o) c).modCtx c fun x =>
        { x with wait := some (.park (if o.n = 0 then 65536 else o.n.toNat)) }))) ∧
  -- The end of a `park` and of a gap (R77, R255): a parked context goes on after its `park`, any other stays; the gap ends.
  (
    (∀ (s : State) (c n : Nat) (k : Ctx), s.ctxs.find? c = some k → k.wait = some (.park n) →
      ∃ t, exec (.parkTimeout c) s = .next t ∧ t = { s with ctxs := t.ctxs } ∧
        t.ctxs.find? c = some { k with pc := k.nextPc, slot := none, wait := none } ∧ ∀ d, d ≠ c → t.ctxs.find? d = s.ctxs.find? d) ∧
    (∀ (s : State) (c : Nat) (k : Ctx), s.ctxs.find? c = some k → (∀ n, k.wait ≠ some (.park n)) → exec (.parkTimeout c) s = .next s) ∧
    (∀ (s : State) (c : Nat) (k : Ctx), s.ctxs.find? c = some k →
      ∃ t, exec (.issueGapExpiry c) s = .next t ∧ t = { s with ctxs := t.ctxs } ∧ t.ctxs.find? c = some { k with gap := 0 } ∧
        ∀ d, d ≠ c → t.ctxs.find? d = s.ctxs.find? d)) ∧
  -- A command that ends sets its tag, with its error, and lets the tag go; the other tags stay (R235).
  (
    ∀ (s : State) (a m t : Nat) (err : Bool) (k : Act) (u : Member), s.acts.find? a = some k → k.members[m]? = some u → t < 64 →
      ∃ k' v, (s.setTag a m t err).acts.find? a = some k' ∧ k'.members[m]? = some v ∧ v.tags = setBit u.tags t true ∧
        v.tagerr = (if err then setBit u.tagerr t true else u.tagerr) ∧ v.held = setBit u.held t false ∧
        (∀ i, i ≠ m → k'.members[i]? = k.members[i]?) ∧ (s.setTag a m t err).dram = s.dram ∧ (s.setTag a m t err).scratch = s.scratch) ∧
  -- How a wait for tags ends (R118, R234, R236, R255): the completion of a command that makes the condition true writes the awaited tags that
  -- are set to the register of the wait, full again, and the next instruction follows; one that leaves the condition false changes no context;
  -- a parked member goes on at any tag.
  (
    ∀ (s : State) (a m t c : Nat) (err : Bool) (A : Act) (u : Member) (k : Ctx), s.acts.find? a = some A → A.members[m]? = some u → t < 64 →
      s.ctxs.find? c = some k → s.ctxs.filter (fun x => x.2.act == a && x.2.member == m) = [(c, k)] →
      let tags := setBit u.tags t true
      (∀ all xd mask dest, k.wait = some (.tag all xd mask dest) →
        let met := if all then tags &&& mask = mask else mask = 0 ∨ tags &&& mask ≠ 0
        (met → ∃ k', (s.setTag a m t err).ctxs.find? c = some k' ∧
          k' = { (k.put (.x dest (tags &&& mask))).advance with wait := none, samples := k'.samples, sampleWait := k'.sampleWait }) ∧
        (¬ met → (s.setTag a m t err).ctxs = s.ctxs)) ∧
      (∀ n, k.wait = some (.park n) → ∃ k', (s.setTag a m t err).ctxs.find? c = some k' ∧
        k' = { k with pc := k.nextPc, slot := none, wait := none, samples := k'.samples, sampleWait := k'.sampleWait }))

/-- Submission of copies, fills, decryptions and fabric commands; the capture of posted work. -/
def Obligations.CourierAndFabricSubmission : Prop :=
  -- `cp`, `cp.fill` (R235, R237): the tag is taken, both its bits clear; a command of length 0 is done at once; another stands at the end of
  -- the courier's queue and its event comes after a free time (log 4); registers and memory stay.
  (
    ∀ q ∈ ([(.cp, 0x7300, .copy), (.cpFill, 0x7301, .fill)] : List ((CpOp → Instr) × BitVec 16 × CpOpKind)),
      ∀ (o : CpOp) (s : State) (c : Nat) (k : Ctx) (a : Act) (m : Member), Issues s (q.1 o) c k → s.acts.find? k.act = some a →
        a.members[k.member]? = some m →
        (k.xr o.c = 0 → exec (q.1 o) s = .next
          ((((issued s (q.1 o) c).takeTag k.act k.member o.t.toNat).setTag k.act k.member o.t.toNat false).advance c)) ∧
        (k.xr o.c ≠ 0 → ∃ t k' b u n d, exec (q.1 o) s = .next t ∧ t.ctxs.find? c = some k' ∧ k'.pc = k.nextPc ∧ k'.slot = none ∧ k'.x = k.x ∧
          (t.cluster (clusterOf c)).courier = (s.cluster (clusterOf c)).courier ++ [{
            serial := n, act := k.act, member := k.member, ctx := c, cluster := clusterOf c, tag := o.t.toNat, fn := q.2.1, kind := q.2.2
            dst := k.xr o.a, src := k.xr o.b, len := (k.xr o.c).toNat }] ∧
          s.clock < d ∧ (d, .courierCommandComplete (clusterOf c) n) ∈ t.timers ∧
          t.acts.find? k.act = some b ∧ b.members[k.member]? = some u ∧ u.tags = setBit m.tags o.t.toNat false ∧
          u.tagerr = setBit m.tagerr o.t.toNat false ∧ u.held = setBit m.held o.t.toNat true ∧ t.dram = s.dram ∧ t.scratch = s.scratch)) ∧
  -- `cp.dec` (R239, R295, R296): a usable key whose owner is the actor's slot gives the command its key and nonce and its counter rises by
  -- one; a length above 2 MiB, a key that may not be used or a destination that R296 excludes, with a command otherwise well formed, fails the
  -- command and leaves the counter: its tag is set with the error, or while its record has no room the command stands with the courier (R351,
  -- R400).
  (
    ∀ (o : CpDecOp) (s : State) (c : Nat) (k : Ctx) (a : Act) (m : Member), Issues s (.cpDec o) c k → s.acts.find? k.act = some a →
      a.members[k.member]? = some m →
      let e := (s.part a.p).keys.get o.key.toNat {}
      let dst := (k.xr o.a).toNat
      let src := (k.xr o.b).toNat
      let len := (k.xr o.c).toNat
      let window := fun v : Nat => v / 2 ^ 56 = 0xFD ∨ v / 2 ^ 56 = 0
      m.subTag o.t.toNat = false → window dst → window src → dst % 4 = 0 → src % 4 = 0 → len % 4 = 0 → 0 < len →
      (len ≤ 2097152 → e.valid = true → e.exhausted = false → e.owner.toNat = a.slot →
        (issued s (.cpDec o) c).decExcluded a dst len = false →
        ∃ t n, exec (.cpDec o) s = .next t ∧
          (t.part a.p).keys.get o.key.toNat {} = { e with counter := e.counter + 1, exhausted := e.counter == BitVec.allOnes 96 } ∧
          (t.cluster (clusterOf c)).courier = (s.cluster (clusterOf c)).courier ++ [{
            serial := n, act := k.act, member := k.member, ctx := c, cluster := clusterOf c, tag := o.t.toNat, fn := 0x7300
            kind := .dec o.key e.key e.counter, dst := k.xr o.a, src := k.xr o.b, len := len }]) ∧
      (len < 2 ^ 32 →
        (2097152 < len ∨ e.valid = false ∨ e.exhausted = true ∨ e.owner.toNat ≠ a.slot ∨ (issued s (.cpDec o) c).decExcluded a dst len = true) →
        ∃ t b u, exec (.cpDec o) s = .next t ∧ (t.part a.p).keys = (s.part a.p).keys ∧
          t.acts.find? k.act = some b ∧ b.members[k.member]? = some u ∧
          (((s.part a.p).ringOn = false ∨ (s.part a.p).ringFull = false) → t.clusters = s.clusters ∧ u.tags.getLsbD o.t.toNat = true ∧
            u.tagerr.getLsbD o.t.toNat = true) ∧
          ((s.part a.p).ringOn = true → (s.part a.p).ringFull = true → u.tags.getLsbD o.t.toNat = false ∧ u.held.getLsbD o.t.toNat = true ∧
            ∃ cmd, (t.cluster (clusterOf c)).courier = (s.cluster (clusterOf c)).courier ++ [cmd] ∧ cmd.tag = o.t.toNat ∧ cmd.reported = true))) ∧
  -- The fabric commands (R240 to R242): one with work stands with the die's fabric couriers; posted work has its place in the outbox, empty
  -- until its source is captured; a read of another device's memory is due at once.
  (
    (∀ q ∈ ([(.cpFabRd, 0x7400, .rd), (.cpFabWr, 0x7401, .wr)] : List ((FabOp → Instr) × BitVec 16 × FabOpKind)),
      ∀ (o : FabOp) (s : State) (c : Nat) (k : Ctx) (a : Act), Issues s (q.1 o) c k → s.acts.find? k.act = some a →
      let ctl := k.xr o.c
      let rd := decide (q.2.2 = .rd)
      ctl.extractLsb' 0 32 ≠ 0 → ∃ t k' b n f, exec (q.1 o) s = .next t ∧ t.ctxs.find? c = some k' ∧ k'.pc = k.nextPc ∧ k'.slot = none ∧
        t.fab = s.fab ++ [f] ∧ f.op = q.2.2 ∧ f.rlx = o.rlx ∧ f.device = (ctl.extractLsb' 48 16).toNat ∧ f.die = dieOfCluster (clusterOf c) ∧
        f.data = none ∧ f.cmd = {
          serial := n, act := k.act, member := k.member, ctx := c, cluster := clusterOf c, tag := o.t.toNat, fn := q.2.1
          dst := if rd then k.xr o.a else k.xr o.b, src := if rd then k.xr o.b else k.xr o.a, len := (ctl.extractLsb' 0 32).toNat } ∧
        t.acts.find? k.act = some b ∧
        b.outbox = (if rd then a.outbox else a.outbox ++ [.posted f.device o.rlx (q.2.1.extractLsb' 0 8) n none]) ∧
        (rd = true → f.device ≠ s.device → f.invalid (s.subHolds k.act k.member o.t.toNat) = none → (.fabricCaptureComplete n) ∈ t.agenda) ∧
        ((.fabricCaptureComplete n) ∈ t.agenda ∨ ∃ d, s.clock < d ∧ (d, .fabricCaptureComplete n) ∈ t.timers) ∧
        t.dram = s.dram ∧ t.scratch = s.scratch) ∧
    (∀ (o : FabRedOp) (s : State) (c : Nat) (k : Ctx) (a : Act), Issues s (.cpFabRed o) c k → s.acts.find? k.act = some a →
      let ctl := k.xr o.c
      ctl.extractLsb' 0 32 ≠ 0 → ∃ t k' b n f d, exec (.cpFabRed o) s = .next t ∧ t.ctxs.find? c = some k' ∧ k'.pc = k.nextPc ∧ k'.slot = none ∧
        t.fab = s.fab ++ [f] ∧ f.op = .red o.op ∧ f.rlx = o.rlx ∧ f.device = (ctl.extractLsb' 48 16).toNat ∧ f.data = none ∧ f.cmd = {
          serial := n, act := k.act, member := k.member, ctx := c, cluster := clusterOf c, tag := o.t.toNat, fn := 0x7402
          dst := k.xr o.b, src := k.xr o.a, len := (ctl.extractLsb' 0 32).toNat } ∧
        t.acts.find? k.act = some b ∧ b.outbox = a.outbox ++ [.posted f.device o.rlx 0x02 n none] ∧
        s.clock < d ∧ (d, .fabricCaptureComplete n) ∈ t.timers) ∧
    (∀ (o : FabOp) (s : State) (c : Nat) (k : Ctx) (a : Act) (m : Member), Issues s (.cpFabSig o) c k → s.acts.find? k.act = some a →
      a.members[k.member]? = some m → m.subTag o.t.toNat = false →
      let ctl := k.xr o.c
      (k.xr o.b).toNat % 8 = 0 → ctl.extractLsb' 0 32 = 0 → (ctl.extractLsb' 48 16).toNat < 512 →
      ∃ t k' b u n, exec (.cpFabSig o) s = .next t ∧ t.ctxs.find? c = some k' ∧ k'.pc = k.nextPc ∧ k'.slot = none ∧
        t.acts.find? k.act = some b ∧ b.outbox = a.outbox ++
          [.posted (ctl.extractLsb' 48 16).toNat o.rlx 0x03 n (some (.signal (k.xr o.b) (k.xr o.a)))] ∧
        b.members[k.member]? = some u ∧ u.tags = setBit m.tags o.t.toNat true ∧ u.tagerr = setBit m.tagerr o.t.toNat false ∧ t.fab = s.fab)) ∧
  -- The event of a fabric courier (R242, R400): a failure already reported sets its tag; posted work whose source can be read is captured into
  -- the outbox, an unaligned command fails; a read of this device takes committed data of its owner's pages (R121), and one whose data have
  -- come is written and its tag set; a read of another device sends its request, or fails if that device is lost; an unknown command does
  -- nothing.
  (
    (∀ (s : State) (n : Nat), s.fab.find? (fun f => f.cmd.serial == n) = none → exec (.fabricCaptureComplete n) s = .next s) ∧
    (∀ (s : State) (n : Nat) (f : FabCmd), s.fab.find? (fun f => f.cmd.serial == n) = some f → f.cmd.reported = true →
      exec (.fabricCaptureComplete n) s = .next ({ s with fab := s.fab.filter fun g => g.cmd.serial != n }.setTag f.cmd.act f.cmd.member f.cmd.tag true)) ∧
    (∀ (s : State) (n : Nat) (f : FabCmd) (code addr : Nat), s.fab.find? (fun f => f.cmd.serial == n) = some f → f.cmd.reported = false →
      f.invalid (s.subHolds f.cmd.act f.cmd.member f.cmd.tag) = some (code, addr) →
      exec (.fabricCaptureComplete n) s = .next (s.failFab f code addr)) ∧
    (∀ (s s1 : State) (n : Nat) (f : FabCmd) (cmd : Cmd) (a : Act), s.fab.find? (fun f => f.cmd.serial == n) = some f → f.cmd.reported = false →
      f.invalid (s.subHolds f.cmd.act f.cmd.member f.cmd.tag) = none → f.op ≠ .rd → f.cmd.got = [] →
      readPieces { f.cmd.agent with engine := fabricNo f.die } (pieces f.cmd.src.toNat f.cmd.len) f.cmd s = .ok cmd s1 → cmd.denied = none →
      s1.acts.find? cmd.act = some a →
      let bs := gotBytes (pieces f.cmd.src.toNat f.cmd.len) cmd.got
      ∃ t b, exec (.fabricCaptureComplete n) s = .next t ∧ t.acts.find? cmd.act = some b ∧
        b.outbox = a.outbox.map (fun o => match o with
          | .posted d r g i w => if i = cmd.serial then .posted d r g i (some (match f.op with
              | .red op => FabWork.red op cmd.dst bs
              | _ => FabWork.write cmd.dst bs)) else .posted d r g i w
          | o => o) ∧ (∀ g ∈ t.fab, g.cmd.serial ≠ cmd.serial) ∧ t.dram = s1.dram) ∧
    (∀ (s s1 : State) (n : Nat) (f : FabCmd) (cmd : Cmd) (bs : List Byte), s.fab.find? (fun f => f.cmd.serial == n) = some f → f.cmd.reported = false →
      f.invalid (s.subHolds f.cmd.act f.cmd.member f.cmd.tag) = none → f.op = .rd → f.data = some bs →
      let dst := f.cmd.dst.toNat
      f.cmd.writeUnits bs.length ((pieces dst bs.length).map fun q => (q, numOf ((bs.drop (q.va - dst)).take q.n))) s = .ok cmd s1 → cmd.failed = none →
      exec (.fabricCaptureComplete n) s = .next
        ({ s1 with fab := s1.fab.filter fun g => g.cmd.serial != cmd.serial }.setTag cmd.act cmd.member cmd.tag false)) ∧
    (∀ (s : State) (n : Nat) (f : FabCmd) (a : Act), s.fab.find? (fun f => f.cmd.serial == n) = some f → f.cmd.reported = false →
      f.invalid (s.subHolds f.cmd.act f.cmd.member f.cmd.tag) = none → f.op = .rd → f.data = none → s.acts.find? f.cmd.act = some a → 0 < f.cmd.len →
      (f.device = s.device → s.rangeLocked a.p f.cmd.src.toNat f.cmd.len = false →
        ∀ data, s.serveRead a.p a.slot f.cmd.src.toNat f.cmd.len a.labels = (data, [], none) →
          exec (.fabricCaptureComplete n) s = .next ((s.noteServed a.p a.slot f.cmd.ctx 4 a.self a.letter.postmark f.cmd.src.toNat f.cmd.len
            a.labels).fabLand { f with data := some data })) ∧
      (f.device ≠ s.device → s.lostmask.getLsbD f.device = true → exec (.fabricCaptureComplete n) s = .next (s.failFab f 0x37 f.cmd.src.toNat)) ∧
      (f.device ≠ s.device → s.lostmask.getLsbD f.device = false → exec (.fabricCaptureComplete n) s = .next
        (s.enqueue f.device a.p f.rlx a.self a.letter.postmark (f.cmd.fn.extractLsb' 0 8) 16 (.readReq n f.cmd.src f.cmd.len a.labels)))))

/-- One event of a fill or a copy inside the scratchpad (R83, R85, R102, R238; that one event takes the command as far as it goes is log 41): a
word of the destination is as it was, or holds the pattern or the word of the source as it was before; every other byte of every scratchpad
and all of DRAM stay; a command that a bank refuses (log 46) goes on in the next cycle. With no poisoned line, banks that are free, at most
64 words, and for a copy no bank twice, all of it is done: the command is gone and its tag set without error. -/
def Obligations.CourierFillsAndCopies : Prop :=
  ∀ (s : State) (cl : Nat) (cmd : Cmd) (a : Act) (m : Member), (s.cluster cl).courier.find? (fun q => q.serial == cmd.serial) = some cmd →
    cmd.cluster = cl → cmd.reported = false → cmd.got = [] → cmd.put = 0 → cmd.denied = none → cmd.failed = none → s.acts.find? cmd.act = some a →
    a.members[cmd.member]? = some m → m.subTag cmd.tag = false → cmd.tag < 64 → a.gave = [] →
    let ok := fun w : Word => w.toNat % 4 = 0 ∧ w.toNat / 2 ^ 56 = 0xFD ∧ w.toNat % 2 ^ 56 + cmd.len ≤ 0x400000 ∧
      ∀ i, i < cmd.len / 4 → s.scratchOk cmd.agent a (w.toNat % 2 ^ 56 + 4 * i) 4 = true
    let key := fun (w : Word) (i : Nat) => 4194304 * cl + w.toNat % 2 ^ 56 + 4 * i
    let val := fun i : Nat => if cmd.kind = .fill then cmd.src.toNat % 2 ^ 32 else s.scratch.num (key cmd.src i) 4
    let bank := fun (w : Word) (i : Nat) => (w.toNat % 2 ^ 56 / 4 + i) % 64
    let free := (s.cluster cl).poison = [] ∧ (s.cluster cl).asks = [] ∧ (∀ b, ((s.cluster cl).banks.get b {}).busy ≠ s.clock + 1 ∧ ((s.cluster cl).banks.get b {}).refused = []) ∧
      cmd.len ≤ 256 ∧ (cmd.kind = .copy → ∀ i j, i < cmd.len / 4 → j < cmd.len / 4 → bank cmd.dst i ≠ bank cmd.src j)
    s.scratch.wf = true → cmd.len % 4 = 0 → 0 < cmd.len → ok cmd.dst → (cmd.kind = .fill ∨ (cmd.kind = .copy ∧ ok cmd.src)) →
    (∀ e ∈ s.stale, e.act ≠ cmd.act) →
    ∃ t, exec (.courierCommandComplete cl cmd.serial) s = .next t ∧ t.dram = s.dram ∧
      (∀ i, i < cmd.len / 4 → t.scratch.num (key cmd.dst i) 4 = s.scratch.num (key cmd.dst i) 4 ∨ t.scratch.num (key cmd.dst i) 4 = val i) ∧
      (∀ x, x < key cmd.dst 0 ∨ key cmd.dst 0 + cmd.len ≤ x → t.scratch.get x = s.scratch.get x) ∧
      ((s.clock + 1, .courierCommandComplete cl cmd.serial) ∈ t.timers ∨
        ((∀ i, i < cmd.len / 4 → t.scratch.num (key cmd.dst i) 4 = val i) ∧
          (t.cluster cl).courier = (s.cluster cl).courier.filter (fun q => q.serial != cmd.serial) ∧
          ∃ b u, t.acts.find? cmd.act = some b ∧ b.members[cmd.member]? = some u ∧ u.tags = setBit m.tags cmd.tag true ∧
            u.tagerr = m.tagerr)) ∧
      (free → (∀ i, i < cmd.len / 4 → t.scratch.num (key cmd.dst i) 4 = val i) ∧
        (t.cluster cl).courier = (s.cluster cl).courier.filter (fun q => q.serial != cmd.serial) ∧
        ∃ b u, t.acts.find? cmd.act = some b ∧ b.members[cmd.member]? = some u ∧ u.tags = setBit m.tags cmd.tag true ∧
          u.tagerr = m.tagerr)

/-- Streams open, hand out slots and end; the feeder moves tiles. -/
def Obligations.StreamsAndFeeder : Prop :=
  -- `cp.sub` (R97, R98, R244): a record in the activation's area that is well formed, a handle free, and tags no command holds open a stream;
  -- the handle comes as a result, the slots' tags are clear for a load stream; its first tile is due after a free time. The feeder of a base
  -- that lies in no DRAM stack (log 96) and an extent of 0 (log 88) are the model's choice.
  (
    ∀ (o : XX) (s s1 : State) (c : Nat) (k : Ctx) (a : Act) (m : Member) (bs : List Byte) (u0 : Sub) (h v : Nat) (dn : Option (BitVec 16)),
      Issues s (.cpSub o) c k → (k.xr o.b).toNat / 2 ^ 56 = 0xFD → (k.xr o.b).toNat % 64 = 0 →
      (issued s (.cpSub o) c).recordBytes (agentOf c k) (k.xr o.b).toNat 128 16 = (.ok v dn s1, bs) →
      streamUnreached bs = none → s1.acts.find? k.act = some a → a.members[k.member]? = some m → a.areaBase ≤ (k.xr o.b).toNat % 2 ^ 56 →
      (k.xr o.b).toNat % 2 ^ 56 + 128 ≤ a.areaBase + a.areaSize → parseStream bs a.areaBase a.areaSize c = some u0 →
      let u := { u0 with stack := s1.stackAt a.p u0.base.toNat }
      m.freeHandle = some h → (∀ i, i < u.nslots → m.held.getLsbD (u.tagbase + i) = false ∧ m.subTag (u.tagbase + i) = false) →
      ∃ t k' b w r d, exec (.cpSub o) s = .next t ∧ t.ctxs.find? c = some k' ∧ k'.pc = k.nextPc ∧ k'.slot = none ∧
        t.acts.find? k.act = some b ∧ b.members[k.member]? = some w ∧ w.subs.find? h = some u ∧
        (∀ i, i < u.nslots → w.tags.getLsbD (u.tagbase + i) = u.store) ∧
        r ∈ k'.vres ∧ r.ws = [.x o.a (BitVec.ofNat 64 h)] ∧ r.rd = none ∧ s.clock < d ∧ (d, .feederTile k.act k.member h) ∈ t.timers ∧
        t.dram = s1.dram ∧ t.scratch = s1.scratch) ∧
  -- `cp.slot` and `cp.unsub` (R98, R244): the slot's tag clears and the feeder goes on; a stream ends with the tag its `cp.unsub` names;
  -- without an open stream under the handle, or on a slot the core does not own, the cause is stream-state.
  (
    (∀ (o : XN6) (s : State) (c : Nat) (k : Ctx) (a : Act) (m : Member) (u : Sub), Issues s (.cpSlot o) c k → s.acts.find? k.act = some a →
      a.members[k.member]? = some m → m.subs.find? (k.xr o.a).toNat = some u → u.ending = none →
      let t := u.tagbase + o.n.toNat
      (o.n.toNat < u.nslots → t < 64 → m.tags.getLsbD t = true → ∃ t' k' b w d, exec (.cpSlot o) s = .next t' ∧ t'.ctxs.find? c = some k' ∧
        k'.pc = k.nextPc ∧ k'.slot = none ∧ t'.acts.find? k.act = some b ∧ b.members[k.member]? = some w ∧ w.tags = setBit m.tags t false ∧
        s.clock < d ∧ (d, .feederTile k.act k.member (k.xr o.a).toNat) ∈ t'.timers) ∧
      (u.nslots ≤ o.n.toNat → exec (.cpSlot o) s = .next ((issued s (.cpSlot o) c).raise c { code := 0x34, info := 0 })) ∧
      (o.n.toNat < u.nslots → m.tags.getLsbD t = false →
        exec (.cpSlot o) s = .next ((issued s (.cpSlot o) c).raise c { code := 0x34, info := t }))) ∧
    (∀ (o : XN6) (s : State) (c : Nat) (k : Ctx) (a : Act) (m : Member) (u : Sub), Issues s (.cpUnsub o) c k → s.acts.find? k.act = some a →
      a.members[k.member]? = some m → m.subs.find? (k.xr o.a).toNat = some u → u.ending = none →
      ∃ t k' b w d, exec (.cpUnsub o) s = .next t ∧ t.ctxs.find? c = some k' ∧ k'.pc = k.nextPc ∧ k'.slot = none ∧
        t.acts.find? k.act = some b ∧ b.members[k.member]? = some w ∧
        w.subs.find? (k.xr o.a).toNat = some { u with ending := some o.n.toNat } ∧ w.tags = setBit m.tags o.n.toNat false ∧
        s.clock < d ∧ (d, .feederTile k.act k.member (k.xr o.a).toNat) ∈ t.timers) ∧
    (∀ i ∈ ([.cpSlot, .cpUnsub] : List (XN6 → Instr)), ∀ (o : XN6) (s : State) (c : Nat) (k : Ctx) (a : Act) (m : Member), Issues s (i o) c k →
      s.acts.find? k.act = some a → a.members[k.member]? = some m → m.subs.find? (k.xr o.a).toNat = none →
      exec (i o) s = .next ((issued s (i o) c).raise c { code := 0x34, info := 0 }))) ∧
  -- A feeder moves a tile when its slot's tag is clear (R98): the next tile of the stream is due, the slot's tag is set; a full slot, or a
  -- stream at its end (log 97), leaves all as it is; a stream that is ending is closed; one that waits for a repair waits (R374).
  (
    (∀ (s s1 : State) (a m h put : Nat) (got : List (Piece × Nat)) (k : Act) (q : Member) (u : Sub), s.acts.find? a = some k → k.members[m]? = some q → q.subs.find? h = some u →
      u.asked = false → u.reported = none → u.ending = none → u.failed = false → u.next < u.tiles → q.tags.getLsbD (u.tagbase + u.next % u.nslots) = false →
      u.store = false → loadTile { act := a, ctx := none, cluster := k.cluster, member := m, tag := u.tagbase + u.next % u.nslots,
                                         port := some 18, engine := feederNo (u.stack.getD 12), sr := u.ctx } u u.next s = .ok got put none s1 → u.tagbase + u.next % u.nslots < 64 →
      (∃ k1 q1, s1.acts.find? a = some k1 ∧ k1.members[m]? = some q1 ∧ q1.tags = q.tags) →
      ∃ t b w d, exec (.feederTile a m h) s = .next t ∧ t.acts.find? a = some b ∧ b.members[m]? = some w ∧
        w.subs.find? h = some { u with next := u.next + 1, denied := none, got := [], put := 0 } ∧ w.tags = setBit q.tags (u.tagbase + u.next % u.nslots) true ∧
        (d, .feederTile a m h) ∈ t.timers ∧ t.scratch = s1.scratch ∧ t.dram = s1.dram) ∧
    (∀ (s : State) (a m h : Nat) (k : Act) (q : Member) (u : Sub), s.acts.find? a = some k → k.members[m]? = some q → q.subs.find? h = some u →
      u.reported = none → u.ending = none → (u.failed = true ∨ u.tiles ≤ u.next ∨ q.tags.getLsbD (u.tagbase + u.next % u.nslots) = true) →
      exec (.feederTile a m h) s = .next s) ∧
    (∀ (s : State) (a m h : Nat) (k : Act) (q : Member) (u : Sub) (t : Nat), s.acts.find? a = some k → k.members[m]? = some q →
      q.subs.find? h = some u → u.asked = false → u.reported = none → u.ending = some t → t < 64 → u.store = false →
      ∃ r b w, exec (.feederTile a m h) s = .next r ∧ r.acts.find? a = some b ∧ b.members[m]? = some w ∧ w.subs = q.subs.erase h ∧
        w.tags = setBit q.tags t true ∧ w.tagerr = q.tagerr) ∧
    (∀ (s : State) (a m h : Nat) (k : Act) (q : Member) (u : Sub), s.acts.find? a = some k → k.members[m]? = some q → q.subs.find? h = some u →
      u.asked = true → exec (.feederTile a m h) s = .next s))

/-- Issue of the matrix commands, mx.ctx and mx.pri. -/
def Obligations.MatrixCommandsIssue : Prop :=
  -- The eight commands that are no `mx.ctx` (R258, R264, R266, R271, R284, R355): a local one of a context that does not hold its format
  -- context is a format-context-state exception; a malformed or misaligned word, or a local range out of bounds, is an exception at issue; any
  -- other takes its tag, joins the queue or leaves for its target, and the context goes on.
  (
    ∀ (i : Instr) (s : State) (c : Nat) (k : Ctx) (op : MxOp) (fn : BitVec 8) (tile : Nat) (aw bw : Word) (kk : Nat) (tl : MxTail), Issues s i c k →
      i.matrix k = some (op, fn, tile, aw, bw, kk, tl) → (∀ m, s.memberOf k = some m → m.image = none) →
      let s0 := issued s i c
      let r := (s.fctxOf c).nextRecord
      let cmd := matrixCommand s c k op fn tile aw bw kk tl
      let found := ((if tl.far.isSome then [] else cmd.ranges r) ++ cmd.local_).findSome? (s0.mxBound { cmd with cap := none }.agent)
      (tl.far = none → (s.fctxOf c).holds k = false → exec i s = .next (s0.raise c { code := 0x36 })) ∧
      (tl.far ≠ none ∨ (s.fctxOf c).holds k = true →
        (cmd.badWords r = true → exec i s = .next (s0.raise c { code := 0x02 })) ∧
        (cmd.badWords r = false → ∀ off, cmd.misaligned = some off →
          exec i s = .next (s0.raise c { code := 0x05, badaddr := some (BitVec.ofNat 64 (scratchVa off)) })) ∧
        (cmd.badWords r = false → cmd.misaligned = none →
          (∀ code addr, found = some (code, addr) →
            exec i s = .next (s0.raise c { code := code, badaddr := some (BitVec.ofNat 64 addr) })) ∧
          (found = none → exec i s = .next (matrixSent s0 c k cmd))))) ∧
  -- `mx.ctx` and `mx.pri` (R258, R262, R272, R279, R283): the record is read at issue and checked; a local `mx.ctx` claims the format context;
  -- one that franking bars, or a record R262 refuses, is an exception; `mx.pri` sets the base priority at once and asks for the holder.
  (
    (∀ (o : MxB) (s : State) (c : Nat) (k : Ctx), Issues s (.mxCtx o) c k → (∀ m, s.memberOf k = some m → m.image = none) →
      let s0 := issued s (.mxCtx o) c
      let cmd := fun r => matrixCommand s c k (.ctx r) 0x00 0 (k.xr o.b) 0 0 o.tl
      let off := (k.xr o.b).toNat % 2 ^ 22
      (o.tl.far = none → s.frankBars c = true → (s.fctxOf c).holds k = false → exec (.mxCtx o) s = .next (s0.raise c { code := 0x36 })) ∧
      (o.tl.far ≠ none ∨ s.frankBars c = false ∨ (s.fctxOf c).holds k = true → (k.xr o.b).toNat < 2 ^ 22 → off % 64 = 0 →
        s0.mxBound { cmd ⟨0, 0, 0⟩ with cap := none }.agent (off, 64) = none →
        ∀ v d s1 bs, s0.recordBytes (agentOf c k) (scratchVa off) 64 8 = (.ok v d s1, bs) →
          (parseRecord bs = none → exec (.mxCtx o) s = .next (s1.raise c { code := 0x02 })) ∧
          (∀ r, parseRecord bs = some r → exec (.mxCtx o) s =
            .next (matrixSent (if o.tl.far.isSome then s1 else s1.claim (clusterOf c) (coreOf c % 16) k) c k (cmd r))))) ∧
    (∀ (o : MxPriOp) (s : State) (c : Nat) (k : Ctx), Issues s (.mxPri o) c k → (∀ m, s.memberOf k = some m → m.image = none) →
      ((s.fctxOf c).holds k = false → exec (.mxPri o) s = .next ((issued s (.mxPri o) c).raise c { code := 0x36 })) ∧
      ((s.fctxOf c).holds k = true → ∃ t k', exec (.mxPri o) s = .next t ∧ t.ctxs.find? c = some k' ∧ k'.pc = k.nextPc ∧ k'.slot = none ∧
        k'.x = k.x ∧ t.fctxOf c = { s.fctxOf c with pri := o.n.toNat } ∧ t.acts = s.acts ∧ t.scratch = s.scratch ∧ t.dram = s.dram)))

/-- Format records accepted, claims, queues and franked commands. -/
def Obligations.FormatContexts : Prop :=
  -- The record of R262: formats at most 9, integer accumulation only of two integer formats, scales only of float formats that are not FP32,
  -- every reserved bit zero.
  (
    ∀ (bs : List Byte), bs.length = 64 →
      let w := fun o => numOf ((bs.drop o).take 8)
      let a := w 0 % 16
      let b := w 0 / 16 % 16
      let bit := fun n => w 0 / 2 ^ n % 2 = 1
      let int := fun f => 6 ≤ f ∧ f ≤ 9
      ((parseRecord bs).isSome = true ↔ a ≤ 9 ∧ b ≤ 9 ∧ (bit 8 → int a ∧ int b) ∧ (bit 9 → ¬ int a ∧ a ≠ 5) ∧ (bit 10 → ¬ int b ∧ b ≠ 5) ∧
        w 0 < 2 ^ 14 ∧ w 16 < 2 ^ 32 ∧ ∀ x ∈ bs.drop 24, x = 0) ∧
      ∀ r, parseRecord bs = some r → r = ⟨BitVec.ofNat 64 (w 0), BitVec.ofNat 64 (w 8), BitVec.ofNat 64 (w 16)⟩) ∧
  -- Claims and queues (R258, R266, R272): a claim zeroes both tiles, clears mxstat and the record, gives base priority 1 and the holder, and
  -- leaves the other tiles; one of the holder does nothing; a command joins the end of the queue; a record takes effect when it reaches the
  -- head.
  (
    (∀ (s : State) (cl f : Nat) (k : Ctx), ((s.cluster cl).fctx f).holds k = false →
      let x := (s.cluster cl).fctx f
      let q := (s.claim cl f k).cluster cl
      q.fctx f = { x with holder := some (k.act, k.member), pri := 1, rcd := ⟨0, 0, 0⟩, mxstat := 0, w := 0, step := 0, pre := [] } ∧
      (∀ n e, n < 2 → e < 4096 → q.elem (2 * f + n) e = 0) ∧
      (∀ n e, e < 4096 → n / 2 ≠ f → q.elem n e = (s.cluster cl).elem n e) ∧ (∀ g, g ≠ f → q.fctx g = (s.cluster cl).fctx g)) ∧
    (∀ (s : State) (cl f : Nat) (k : Ctx), ((s.cluster cl).fctx f).holds k = true → s.claim cl f k = s) ∧
    (∀ (s : State) (cl f : Nat) (c d : MxCmd) (rest : List MxCmd), ((s.cluster cl).fctx f).queue ++ [c] = d :: rest → (∀ r, d.op ≠ .ctx r) →
      ((s.mxQueue cl f c).cluster cl).fctx f = { (s.cluster cl).fctx f with queue := d :: rest } ∧ (s.mxQueue cl f c).acts = s.acts) ∧
    (∀ (s : State) (cl f : Nat) (c : MxCmd) (r : FmtRec), ((s.cluster cl).fctx f).queue = [] → c.op = .ctx r →
      ((s.mxQueue cl f c).cluster cl).fctx f = { (s.cluster cl).fctx f with rcd := r, queue := [], w := 0, step := 0, pre := [] })) ∧
  -- Franked commands and the franking table (R281, R282, R283): the check has the five conditions; an accepted command joins the queue with
  -- its priority clamped and the window it was granted, and one that finds the queue full comes again a cycle later; one whose activation is
  -- gone does nothing; a valid entry becomes active where nobody holds the format context and nothing is queued, zeroing its tiles and mxstat.
  (
    (∀ (s : State) (cl : Nat) (c : MxCmd) (cap : Word) (a : Act), s.acts.find? c.act = some a →
      let e := (s.cluster cl).frank.get ((cap.toNat / 2 ^ 32) % 256) 0
      let f := e.toNat / 2 ^ 36 % 16
      let r := ((s.cluster cl).fctx f).nextRecord
      let ok := ((s.part a.p).row0 ≤ cl / 16 ∧ cl / 16 < (s.part a.p).row0 + (s.part a.p).nrows) ∧ e.getLsbD 0 = true ∧ e.getLsbD 1 = true ∧
        e.toNat / 2 ^ 40 % 2 ^ 24 = cap.toNat / 2 ^ 40 ∧ e.toNat / 2 ^ 16 % 2 ^ 16 = a.slot ∧
        ∀ q ∈ c.ranges r ++ c.tensor r, e.toNat / 2 ^ 64 % 2 ^ 23 ≤ q.1 ∧ q.1 + q.2 ≤ e.toNat / 2 ^ 87 % 2 ^ 23
      (ok → s.frankCheck cl c cap = some (f, e.toNat / 2 ^ 34 % 4)) ∧ (¬ ok → s.frankCheck cl c cap = none)) ∧
    (∀ (s : State) (cl : Nat) (c : MxCmd) (cap : Word) (a : Act) (f mp : Nat), s.acts.find? c.act = some a → (∀ x y, a.phase ≠ .failed x y) →
      c.cap = some cap → s.frankCheck cl c cap = some (f, mp) →
      (((s.cluster cl).fctx f).queue.length < 8 → exec (.frankedCommandArrival cl c) s =
        .next (s.mxQueue cl f { c with pri := min mp ((s.cluster cl).fctx f).pri, win := (s.cluster cl).window cap })) ∧
      (8 ≤ ((s.cluster cl).fctx f).queue.length → exec (.frankedCommandArrival cl c) s = .next (s.postAt 1 (.frankedCommandArrival cl c)))) ∧
    (∀ (s : State) (cl : Nat) (c : MxCmd), s.acts.find? c.act = none → exec (.frankedCommandArrival cl c) s = .next s) ∧
    (∀ (s : State) (cl : Nat) (c : MxCmd) (a : Act) (t : Nat), s.acts.find? c.act = some a → (∀ x y, a.phase ≠ .failed x y) → c.cap = none →
      c.tag = some t → exec (.frankedCommandArrival cl c) s = .next (s.setTag c.act c.member t true)) ∧
    (∀ (s : State) (cl i : Nat), ∃ t, exec (.frankingEntryActivate cl i) s = .next t ∧
      let e := (s.cluster cl).frank.get i 0
      let f := e.toNat / 2 ^ 36 % 16
      let x := (s.cluster cl).fctx f
      (e.getLsbD 0 = false ∨ e.getLsbD 1 = true → t.cluster cl = s.cluster cl) ∧
      (e.getLsbD 0 = true → e.getLsbD 1 = false → x.franked = true ∨ (x.holder = none ∧ x.queue = []) →
        (t.cluster cl).frank.get i 0 = e ||| 2#128 ∧ ((t.cluster cl).fctx f).franked = true) ∧
      (e.getLsbD 0 = true → e.getLsbD 1 = false → x.franked = false → x.holder = none → x.queue = [] →
        ((t.cluster cl).fctx f).mxstat = 0 ∧ ((t.cluster cl).fctx f).rcd = ⟨0, 0, 0⟩ ∧
        ∀ n e, n < 2 → e < 4096 → (t.cluster cl).elem (2 * f + n) e = 0) ∧
      (e.getLsbD 0 = true → e.getLsbD 1 = false → x.franked = false → (x.holder ≠ none ∨ x.queue ≠ []) → t.cluster cl = s.cluster cl)))

/-- The matrix unit chooses, steps and ends its commands. -/
def Obligations.MatrixUnitRuns : Prop :=
  -- The choice of the unit (R83, R268): the head with the greatest effective priority, then the longest wait, then the lowest format context;
  -- it is none where nothing waits. Once what cancelled commands left is tidied, which changes nothing where no record heads a queue and no
  -- franking is over (R272, R283), an idle unit starts it, and with none nothing happens; a step that is not due, or still wants words of its
  -- banks, does nothing; the last step ends the command.
  (
    (∀ (k : Cluster) (x : Option Nat), k.best x = none ↔ ∀ f, f < 16 → x ≠ some f → (k.fctx f).queue = []) ∧
    (∀ (k : Cluster) (x : Option Nat) (f : Nat), k.best x = some f → f < 16 ∧ x ≠ some f ∧ (k.fctx f).queue ≠ [] ∧
      ∀ g, g < 16 → x ≠ some g → (k.fctx g).queue ≠ [] → (k.fctx g).eff < (k.fctx f).eff ∨ ((k.fctx g).eff = (k.fctx f).eff ∧
        ((k.fctx g).w < (k.fctx f).w ∨ ((k.fctx g).w = (k.fctx f).w ∧ f ≤ g)))) ∧
    (∀ (s0 : State) (cl : Nat), (∀ f, f < 16 → let x := (s0.cluster cl).fctx f
        (∀ c ∈ x.queue.head?, ∀ q, c.op ≠ .ctx q) ∧ (x.franked = true → (s0.cluster cl).frankValid f = true ∨ ∃ c ∈ x.queue, c.cap.isSome = true)) →
      let s := s0.tidyMatrix cl
      s.cluster cl = s0.cluster cl ∧ s.clock = s0.clock ∧ s.acts = s0.acts ∧ s.scratch = s0.scratch) ∧
    (∀ (s0 : State) (cl : Nat), let s := s0.tidyMatrix cl
      ((s.cluster cl).mxrun = none → (s.cluster cl).best none = none → exec (.mxDecision cl) s0 = .next s) ∧
      (∀ f, (s.cluster cl).mxrun = none → (s.cluster cl).best none = some f → exec (.mxDecision cl) s0 = .next (s.mxStart cl f)) ∧
      (∀ r, (s.cluster cl).mxrun = some r → ((s.cluster cl).fctx r.fctx).queue ≠ [] → s.clock < r.due ∨ r.words ≠ [] →
        exec (.mxDecision cl) s0 = .next s) ∧
      (∀ r c rest, (s.cluster cl).mxrun = some r → ((s.cluster cl).fctx r.fctx).queue = c :: rest → r.due ≤ s.clock → r.failed = none →
        r.words = [] → c.steps ((s.cluster cl).fctx r.fctx).rcd ((s.cluster cl).fctx r.fctx).pre = r.step + 1 →
        ∃ t, exec (.mxDecision cl) s0 = .next t ∧ .mxCommandComplete cl ∈ t.agenda ∧ t.scratch = (s.mxPerform cl r.fctx r.step c).scratch ∧
          (t.cluster cl).tiles = ((s.mxPerform cl r.fctx r.step c).cluster cl).tiles))) ∧
  -- The end of a command (R235, R263, R266, R285): it leaves the queue and the unit is idle; its tag is set, with the error of a command that
  -- failed; an untagged one that failed leaves its cause in mxstat if no error stands there; tiles and scratchpads stay.
  (
    (∀ (s : State) (cl : Nat), (s.cluster cl).mxrun = none → exec (.mxCommandComplete cl) s = .next s) ∧
    (∀ (s : State) (cl : Nat) (r : MxRun) (c : MxCmd) (rest : List MxCmd) (a : Act) (m : Member), (s.cluster cl).mxrun = some r →
      let x := (s.cluster cl).fctx r.fctx
      x.queue = c :: rest → (∀ d ∈ rest.head?, ∀ q, d.op ≠ .ctx q) → s.acts.find? c.act = some a → a.members[c.member]? = some m →
      (∀ t, c.tag = some t → t < 64) →
      (∀ b n, x.holder = some (b, n) → ∃ k u, s.acts.find? b = some k ∧ k.member? n = some u ∧ u.retired = false) →
      ∃ t b u, exec (.mxCommandComplete cl) s = .next t ∧ (t.cluster cl).mxrun = none ∧ ((t.cluster cl).fctx r.fctx).queue = rest ∧
        (t.cluster cl).tiles = (s.cluster cl).tiles ∧ t.scratch = s.scratch ∧ t.dram = s.dram ∧
        t.acts.find? c.act = some b ∧ b.members[c.member]? = some u ∧
        (∀ n, c.tag = some n → u.tags = setBit m.tags n true ∧ u.tagerr = (if r.failed.isSome then setBit m.tagerr n true else m.tagerr) ∧
          ((t.cluster cl).fctx r.fctx).mxstat = x.mxstat) ∧
        (c.tag = none → u.tags = m.tags ∧ u.tagerr = m.tagerr ∧
          (r.failed = none ∨ x.mxstat.getLsbD 7 = true → ((t.cluster cl).fctx r.fctx).mxstat = x.mxstat) ∧
          ∀ code, r.failed = some code → code < 256 → x.mxstat.getLsbD 7 = false →
            ((t.cluster cl).fctx r.fctx).mxstat.getLsbD 7 = true ∧ bits ((t.cluster cl).fctx r.fctx).mxstat 8 8 = code ∧
            bits ((t.cluster cl).fctx r.fctx).mxstat 0 5 = bits x.mxstat 0 5))) ∧
  -- What a step computes (R140, R263, R273, R275): `mx.zero` zeroes its tile; a product applies to each element of its rows the group sums of
  -- its terms and leaves the rest; the sum of a group of integers is exact and wraps or saturates; `mx.ctx.st` writes its 128 bytes.
  (
    (∀ (s : State) (cl f i : Nat) (c : MxCmd), c.op = .zero →
      let t := s.mxPerform cl f i c
      (∀ e, e < 4096 → (t.cluster cl).elem (2 * f + c.tile) e = 0) ∧
      (∀ n e, e < 4096 → n ≠ 2 * f + c.tile → (t.cluster cl).elem n e = (s.cluster cl).elem n e) ∧ t.scratch = s.scratch) ∧
    (∀ (s : State) (cl f i : Nat) (c : MxCmd), c.op ∈ ([.mm, .mms, .conv, .gmm] : List MxOp) →
      let x := (s.cluster cl).fctx f
      s.mxPerform cl f i c = ((s.productStep cl c x.rcd x.pre i).2).applyStep cl f (2 * f + c.tile) x.rcd (s.productStep cl c x.rcd x.pre i).1) ∧
    (∀ (s : State) (cl f tile : Nat) (r : FmtRec) (q : KStep), q.rows.Nodup →
      let t := s.applyStep cl f tile r q
      (∀ (n i j : Nat) (ps : List (Option XVal)), q.rows[n]? = some i → q.a[n]? = some ps → i < 64 → j < 64 → (t.cluster cl).elem tile (64 * i + j) =
        (accStep r ((s.cluster cl).elem tile (64 * i + j)) ((ps.zip (q.b.map fun row => row.getD j xZero)).map fun p => match p.1 with
          | some v => (v, p.2)
          | none => (xZero, xZero))).1) ∧
      (∀ i j, i ∉ q.rows → i < 64 → j < 64 → (t.cluster cl).elem tile (64 * i + j) = (s.cluster cl).elem tile (64 * i + j)) ∧
      (∀ n e, n ≠ tile → e < 4096 → (t.cluster cl).elem n e = (s.cluster cl).elem n e) ∧ t.scratch = s.scratch) ∧
    (∀ (sat : Bool) (acc : Half32) (ps : List (XVal × XVal)),
      let v := acc.toInt + (ps.map fun p => xInt p.1 * xInt p.2).sum
      (accInt sat acc ps).1 = BitVec.ofInt 32 (if sat then max (-2147483648) (min 2147483647 v) else v) ∧
      ((accInt sat acc ps).2 = 0 ↔ sat = false ∨ (-2147483648 ≤ v ∧ v ≤ 2147483647))) ∧
    (∀ (s : State) (cl f i : Nat) (c : MxCmd) (clr : Bool), c.op = .ctxSt clr →
      let x := (s.cluster cl).fctx f
      let t := s.mxPerform cl f i c
      t.scratch = s.scratch.write (scratchKey c.cluster (opOff c.aw)) (bytesOf 8 x.rcd.control.toNat ++ bytesOf 8 x.rcd.shape.toNat ++
        bytesOf 8 x.rcd.window.toNat ++ bytesOf 40 0 ++ bytesOf 8 x.mxstat.toNat ++ bytesOf 8 x.pri ++ bytesOf 48 0) ∧
      (t.cluster cl).fctx f = (if clr then { x with mxstat := 0 } else x))) ∧
  -- `mx.ld` and `mx.st` (R123, R265, R273, R274): a load replaces every element of its tile by the element of the scratchpad, raw, exact, or
  -- extended, a NaR as the canonical NaN, and changes nothing else; a store whose rows do not overlap writes the elements raw, clamped, or
  -- rounded by the record's mode, ORs their flags into mxstat, and leaves the tile and every other byte.
  (
    ∀ (s : State) (cl f n : Nat) (c : MxCmd) (fmt : BitVec 4), SeesAll s c → fmt.toNat ≤ 10 →
      let x := (s.cluster cl).fctx f
      let tile := 2 * f + c.tile
      let t := s.mxPerform cl f n c
      let int32 := x.rcd.control.getLsbD 8
      let w := (mxType fmt.toNat).width
      let row := fun i => opOff c.aw + i * opStride c.aw
      let raw : Prop := fmt = 10 ∨ (fmt = 5 ∧ int32 = false)
      let sign := fmt = 6 ∨ fmt = 8
      (c.op = .ld fmt →
        t.scratch = s.scratch ∧ (t.cluster cl).fctx f = x ∧ (∀ m e, m ≠ tile → e < 4096 → (t.cluster cl).elem m e = (s.cluster cl).elem m e) ∧
        ∀ i j, i < 64 → j < 64 →
          let a := packedAt s cl w (row i) j
          let v := (t.cluster cl).elem tile (64 * i + j)
          (raw → v = BitVec.ofNat 32 a) ∧
          (int32 = true → 6 ≤ fmt.toNat → fmt.toNat ≤ 9 → v.toInt = if sign ∧ 2 ^ (w - 1) ≤ a then (a : Int) - 2 ^ w else a) ∧
          (int32 = false → fmt ≠ 5 → fmt ≠ 10 → (∀ y, numberQ (mxType fmt.toNat) a = some y → FinWord v ∧ q32 v = y) ∧
            (fmt.toNat < 3 → numberQ (mxType fmt.toNat) a = none → v = 0x7FC00000))) ∧
      (c.op = .st fmt → s.scratch.wf = true → 8 * w ≤ opStride c.aw →
        (t.cluster cl).tiles = (s.cluster cl).tiles ∧ (t.cluster cl).fctx f = { x with mxstat := ((t.cluster cl).fctx f).mxstat } ∧
        (∀ b, (∀ i, i < 64 → b < 4194304 * cl + row i ∨ 4194304 * cl + row i + 8 * w ≤ b) → t.scratch.get b = s.scratch.get b) ∧
        let e := fun i j => (s.cluster cl).elem tile (64 * i + j)
        let small := int32 = true ∧ 6 ≤ fmt.toNat ∧ fmt.toNat ≤ 9
        let clamped := fun v : Int => if sign then max (-(2 ^ (w - 1) : Int)) (min (2 ^ (w - 1) - 1) v) else max 0 (min (2 ^ w - 1) v)
        let conv := fun i j => convert (mxType fmt.toNat) (if int32 then .sint 32 else .ieee fp32) (rmOf (x.rcd.control.extractLsb' 12 2)) (e i j).toNat
        (∀ i j, i < 64 → j < 64 → packedAt t cl w (row i) j % 2 ^ w =
          if raw then (e i j).toNat else if small then (clamped (e i j).toInt % 2 ^ w).toNat else (conv i j).1 % 2 ^ w) ∧
        ∀ b, ((t.cluster cl).fctx f).mxstat.getLsbD b = true ↔ x.mxstat.getLsbD b = true ∨ ∃ i j, i < 64 ∧ j < 64 ∧
          (if raw then (0 : FFlags) else if small then (if clamped (e i j).toInt = (e i j).toInt then 0 else 0x40)
            else if fmt.toNat < 3 ∧ int32 = false ∧ NanWord (e i j) then 0 else (conv i j).2).getLsbD b = true)) ∧
  -- What a k-step of a product takes (R265, R275 to R278): 64 terms, or what is left, of each row of A and of B; a scale of `mx.mms` is the
  -- byte of its block of 32 terms and its row or column; A of `mx.conv` is the unfold of the tensor, an exact zero product where it has no
  -- element; a group of `mx.gmm` has its own rows and its own B.
  (
    ∀ (s : State) (cl i : Nat) (c : MxCmd) (r : FmtRec) (pre : List Byte), SeesAll s c →
      let q := (s.productStep cl c r pre i).1
      let bit := fun n => r.control.getLsbD n
      let ta := mxType (bits r.control 0 4)
      let tb := mxType (bits r.control 4 4)
      let kk := if c.op = .conv then (bits r.window 0 4 + 1) * (bits r.window 4 4 + 1) * bits r.shape 0 16 else c.k
      let nb := (kk + 31) / 32
      let scale := fun n => (pre.getD n 0).toInt
      (c.op ∈ ([.mm, .mms, .conv, .gmm] : List MxOp) → (s.productStep cl c r pre i).2 = s) ∧
      ∀ row0 cnt boff ks, ((c.op ∈ ([.mm, .mms, .conv] : List MxOp) ∧ row0 = 0 ∧ cnt = 64 ∧ boff = opOff c.bw ∧ ks = i) ∨
          (c.op = .gmm ∧ ks = i % ((kk + 63) / 64) ∧ ∃ g, (groupsFrom 0 0 (groupCounts pre))[i / ((kk + 63) / 64)]? = some (g, row0, cnt) ∧
            boff = opOff c.bw + g * kk * opStride c.bw)) →
        let n := min 64 (kk - 64 * ks)
        let rows := (List.range cnt).map fun y => row0 + y
        q.rows = rows ∧
        q.b = ((List.range n).map fun y => (List.range 64).map fun j =>
          let v := tb.value (packedAt s cl tb.width (boff + (64 * ks + y) * opStride c.bw) j)
          if c.op = .mms ∧ bit 10 = true then scaleVal v (scale ((if bit 9 then 64 * nb else 0) + (64 * ks + y) / 32 * 64 + j)) else v) ∧
        (c.op ≠ .conv → q.a = rows.map fun x => (List.range n).map fun y =>
          let v := ta.value (packedAt s cl ta.width (opOff c.aw + x * opStride c.aw) (64 * ks + y))
          some (if c.op = .mms ∧ bit 9 = true then scaleVal v (scale (x * nb + (64 * ks + y) / 32)) else v)) ∧
        (c.op = .conv →
          let (nn, h, w, ch) := (bits r.shape 48 16, bits r.shape 32 16, bits r.shape 16 16, bits r.shape 0 16)
          let g := fun o => bits r.window o 4
          let oh : Int := (h + 2 * g 16 - (g 24 + 1) * g 0 - 1) / (g 8 + 1) + 1
          let ow : Int := (w + 2 * g 20 - (g 28 + 1) * g 4 - 1) / (g 12 + 1) + 1
          1 ≤ oh → 1 ≤ ow → 1 ≤ ch → q.a = rows.map fun x => (List.range n).map fun y =>
            let p := bits c.aw 32 32 + x
            let k := 64 * ks + y
            let m := p % (oh * ow).toNat
            let yy : Int := (m / ow.toNat * (g 8 + 1) : Nat) - g 16 + (k / (ch * (g 4 + 1)) * (g 24 + 1) : Nat)
            let xx : Int := (m % ow.toNat * (g 12 + 1) : Nat) - g 20 + (k / ch % (g 4 + 1) * (g 28 + 1) : Nat)
            if nn * (oh * ow).toNat ≤ p ∨ yy < 0 ∨ h ≤ yy ∨ xx < 0 ∨ w ≤ xx then none
            else some (ta.value (packedAt s cl ta.width (opOff c.aw) (((p / (oh * ow).toNat * h + yy.toNat) * w + xx.toNat) * ch + k % ch))))) ∧
  -- What the unit reads before the first k-step (R276, R278, R285), the command's own ranges being in bounds: the scales of `mx.mms`, of which
  -- none may be −128; the row counts of `mx.gmm`, of 1 to 64 groups with at most 64 rows in all, each group of any rows after the ones before
  -- it.
  (
    (∀ (s : State) (cl f : Nat) (c : MxCmd), SeesAll s c → c.op = .mms →
      let r := ((s.cluster cl).fctx f).rcd
      let nb := (c.k + 31) / 32
      let at_ := fun (w : Word) (b : Nat) => if r.control.getLsbD b then s.scratch.read (4194304 * cl + bits w 48 16 * 64) (64 * nb) else []
      let bs := at_ c.aw 9 ++ at_ c.bw 10
      (∀ q ∈ c.ranges r, s.mxBound c.agent q = none) →
        (0x80 ∉ bs → s.mxBegin cl f c = (.ok bs, s)) ∧ (0x80 ∈ bs → ∃ a, s.mxBegin cl f c = (.error (0x0A, a), s))) ∧
    (∀ (s : State) (cl f : Nat) (c : MxCmd), SeesAll s c → c.op = .gmm →
      let r := ((s.cluster cl).fctx f).rcd
      let off := bits c.bw 48 16 * 64
      let bs := s.scratch.read (4194304 * cl + off) 65
      let g := (bs.headD 0).toNat
      let cs := ((bs.drop 1).take g).map BitVec.toNat
      (∀ q ∈ c.ranges r, s.mxBound c.agent q = none) →
        (g = 0 ∨ 64 < g ∨ 64 < cs.sum → s.mxBegin cl f c = (.error (0x0B, 0xFD00000000000000 + off), s)) ∧
        (0 < g → g ≤ 64 → cs.sum ≤ 64 → (∀ q ∈ groupsFrom 0 0 cs, ∀ x ∈ rowRanges c.bw c.k (rowBytes (bits r.control 4 4) 64),
          s.mxBound c.agent (x.1 + q.1 * c.k * opStride c.bw, x.2) = none) → s.mxBegin cl f c = (.ok bs, s))) ∧
    (∀ cs : List Nat, (∀ g row n, (g, row, n) ∈ groupsFrom 0 0 cs ↔ cs[g]? = some n ∧ 0 < n ∧ row = (cs.take g).sum) ∧
      ((groupsFrom 0 0 cs).map Prod.fst).Pairwise (· < ·)) ∧
    (∀ (v : XVal) (n : Int), xvalQ (scaleVal v n) = xvalQ v * (2 : ℚ) ^ n) ∧
    (∀ fmt b, fmt < 10 → numberQ (mxType fmt) b = (match (mxType fmt).value b with
      | .fin neg m e => some (xvalQ (.fin neg m e))
      | _ => none)) ∧
    (∀ (acc : Half32) (ps : List (XVal × XVal)), (∀ p ∈ ps, (∃ a m e, p.1 = .fin a m e) ∧ ∃ a m e, p.2 = .fin a m e) →
      let x := (ps.map fun p => xvalQ p.1 * xvalQ p.2).sum
      x ≠ 0 → ∃ b, RoundsTo fp32 x b ∧ (accAdd acc ps).1 = (fadd acc (BitVec.ofNat 32 b)).1))

/-! ## Actors, letters, activations -/

/-- link, unlink, mon, demon, kill, exit, exitmail and the invalidations. -/
def Obligations.ActorInstructions : Prop :=
  -- `link`, `unlink`, `mon`, `demon`, `kill` (R21, R248, R250): the destination is checked, the outbox takes 64 of these actions, and the
  -- action waits there for the commit; nothing else of the activation changes.
  (
    ∀ q ∈ ([(.link, .link), (.unlink, .unlink), (.mon, .mon), (.demon, .demon), (.kill, .kill)] : List ((XOp → Instr) × (Word → OutEntry))),
      ∀ (o : XOp) (s : State) (c : Nat) (k : Ctx) (a : Act), Issues s (q.1 o) c k → s.acts.find? k.act = some a →
      let w := k.xr o.a
      let dev := (w.toNat / 2 ^ 48)
      let ok := (dev < 512 ∧ (dev = s.device ∨ (s.part a.p).podBit dev = true)) ∧ w.toNat / 2 ^ 44 % 16 = a.p ∧
        w.toNat / 2 ^ 24 % 2 ^ 20 < 0x10000 ∧ w.toNat % 2 ^ 24 ≠ 0
      let n := (a.outbox.filter OutEntry.isAction).length
      (¬ ok → exec (q.1 o) s = .next ((issued s (q.1 o) c).raise c { code := 0x32 })) ∧
      (ok → 64 ≤ n → exec (q.1 o) s = .next ((issued s (q.1 o) c).raise c { code := 0x33 })) ∧
      (ok → n < 64 → ∃ t k', exec (q.1 o) s = .next t ∧ t.ctxs.find? c = some k' ∧ k'.pc = k.nextPc ∧ k'.slot = none ∧ k'.x = k.x ∧
        t.acts.find? k.act = some { a with outbox := a.outbox ++ [q.2 w] } ∧ (∀ b, b ≠ k.act → t.acts.find? b = s.acts.find? b) ∧
        t.dram = s.dram ∧ t.scratch = s.scratch)) ∧
  -- `exit`, `exitmail` and the four invalidations (R248, R250, R256): an `exit` with a reason from 1 to 127 is an illegal operand; the others
  -- wait in the outbox for the commit, `exit` and `exitmail` among the 64 actions.
  (
    (∀ (o : XOp) (s : State) (c : Nat) (k : Ctx) (a : Act), Issues s (.exit o) c k → s.acts.find? k.act = some a →
      let r := (k.xr o.a).toNat % 256
      let n := (a.outbox.filter OutEntry.isAction).length
      (1 ≤ r ∧ r ≤ 127 → exec (.exit o) s = .next ((issued s (.exit o) c).raise c { code := 0x02 })) ∧
      (r = 0 ∨ 127 < r → 64 ≤ n → exec (.exit o) s = .next ((issued s (.exit o) c).raise c { code := 0x33 })) ∧
      (r = 0 ∨ 127 < r → n < 64 → ∃ t k', exec (.exit o) s = .next t ∧ t.ctxs.find? c = some k' ∧ k'.pc = k.nextPc ∧ k'.slot = none ∧
        k'.x = k.x ∧ t.acts.find? k.act = some { a with outbox := a.outbox ++ [.exit (BitVec.ofNat 8 r)] })) ∧
    (∀ (o : FlagOp) (s : State) (c : Nat) (k : Ctx) (a : Act), Issues s (.exitmail o) c k → s.acts.find? k.act = some a →
      (a.outbox.filter OutEntry.isAction).length < 64 → ∃ t k', exec (.exitmail o) s = .next t ∧ t.ctxs.find? c = some k' ∧
        k'.pc = k.nextPc ∧ k'.slot = none ∧ k'.x = k.x ∧ t.acts.find? k.act = some { a with outbox := a.outbox ++ [.exitmail o.v] }) ∧
    (∀ q ∈ ([(.icinv, fun w => .icinv w false), (.icinvAll, fun w => .icinv w true), (.tlbinv, fun w => .tlbinv w false),
        (.tlbinvAll, fun w => .tlbinv w true)] : List ((XOp → Instr) × (Word → OutEntry))),
      ∀ (o : XOp) (s : State) (c : Nat) (k : Ctx) (a : Act), Issues s (q.1 o) c k → s.acts.find? k.act = some a →
      ∃ t k', exec (q.1 o) s = .next t ∧ t.ctxs.find? c = some k' ∧ k'.pc = k.nextPc ∧ k'.slot = none ∧ k'.x = k.x ∧
        t.acts.find? k.act = some { a with outbox := a.outbox ++ [q.2 (k.xr o.a)] } ∧ t.clusters = s.clusters))

/-- snd and sndp wait in the outbox; spawn reserves a slot. -/
def Obligations.SendsAndSpawns : Prop :=
  -- `snd` and `sndp` (R21, R34, R35, R246, R247): destination, image, group fields and room are checked in this order (log 110); the letter is
  -- built from the image and waits in the outbox; a parcel is checked for its shape and its owner, and is given away from then on; the owner
  -- change of a global tile stands in the scaffold (R106).
  (
    ∀ q ∈ ([(.snd, 0), (.sndp, 1)] : List ((XX → Instr) × BitVec 8)), ∀ (o : XX) (s : State) (c : Nat) (k : Ctx) (a : Act),
      Issues s (q.1 o) c k → s.acts.find? k.act = some a →
      let s0 := issued s (q.1 o) c
      let dest := k.xr o.a
      let img := (k.xr o.b).toNat
      (s.postcodeOk a.p dest = false → exec (q.1 o) s = .next (s0.raise c { code := 0x32 })) ∧
      (s.postcodeOk a.p dest = true → img / 2 ^ 56 ≠ 0xFD ∨ img % 64 ≠ 0 →
        exec (q.1 o) s = .next (s0.raise c { code := 0x05, badaddr := some (k.xr o.b) })) ∧
      (s.postcodeOk a.p dest = true → img / 2 ^ 56 = 0xFD → img % 64 = 0 → ∀ v d s1 bs,
        s0.recordBytes (agentOf c k) img 256 32 = (.ok v d s1, bs) → s1.acts.find? k.act = some a → ∀ k1, s1.ctxs.find? c = some k1 →
        let l := buildLetter a dest q.2 bs
        let n := (a.outbox.filter OutEntry.isLetter).length
        (groupOk l = false → exec (q.1 o) s = .next (s1.raise c { code := 0x02 })) ∧
        (groupOk l = true → 64 ≤ n → exec (q.1 o) s = .next (s1.raise c { code := 0x33 })) ∧
        (groupOk l = true → n < 64 → q.2 = 0 →
          exec (q.1 o) s = .next ((s1.modAct k.act fun x => { x with outbox := x.outbox ++ [.letter l (l.postmark == 0)] }).advance c)) ∧
        (groupOk l = true → n < 64 → q.2 = 1 →
          (l.parcel.shapeOk = false ∨ s1.tilePages a l.parcel = false →
            exec (q.1 o) s = .next (s1.raise c { code := 0x05, badaddr := some (BitVec.ofNat 64 l.parcel.base.toNat) })) ∧
          (l.parcel.shapeOk = true → s1.tilePages a l.parcel = true →
            (∀ va, l.parcel.units.find? (fun va => !s1.ownsUnit (agentOf c k) a l.parcel va) = some va →
              exec (q.1 o) s = .next ((s1.noteWalk a.p c 0 a.self a.letter.postmark va).raise c { code := 0x31, badaddr := some (BitVec.ofNat 64 va) })) ∧
            ((∀ va ∈ l.parcel.units, s1.ownsUnit (agentOf c k) a l.parcel va = true) →
              ∃ t k' b, exec (q.1 o) s = .next t ∧ t.ctxs.find? c = some k' ∧ k'.pc = k1.nextPc ∧ k'.slot = none ∧
                t.acts.find? k.act = some b ∧ b.gave = a.gave ++ [l.parcel] ∧ b.outbox = a.outbox ++ [.letter l (l.postmark == 0)] ∧
                (l.parcel.place = 0 → b.wsig = a.wsig ∧ b.owners = a.owners) ∧
                (l.parcel.place ≠ 0 → b.owners = a.owners ++ [s1.ownerChange a.p dest l.parcel])))))) ∧
  -- `spawn` (R17, R22, R52, R248, R249): supervision needs a supervisor image; an unknown device, a missing image, a seventeenth spawn and a
  -- device without a free slot, or with 65,536 actors, those of partitions not set up yet among them (log 101), are exceptions, in the order
  -- of log 110; else a free slot is reserved under its next incarnation, never 0, and its postcode comes as a result; on another device the
  -- reservation is asked for and the result waits.
  (
    (∀ (o : SpawnOp) (s : State) (c : Nat) (k : Ctx) (a : Act), Issues s (.spawn o) c k → s.acts.find? k.act = some a →
      let s0 := issued s (.spawn o) c
      let img := (k.xr o.b).toNat % 2 ^ 16
      let d := (k.xr o.c).toNat % 2 ^ 16
      let n := (a.outbox.filter OutEntry.isSpawn).length
      (o.sup = true → a.img.supervisor = false → exec (.spawn o) s = .next (s0.raise c { code := 0x02 })) ∧
      ((o.sup = false ∨ a.img.supervisor = true) →
        (s.deviceOk a.p d = false → exec (.spawn o) s = .next (s0.raise c { code := 0x32 })) ∧
        (s.deviceOk a.p d = true → d = s.device → (s.part a.p).images.find? img = none →
          exec (.spawn o) s = .next (s0.raise c { code := 0x35 })) ∧
        (s.deviceOk a.p d = true → d ≠ s.device ∨ (s.part a.p).images.find? img ≠ none →
          (16 ≤ n → exec (.spawn o) s = .next (s0.raise c { code := 0x33 })) ∧
          (n < 16 → d = s.device →
            ((s0.reserve a.p img).1 = none → exec (.spawn o) s = .next ((s0.reserve a.p img).2.raise c { code := 0x33 })) ∧
            (∀ code, (s0.reserve a.p img).1 = some code → ∃ t k' b r m, exec (.spawn o) s = .next t ∧ t.ctxs.find? c = some k' ∧
              k'.pc = k.nextPc ∧ k'.slot = none ∧ r ∈ k'.vres ∧ r.ws = [.x o.a code] ∧ r.rd = none ∧ t.acts.find? k.act = some b ∧
              b.outbox = a.outbox ++ [.spawn code img (if o.sup then some (modeOf o.mode) else none) false m] ∧
              t.parts = (s0.reserve a.p img).2.parts)) ∧
          (n < 16 → d ≠ s.device → s.lostmask.getLsbD d = false → ∃ t k' b r m, exec (.spawn o) s = .next t ∧ t.ctxs.find? c = some k' ∧
            k'.pc = k.nextPc ∧ k'.slot = none ∧ r ∈ k'.vres ∧ r.serial = m ∧ r.due = none ∧ r.ws = [] ∧ t.acts.find? k.act = some b ∧
            b.outbox = a.outbox ++ [.spawn 0 img (if o.sup then some (modeOf o.mode) else none) false m] ∧
            ∃ q ∈ t.remote, q.serial = m ∧ q.device = d ∧ q.img = img ∧ q.dest = o.a))) ) ∧
    (∀ (s : State) (p img : Nat) (code : Word), (s.reserve p img).1 = some code → s.device < 512 → p < 16 →
      let t := (s.reserve p img).2
      let slot := code.toNat / 2 ^ 24 % 2 ^ 20
      s.liveActors + s.heldBack < 65536 ∧ code.toNat / 2 ^ 48 = s.device ∧ code.toNat / 2 ^ 44 % 16 = p ∧ slot < 65535 ∧ s.slotTaken p slot = false ∧
      (let i := ((s.part p).last.get slot 0).toNat
       code.toNat % 2 ^ 24 = (if i = 2 ^ 24 - 1 then 1 else i + 1)) ∧
      (t.part p).reserved.find? slot = some (code, img) ∧ (t.part p).last.find? slot = some (code.extractLsb' 0 24)) ∧
    (∀ (s : State) (p img : Nat), (s.reserve p img).1 = none → 65536 ≤ s.liveActors + s.heldBack ∨ ∀ slot, slot < 65535 → s.slotTaken p slot = true))

/-- retire, the transaction instructions, and what an abort requeues. -/
def Obligations.RetireAndAborts : Prop :=
  -- `retire` and the transaction instructions (R109, R112, R251, R252): a tile task that retires frees its context; `txn.abort` aborts the
  -- activation, `txn.abort.drop` discards all it did and lets it commit empty in its turn, `txn.excl` aborts it into an exclusive run, or goes
  -- on in one.
  (
    (∀ (o : NoneOp) (s : State) (c : Nat) (k : Ctx) (a : Act) (m : Member), Issues s (.retire o) c k → s.acts.find? k.act = some a →
      a.members[k.member]? = some m → s.ctxs.sorted = true → (∃ n u, n ≠ k.member ∧ a.members[n]? = some u ∧ u.retired = false) →
      ∃ t b u, exec (.retire o) s = .next t ∧ t.ctxs.find? c = none ∧ t.acts.find? k.act = some b ∧ b.members[k.member]? = some u ∧
        u.retired = true ∧ u.ctx = none ∧ b.outbox = a.outbox ∧ b.lines = a.lines ∧ t.scratch = s.scratch) ∧
    (∀ (o : NoneOp) (s : State) (c : Nat) (k : Ctx), Issues s (.txnAbort o) c k →
      exec (.txnAbort o) s = .next ((issued s (.txnAbort o) c).abortAct k.act {})) ∧
    (∀ (o : NoneOp) (s : State) (c : Nat) (k : Ctx) (a : Act), Issues s (.txnExcl o) c k → s.acts.find? k.act = some a →
      exec (.txnExcl o) s = .next (if a.exclusive then (issued s (.txnExcl o) c).advance c
        else (issued s (.txnExcl o) c).abortAct k.act { exclusive := true })) ∧
    (∀ (o : NoneOp) (s : State) (c : Nat) (k : Ctx) (a : Act), Issues s (.txnAbortDrop o) c k → s.acts.find? k.act = some a →
      ∃ t b, exec (.txnAbortDrop o) s = .next t ∧ (∀ d x, t.ctxs.find? d = some x → x.act ≠ k.act) ∧ t.acts.find? k.act = some b ∧
        b.lines = [] ∧ b.pages = [] ∧ b.outbox = [] ∧ b.gave = [] ∧ b.owners = [] ∧ b.rsig = 0 ∧ b.wsig = 0 ∧ b.phase = a.phase ∧ b.order = a.order ∧
        b.members.length = a.members.length ∧ (∀ m ∈ b.members, m.retired = true ∧ m.ctx = none ∧ m.tagerr = 0) ∧ t.scratch = s.scratch)) ∧
  -- An abort (R44, R52, R66, R70, R106, R112, R252): the activation, its contexts and its engine commands are gone; its letter is HELD again
  -- in its place, marked as a replay, and a mark for exclusive service stays with it; those behind it wait for its next run unless it gave way
  -- (log 17); a conflict lowers the speculation depth, never below 1.
  (
    ∀ (s : State) (n : Nat) (a : Act) (w : Actor) (q : Requeue), s.acts.find? n = some a → s.acts.sorted = true →
      s.actor? a.p a.slot = some w →
      let t := s.abortAct n q
      t.acts.find? n = none ∧ (∀ m, m ≠ n → t.acts.find? m = s.acts.find? m) ∧ (∀ c x, t.ctxs.find? c = some x → x.act ≠ n) ∧
      (∀ cl, ∀ c ∈ (t.cluster cl).courier, c.act ≠ n) ∧ (∀ cl f, ∀ c ∈ ((t.cluster cl).fctx f).queue, c.act ≠ n) ∧
      (∀ f ∈ t.fab, f.cmd.act ≠ n) ∧ t.scratch = s.scratch ∧
      ∃ v, t.actor? a.p a.slot = some v ∧ v.depth = (if q.conflict then max 1 (w.depth - 1) else w.depth) ∧ v.box.length = w.box.length ∧
        ∀ (i : Nat) (h : Held), w.box[i]? = some h → ∃ g : Held, v.box[i]? = some g ∧ g.place = h.place ∧ (h.state ≠ .active n → g = h) ∧
          (h.state = .active n → g.state = .held ∧ g.requeued = (if q.passed then none else some a.order) ∧ g.letter = { h.letter with replay := true } ∧
            g.exclusive = (h.exclusive || q.exclusive)))

/-- A letter of an actor reaches its mailbox (R28, R29, R30, R31, R32, R49, R363, R366): for a postcode that names nobody it is dead; else an
ordinary one outside a group takes the next place, a full mailbox refuses it or its actor is killed; one of the reserve kinds takes the
reserve, an ordinary place, the pending list, or overflows; the first letter of a group opens it for 100 ms. A host letter may bring a tile
besides (R288). -/
def Obligations.LettersArrive : Prop :=
  ∀ (p : Nat) (l : Letter) (s : State),
    let slot := l.dest.toNat / 2 ^ 24 % 2 ^ 20
    let s0 := { s with carry := s.carry.erase l }
    let e : Instr := .letterArrival p l none
    (s.actor? p slot = none → exec e s = .next (s0.deadLetter l 2)) ∧
    ∀ w, s.actor? p slot = some w →
      (w.code ≠ l.dest → exec e s = .next (s0.deadLetter l 1)) ∧
      (w.code = l.dest → l.kind.toNat < 2 ∨ 5 < l.kind.toNat →
        (w.img.depth ≤ w.ordinary → w.img.overflowFail = true → exec e s = .next (s0.post (.killPoint p w.code (.overflow l)))) ∧
        (w.img.depth ≤ w.ordinary → w.img.overflowFail = false → exec e s = .next (s0.refuse p slot w l none)) ∧
        (w.ordinary < w.img.depth → l.gid = 0 → l.gsize = 0 → (l.kind = 1 → isHostSender l.sender = false) → ∃ t v h, exec e s = .next t ∧ t.actor? p slot = some v ∧
          v = { w with box := w.box ++ [h], nextPlace := w.nextPlace + 1 } ∧ h.place = w.nextPlace ∧ h.letter = l ∧ h.state = .held ∧
          h.reserve = false ∧ t.dram = s.dram ∧ t.acts = s.acts) ∧
        (w.ordinary < w.img.depth → l.gid ≠ 0 → l.member.toNat < l.gsize.toNat → (s.part p).groups.find? l.gid.toNat = none →
          (s.part p).groups.length < 256 → (l.kind = 1 → isHostSender l.sender = false) → ∃ t v h, exec e s = .next t ∧ t.actor? p slot = some v ∧ v.box = w.box ++ [h] ∧ h.letter = l ∧
            (t.part p).groups.find? l.gid.toNat = some
              ⟨l.gsize.toNat, l.sender, l.postmark, s.clock, [⟨slot, w.nextPlace, l.member.toNat⟩], false, false, false⟩ ∧ (s.clock + 150000000, .groupTimeout p l.gid.toNat) ∈ t.timers)) ∧
      (w.code = l.dest → 2 ≤ l.kind.toNat → l.kind.toNat ≤ 5 →
        (w.inReserve < 4 ∨ w.ordinary < w.img.depth → ∃ t v h, exec e s = .next t ∧ t.actor? p slot = some v ∧ v.box = w.box ++ [h] ∧
          h.letter = l ∧ h.reserve = decide (w.inReserve < 4) ∧ v.pending = w.pending) ∧
        (4 ≤ w.inReserve → w.img.depth ≤ w.ordinary → w.pending.length < 64 → ∃ t, exec e s = .next t ∧
          t.actor? p slot = some { w with pending := w.pending ++ [l] }) ∧
        (4 ≤ w.inReserve → w.img.depth ≤ w.ordinary → 64 ≤ w.pending.length →
          exec e s = .next (s0.post (.killPoint p w.code (.overflow l)))))

/-- A group (R49, R50, R51, R110, R114, R361, R362): one still incomplete 100 ms after its first letter is abandoned; phase 2a locks every
member, or aborts those that a check of its own or a changed page touches and leaves the group open; phase 2b closes the group and is its
commit point, one group at a time (log 56), within 500,000 cycles (log 4); phase 2c finishes the members die by die, step 4 of all before
step 5 of any; a withdrawal before the commit point marks the group, whose phases are then over, and lets the kill go on; one after it lets
the kill wait. -/
def Obligations.GroupsCommitOrEnd : Prop :=
  ∀ (p gid : Nat) (s : State),
    ((s.part p).groups.find? gid = none →
      (∀ e ∈ ([.groupTimeout p gid, .groupPrepare p gid, .groupCommitPoint p gid] : List Instr), exec e s = .next s) ∧
      ∀ target why, exec (.groupWithdrawal p gid target why) s = .next (s.postAt 1 (.killPoint p target why))) ∧
    ((s.part p).closing.find? gid = none → exec (.groupApply p gid) s = .next s) ∧
    (∀ g as, (s.part p).closing.find? gid = some g → s.groupActs p g = some as → exec (.groupApply p gid) s = .next
      ((byDie as).foldl (fun st a => st.departAct a.1) ((byDie as).foldl (fun st a => st.applyAct a.1 a.2)
        (s.modPart p fun k => { k with closing := k.closing.erase gid })))) ∧
    ∀ g, (s.part p).groups.find? gid = some g →
      (exec (.groupTimeout p gid) s = .next (if 150000000 ≤ s.clock - g.opened ∧ g.joined.length < g.gsize then s.abandonGroup p gid 0 else s)) ∧
      (g.locked = true ∨ g.withdrawn = true ∨ s.groupReady p g = false → exec (.groupPrepare p gid) s = .next s) ∧
      (∀ as, g.locked = false → g.withdrawn = false → s.groupReady p g = true → s.groupActs p g = some as →
        as.foldl (fun st a => st.unackCheck a.1) s = s → (∀ a ∈ as, (s.acts.find? a.1).map (fun k => k.phase) = some .running) →
        let s1 := as.foldl (fun st a => if (st.acts.find? a.1).isSome then st.checkConflicts a.1 a.2 else st) s
        let bad := as.filter fun a => (s1.acts.find? a.1).isNone || !s1.leavesSame a.2
        (bad = [] → ∃ t d, exec (.groupPrepare p gid) s = .next t ∧
          t.acts = (as.foldl (fun st a => st.modAct a.1 fun k => { k with phase := .locked }) s1).acts ∧
          s.clock < d ∧ d ≤ s.clock + 500000 ∧ (d, .groupCommitPoint p gid) ∈ t.timers) ∧
        (bad ≠ [] → exec (.groupPrepare p gid) s = .next (bad.foldl (fun st a => (st.noteLeaves a.2).abortAct a.1 {}) s1))) ∧
      (g.locked = false ∨ g.withdrawn = true → exec (.groupCommitPoint p gid) s = .next s) ∧
      (g.locked = true → g.withdrawn = false → (∃ k ∈ s.parts, k.2.closing ≠ []) →
        exec (.groupCommitPoint p gid) s = .next (s.postAt 1 (.groupCommitPoint p gid))) ∧
      (∀ as, (s.part p).groups.sorted = true → g.locked = true → g.withdrawn = false → (∀ k ∈ s.parts, k.2.closing = []) → s.groupActs p g = some as →
        ∃ t d, exec (.groupCommitPoint p gid) s = .next t ∧ (t.part p).groups.find? gid = none ∧
          (t.part p).closing.find? gid = some { g with committed := true } ∧ s.clock < d ∧ d ≤ s.clock + 500000 ∧ (d, .groupApply p gid) ∈ t.timers ∧
          ∀ n b, s.acts.find? n = some b → ∃ c, t.acts.find? n = some { b with base := c }) ∧
      ∀ target why, exec (.groupWithdrawal p gid target why) s = .next ((s.modPart p fun k =>
        { k with groups := k.groups.modify gid fun g => { g with withdrawn := true } }).post (.killPoint p target why))

/-- Placement starts a gang; drain mode, saving and exclusive service. -/
def Obligations.PlacementEvents : Prop :=
  -- A cycle of a placer, drain mode, a save, exclusive service (R67, R71, R72, R73, R359, R389): the first entry of the queue that fits is
  -- placed; drain mode begins for an entry 2 ms old and holds the queue for it; a gang that is quiet is saved as a whole (log 53) and queued;
  -- a die serves the exclusive letter of least key.
  (
    (∀ (s : State) (cl : Nat), (s.cluster cl).drain = none → (∀ e ∈ (s.cluster cl).queue, s.fits cl e = none) →
      exec (.place cl) s = .next (s.preempt cl)) ∧
    (∀ (s : State) (cl : Nat) (e : QEntry) (f : Fit) (l r : List QEntry), (s.cluster cl).drain = none → (s.cluster cl).queue = l ++ e :: r →
      (∀ x ∈ l, s.fits cl x = none) → s.fits cl e = some f → exec (.place cl) s = .next ((s.takeFit cl e f).preempt cl)) ∧
    (∀ (s : State) (cl : Nat) (e : QEntry), (s.cluster cl).drain = some e →
      exec (.place cl) s = .next ((s.fits cl e).elim s fun f => s.takeFit cl e f)) ∧
    (∀ (s : State) (cl : Nat) (e : QEntry) (r : List QEntry), (s.cluster cl).drain = none → (s.cluster cl).queue = e :: r →
      (s.clock < e.since + 3000000 → exec (.drainEnter cl) s = .next s) ∧
      (e.since + 3000000 ≤ s.clock → ∃ t, exec (.drainEnter cl) s = .next t ∧ t.cluster cl = { s.cluster cl with drain := some e })) ∧
    (∀ (s : State) (cl : Nat) (e : QEntry), (s.cluster cl).drain = some e → exec (.drainEnter cl) s = .next s) ∧
    (∀ (s : State) (n : Nat) (a : Act), s.acts.find? n = some a →
      (s.savable n = false → exec (.gangSave n) s = .next s) ∧
      (s.savable n = true → ∃ t, exec (.gangSave n) s = .next t ∧ .saved n s.clock ∈ (t.cluster a.cluster).queue)) ∧
    (∀ (s : State) (c : Nat) (k : Ctx) (a : Act) (m : Member), s.ctxs.find? c = some k → s.ctxs.sorted = true → s.transit = [] →
      s.acts.find? k.act = some a → a.members[k.member]? = some m → ∀ p, let t := s.saveMember p c
        t.ctxs.find? c = none ∧ ∃ b u v, t.acts.find? k.act = some b ∧ b.members[k.member]? = some u ∧ u.ctx = none ∧ u.saving = false ∧
          u.saved = some v ∧ v.ctx = k ∧ u.tags = m.tags ∧ u.held = m.held) ∧
    (∀ (s : State) (d : Nat), s.served.find? d ≠ none → exec (.exclusiveServiceStart d) s = .next s) ∧
    (∀ (s : State) (d n : Nat) (k : Cluster) (x : Nat × Nat × Nat × Nat), s.served.find? d = none → (n, k) ∈ s.clusters → dieOfCluster n = d →
      s.exclusiveHead n = some x → ∃ t y, exec (.exclusiveServiceStart d) s = .next t ∧ t.served.find? d = some (y.2.1, y.2.2.1, y.2.2.2) ∧
        y.1 ≤ x.1 ∧ ∃ q ∈ s.clusters, dieOfCluster q.1 = d ∧ s.exclusiveHead q.1 = some y)) ∧
  -- A placement starts a gang (R29, R38, R39, R40, R68): one new activation; in each context named the member of its place, at the entry PC,
  -- every register full, x1 to x8 the body words, x9 and x10 the area, every other register, mask and predicate zero; the area holds the
  -- letter and zeros, all of the quota where the letter brings no tile (R36; log 86); the letter is ACTIVE; its activation is the actor's
  -- next, or stands where the aborted one of its letter stood (R44; log 17).
  (
    ∀ (s : State) (p slot base : Nat) (w : Actor) (h : Held) (cs : List Nat), cs.Nodup → cs.length = w.img.g → s.scratch.wf = true →
      let size := w.areaFor h
      256 ≤ size → s.actor? p slot = some w →
      let t := s.placeNew p slot w h cs base
      (h.owns = [] → size = w.img.quota) ∧
      (∃ a, t.acts.find? s.serial = some a ∧ a.p = p ∧ a.slot = slot ∧ a.self = w.code ∧ a.letter = h.letter ∧ a.img = w.img ∧
        a.areaBase = base ∧ a.areaSize = size ∧ a.owns = h.owns ∧ a.order = h.requeued.getD w.nextOrder ∧ a.phase = .running ∧ a.lines = [] ∧ a.pages = [] ∧ a.outbox = [] ∧ a.rsig = 0 ∧ a.wsig = 0 ∧
        a.members.map (fun m => m.ctx) = cs.map some ∧ (∀ m ∈ a.members, m.tags = 0 ∧ m.held = 0 ∧ m.retired = false) ∧
        ∀ n, n < 8 → (t.barrier s.serial n).members = BitVec.ofNat 16 (2 ^ w.img.g - 1)) ∧
      (∀ (i c : Nat), cs[i]? = some c → ∃ k, t.ctxs.find? c = some k ∧ k.act = s.serial ∧ k.member = i ∧ k.slot = none ∧
        k.pc = (if slot = 0xFFFF then (s.part p).word 0x10 else w.img.entry) ∧ k.fflags = 0 ∧ k.fullX = BitVec.allOnes 64 ∧
        k.fullV = BitVec.allOnes 32 ∧ (∀ r, k.vr r = lanes fun _ => 0) ∧ (∀ r, k.mr r = 0) ∧ (∀ q, q ≠ 0 → k.pr q = false) ∧
        ∀ r, r < 64 → (k.xr (BitVec.ofNat 6 r)).toNat = (if 1 ≤ r ∧ r ≤ 8 then h.letter.body.toNat / 2 ^ (32 * (r - 1)) % 2 ^ 32
          else if r = 9 then (0xFD00000000000000 + base) % 2 ^ 64 else if r = 10 then size % 2 ^ 64 else 0)) ∧
      (∀ c, c ∉ cs → t.ctxs.find? c = s.ctxs.find? c) ∧
      (∀ i, i < size → t.scratch.get (scratchKey w.cluster base + i) = h.letter.bytes.getD i 0) ∧
      (∀ x, x < scratchKey w.cluster base ∨ scratchKey w.cluster base + size ≤ x → t.scratch.get x = s.scratch.get x) ∧
      ∃ v, t.actor? p slot = some v ∧ ∀ g ∈ v.box, g.place = h.place → g.state = .active s.serial)

/-- A commit publishes the scaffold and the outbox. -/
def Obligations.CommitsPublish : Prop :=
  -- A commit (R44, R46, R109, R110, R112, R338): an activation of a group, or one not ready, changes nothing; a ready one with no error left
  -- and with its leaves as they were finishes, once it has aborted those it conflicts with; one whose leaves changed aborts; the conflict
  -- check aborts exactly the later members of its domain (in an ordered commons by the model's choice of log 81) whose read signature meets
  -- its write signature, but one a group has locked or one whose failure is recorded, and marks a commit that aborted one of its own actor;
  -- when it finishes its lines reach memory, the activation is gone and its letter's place is free.
  (
    (∀ (s : State) (n : Nat), s.acts.find? n = none → exec (.activationCommit n) s = .next s) ∧
    (∀ (s : State) (n : Nat) (a : Act), s.acts.find? n = some a →
      (a.letter.inGroup = true ∨ s.ready n a = false → exec (.activationCommit n) s = .next s) ∧
      (a.letter.inGroup = false → s.ready n a = true → (∀ m ∈ a.members, m.tagerr = 0) →
        (∀ k ∈ s.clusters, ∀ f ∈ k.2.fctxs, f.2.mxstat.getLsbD 7 = false) →
        ((s.checkConflicts n a).leavesSame a = true → exec (.activationCommit n) s = .next ((s.checkConflicts n a).finish n a)) ∧
        ((s.checkConflicts n a).leavesSame a = false →
          exec (.activationCommit n) s = .next (((s.checkConflicts n a).noteLeaves a).abortAct n {})) ∧
        (s.acts.sorted = true → (∀ m b, m ≠ n → s.acts.find? m = some b → sameDomain a b = true → sigMeets b.rsig a.wsig = false) →
          s.leavesSame a = true → exec (.activationCommit n) s = .next (s.finish n a)))) ∧
    (∀ (s : State) (n : Nat) (a : Act), s.acts.sorted = true → ∀ (m : Nat) (b : Act), s.acts.find? m = some b →
      let hit (x : Nat) (c : Act) : Prop := x ≠ n ∧ sameDomain a c = true ∧ (s.orderedDomain a = false ∨ s.before a c = true) ∧
        sigMeets c.rsig a.wsig = true ∧ (∀ f, c.phase ≠ .failed f true) ∧ c.phase ≠ .locked
      (hit m b → (s.checkConflicts n a).acts.find? m = none) ∧
      (¬ hit m b → m ≠ n → (s.checkConflicts n a).acts.find? m = some b) ∧
      (m = n → ∃ v : Bool, (s.checkConflicts n a).acts.find? n = some { b with clean := v } ∧
        (v = true ↔ b.clean = true ∧ ∀ x c, s.acts.find? x = some c → c.p = a.p → c.slot = a.slot → ¬ hit x c))) ∧
    (∀ (s : State) (n : Nat) (a : Act), a.pages = [] → a.owners = [] → s.dram.wf = true → let t := s.applyAct n a
      (∀ x b, (∃ e ∈ a.lines, ∃ q ∈ e.2.bytes, x = e.2.pa + q.1 ∧ q.2 = b) →
        (∀ e ∈ a.lines, ∀ q ∈ e.2.bytes, x = e.2.pa + q.1 → q.2 = b) → t.dram.get x = b) ∧
      (∀ x, (∀ e ∈ a.lines, ∀ q ∈ e.2.bytes, x ≠ e.2.pa + q.1) → t.dram.get x = s.dram.get x) ∧ t.scratch = s.scratch ∧ t.ctxs = s.ctxs) ∧
    (∀ (s : State) (n : Nat) (a : Act), s.acts.find? n = some a → s.acts.sorted = true → s.dram.wf = true → a.pages = [] → a.owners = [] →
      a.outbox = [] → (∀ q ∈ a.owns, q.place = 0) →
      let t := s.finish n a
      t.acts.find? n = none ∧ t.scratch = s.scratch ∧
      (∀ x b, (∃ e ∈ a.lines, ∃ q ∈ e.2.bytes, x = e.2.pa + q.1 ∧ q.2 = b) →
        (∀ e ∈ a.lines, ∀ q ∈ e.2.bytes, x = e.2.pa + q.1 → q.2 = b) → t.dram.get x = b) ∧
      ∀ w, s.actor? a.p a.slot = some w → w.pending = [] → ∃ v, t.actor? a.p a.slot = some v ∧ v.box = w.box.filter fun h => h.place != a.place)) ∧
  -- The outbox of a commit departs (R26, R53, R54, R56, R113, R240, R248, R250, R256, R299, R361, R397): its entries act in their order, the
  -- activation gone, its letter's place freed behind them, and an actor that asked for its end exits last; a letter takes the stamp of its
  -- place in the outbox and goes on its way, or into the queue of its device, or is dead; a spawn bears the child, listed where it is
  -- supervised, asks its device for it, or gives the slot up with an EXIT letter; a link enters both tables, a monitor the other's; a kill
  -- goes out; an invalidation drops what the clusters of the partition hold; posted work for another device is queued item by item.
  (
    (∀ (s : State) (n : Nat) (a : Act), s.acts.find? n = some a → ∃ s1 : State, s1.acts = s.acts.erase n ∧ s1.moving = s.moving ∧
      s1.peers = s.peers ∧ s1.timers = s.timers ∧
      let t := ((s1.departAll a a.base a.outbox 0).markDeparted a.p a.logEntry).dropHeld a.p a.slot a.place
      (a.ending = none → s.departAct n = t) ∧ ∀ e, a.ending = some e → s.departAct n = t.exitActor a.p a.slot e none) ∧
    (∀ (s : State) (a : Act) (base i : Nat), s.departAll a base [] i = s ∧ ∀ o r, s.departAll a base (o :: r) i =
      (s.depart a base o i).departAll a base r (if o.isLetter = true then i + 1 else i)) ∧
    (∀ (s : State) (a : Act) (base i : Nat) (l : Letter) (stamp : Bool), l.kind ≠ 1 →
      (∀ m ∈ s.moving, ¬ (m.letter.sender = l.sender ∧ m.letter.dest = l.dest)) →
      let l' := if stamp then { l with postmark := BitVec.ofNat 64 (base + i) } else l
      let d := l.dest.toNat / 2 ^ 48
      let t := s.depart a base (.letter l stamp) i
      (d = s.device → ∃ due, s.clock < due ∧ (due, .letterArrival (l.dest.toNat / 2 ^ 44 % 16) l' none) ∈ t.timers) ∧
      (d ≠ s.device → s.lostmask.getLsbD d = true → t = s.deadLetter l' 6) ∧
      (d ≠ s.device → s.lostmask.getLsbD d = false → ∃ q ∈ (t.peers.get d {}).ordered, q.item.work = .letter l' a.token ∧ q.sentAt = none)) ∧
    (∀ (s : State) (a : Act) (base i m img : Nat) (child : Word) (sup : Option RestartMode),
      s.depart a base (.spawn child img sup true m) i = s ∧
      let d := child.toNat / 2 ^ 48
      let t := s.depart a base (.spawn child img sup false m) i
      (sup = none ∨ (∀ w, s.living a.p a.self = some w → w.children.length < 256) →
        (d = s.device →
          (∀ s1, s.birth a.p img child none (sup.map fun _ => a.self) = .ok s1 →
            (sup = none → t = s1) ∧ ∀ mode, sup = some mode → t = s1.modActor a.p a.slot fun w =>
              { w with children := w.children ++ [{ code := child, img := img, mode := mode }] }) ∧
          (∀ r, s.birth a.p img child none (sup.map fun _ => a.self) = .error r → ∃ s1 : State,
            (∀ p, p ≠ a.p → s1.part p = s.part p) ∧ (s1.part a.p).reserved = (s.part a.p).reserved.erase (child.toNat / 2 ^ 24 % 2 ^ 20) ∧
            t = s1.exitLetter (dieOfCluster a.cluster) a.self child { reason := r })) ∧
        (d ≠ s.device → s.lostmask.getLsbD d = false →
          ∃ q ∈ (t.peers.get d {}).ordered, q.item.work = .remote (.bear child img a.self sup) ∧ q.sentAt = none))) ∧
    (∀ (s : State) (a : Act) (base i : Nat) (x : Word) (w v : Actor), s.living a.p a.self = some w → s.living a.p x = some v →
      x.toNat / 2 ^ 24 % 2 ^ 20 ≠ a.self.toNat / 2 ^ 24 % 2 ^ 20 →
      (w.links.length < 32 → v.links.length < 32 → let t := s.depart a base (.link x) i
        ∃ w' v', t.living a.p a.self = some w' ∧ t.living a.p x = some v' ∧ x ∈ w'.links ∧ a.self ∈ v'.links) ∧
      (v.monitors.length < 32 → ∃ v', (s.depart a base (.mon x) i).living a.p x = some v' ∧ a.self ∈ v'.monitors)) ∧
    (∀ (s : State) (a : Act) (base i : Nat) (x : Word), x.toNat / 2 ^ 48 = s.device →
      (s.living a.p x = none → s.depart a base (.link x) i = s.refuseLink a.p a.self x 5 true ∧
        s.depart a base (.mon x) i = s.refuseLink a.p a.self x 5 false) ∧
      (x = a.self → s.depart a base (.kill x) i = s) ∧
      (x ≠ a.self → ∃ d, s.clock < d ∧ (d, .killPoint a.p x (.byActor a.self)) ∈ (s.depart a base (.kill x) i).timers)) ∧
    (∀ (s : State) (a : Act) (base i : Nat) (x : Word) (all v : Bool),
      (∀ w, s.actor? a.p a.slot = some w → ((s.depart a base (.exitmail v) i).actor? a.p a.slot) = some { w with exitMail := v }) ∧
      ∀ cl, (s.part a.p).holdsCluster cl = true →
        ((s.depart a base (.icinv x all) i).cluster cl).icache =
          (if all = true then [] else (s.cluster cl).icache.erase (x.toNat / 64)) ∧
        ∀ e ∈ ((s.depart a base (.tlbinv x all) i).cluster cl).tlb, all = false ∧ ¬ (e.va ≤ x.toNat ∧ x.toNat < e.va + e.leaf.size)) ∧
    (∀ (s : State) (a : Act) (base i d m : Nat) (rlx : Bool) (fn : BitVec 8) (w : FabWork), d ≠ s.device → s.lostmask.getLsbD d = false →
      let t := s.depart a base (.posted d rlx fn m (some w)) i
      ∀ y ∈ w.items, ∃ q ∈ (if rlx = true then (t.peers.get d {}).relaxed else (t.peers.get d {}).ordered), q.item.work = y ∧ q.item.poster = a.self ∧
        q.item.part = a.p ∧ q.fn = fn ∧ q.size = y.bytes ∧ q.sentAt = none))

/-- Failures and exits (R62, R344, R348, R360, R361, R364, R367, R370, R406, R420): a failed activation waits for its turn; then its record is
made, and once that is in the ring its letter goes with it (log 18) and its actor exits; at the budget every member that holds a context
traps, one that waits at the instruction after its wait, and the lowest gives the failure; a kill of an actor that lives, in a partition
without a fatal condition and with no group locked, is its exit, and one of a locked group's waits for it; an exit takes the activations
away and kills the children; once none is left (the two phases by log 102) it takes the actor away and tells a supervisor of this device,
with whose EXIT letter the restart engine acts. -/
def Obligations.FailuresAndExits : Prop :=
  (∀ (s : State) (n : Nat) (a : Act), s.acts.find? n = some a →
    (a.phase = .running → exec (.activationFail n) s = .next s) ∧
    (∀ f, a.phase = .failed f false → s.oldest n a = false → exec (.activationFail n) s = .next s) ∧
    (∀ f, a.phase = .failed f true →
      exec (.activationFail n) s = .next ((s.consume n a).exitActor a.p a.slot (f.exit a.letter.postmark) none)) ∧
    (∀ f, a.phase = .failed f false → s.oldest n a = true →
      let r := mkRecord s.now 1 f.cause.toNat f.info.toNat f.ctx.toNat f.flags.toNat 0 a.self a.letter.postmark f.epc f.enpc f.badaddr f.progress
      let q := s.record a.p r none [.activationFail n]
      (q.2 = true → exec (.activationFail n) s = .next ((q.1.consume n a).exitActor a.p a.slot (f.exit a.letter.postmark) none)) ∧
      (q.2 = false → exec (.activationFail n) s = .next (q.1.modAct n fun k => { k with phase := .failed f true }))) ∧
    (a.phase ≠ .running → exec (.budgetExpiry n) s = .next s) ∧
    (∀ c k l m r, a.phase = .running → a.members = l ++ m :: r → (∀ x ∈ l, x.ctx = none) → m.ctx = some c → s.ctxs.find? c = some k →
      exec (.budgetExpiry n) s = .next (((a.members.filterMap fun m => m.ctx).foldl (fun st c => st.budgetTrap a c) s).failAct n
        (((if k.wait.isSome then { k.advance with wait := none } else k).take { code := 0x30 }).failure c)))) ∧
  (∀ (s : State) (p : Nat) (target : Word) (why : KillWhy), (∀ l, why ≠ .overflow l) → s.living p target = none →
    exec (.killPoint p target why) s = .next s) ∧
  (∀ (s : State) (p : Nat) (target : Word) (l : Letter), s.living p target = none →
    exec (.killPoint p target (.overflow l)) s = .next (s.deadLetter l 4)) ∧
  (∀ (s : State) (p : Nat) (target : Word) (why : KillWhy) (w : Actor), s.living p target = some w →
    let gs := s.lockedGroups p (target.toNat / 2 ^ 24 % 2 ^ 20)
    ((s.part p).fatal ≠ none → exec (.killPoint p target why) s = .next s) ∧
    ((s.part p).fatal = none →
      (gs = [] → exec (.killPoint p target why) s = .next (s.exitActor p (target.toNat / 2 ^ 24 % 2 ^ 20) why.exit why.letter)) ∧
      (∀ gid r, gs = (gid, true) :: r → exec (.killPoint p target why) s = .next (s.postAt 1 (.killPoint p target why))) ∧
      ∀ gid r, gs = (gid, false) :: r → exec (.killPoint p target why) s = .next (s.postIn (.groupWithdrawal p gid target why)))) ∧
  (∀ (s : State) (p slot : Nat) (e : ExitRec) (w : Actor), s.actor? p slot = some w → (s.part p).actors.sorted = true → s.acts.sorted = true →
    w.leaving = none →
    let t := s.exitActor p slot e none
    (∀ n b, t.acts.find? n = some b → ¬ (b.p = p ∧ b.slot = slot)) ∧
    (w.code.toNat / 2 ^ 24 % 2 ^ 20 = slot → ∀ d ∈ w.children, d.dead = false → d.killing = false → d.code.toNat / 2 ^ 48 = s.device →
      (∃ v, t.actor? p slot = some v ∧ v.leaving.isSome = true) ∧
      ∃ due, s.clock < due ∧ (due, .killPoint p d.code (.bySupervisor w.code)) ∈ t.timers) ∧
    (w.children = [] → t.actor? p slot = none ∧
      ∀ sup, w.supervisor = some sup → sup.toNat / 2 ^ 48 = s.device →
        ∃ d l by_, (d, .letterArrival (sup.toNat / 2 ^ 44 % 16) l none) ∈ t.timers ∧ l.kind = 2 ∧ l.dest = sup ∧ l.sender = w.code ∧
          (d, .restartEvent p (sup.toNat / 2 ^ 24 % 2 ^ 20) w.code (BitVec.ofNat 8 e.reason) by_) ∈ t.timers))

/-- The restart decision and the rebuilding of children. -/
def Obligations.RestartsAndRebuilds : Prop :=
  -- An exit of a child (R59, R60, R61, R367, R368, R370): what its mode says of it; one that needs no restart leaves the list, and a slot kept
  -- for it elsewhere is let go (log 80); else the child is restarted while fewer than maxr events stand in the window, alone or with all the
  -- children, and the supervisor escalates when they do not; a supervisor that has escalated, or whose exit waits for its children, restarts
  -- none (R370); nothing is restarted in a fatal partition (R406).
  (
    (∀ (m : RestartMode) (reason : Nat) (bySup : Bool), m.restarts reason bySup = true ↔
      m = .always ∨ (m = .onFault ∧ reason ≠ 0 ∧ ¬ (reason = 1 ∧ bySup = true))) ∧
    (∀ (p sup : Nat) (child : Word) (reason : BitVec 8) (bySup : Bool) (s : State),
      let e : Instr := .restartEvent p sup child reason bySup
      (s.actor? p sup = none → exec e s = .next s) ∧
      ∀ w, s.actor? p sup = some w →
        (w.child? child = none → exec e s = .next s) ∧
        (∀ c, w.child? child = some c → (s.part p).fatal ≠ none → exec e s = .next s) ∧
        (∀ c, w.child? child = some c → (s.part p).fatal = none → w.escalated = true ∨ w.leaving ≠ none → exec e s = .next
          (((s.modActor p sup fun x => x.dropChild child).letGo p w.code child).checkExit p sup)) ∧
        ∀ c, w.child? child = some c → (s.part p).fatal = none → w.escalated = false → w.leaving = none → w.whole = none → c.dead = false →
          (c.mode.restarts reason.toNat bySup = false → exec e s = .next
            (let s1 := s.modActor p sup fun x => x.dropChild child
             if c.mode = .never then s1 else s1.letGo p w.code child)) ∧
          (c.mode.restarts reason.toNat bySup = true →
            ((w.history.filter fun h => s.now - h < w.img.window * 1500000).length < w.img.maxr →
              exec e s = .next (if w.img.whole then s.restartAll p sup w c s.now else s.restartOne p sup w c s.now)) ∧
            (w.img.maxr ≤ (w.history.filter fun h => s.now - h < w.img.window * 1500000).length →
              exec e s = .next (s.escalate p sup w c)))) ∧
    (∀ (p slot : Nat) (w : Actor) (c : Child) (s : State), s.actor? p slot = some w →
      let letGone := (s.modActor p slot fun w => { w.dropChild c.code with whole := none, escalated := true }).letGo p w.code c.code
      (w.supervisor ≠ none ∨ (letGone.part p).ringOn = false ∨ (letGone.part p).ringFull = false →
        .killPoint p w.code (.escalate c.code) ∈ (s.escalate p slot w c).agenda) ∧
      (w.supervisor = none → (letGone.part p).ringOn = true → (letGone.part p).ringFull = true →
        ∃ st ∈ ((s.escalate p slot w c).part p).stalled, .killPoint p w.code (.escalate c.code) ∈ st.cont) ∧
      ∃ v, (s.escalate p slot w c).actor? p slot = some v ∧ v.whole = none ∧ v.escalated = true ∧ ∀ x ∈ v.children, x.code ≠ c.code)) ∧
  -- The rest of the restart engine (R61, R369, R371): a whole restart rebuilds once every child has exited; another device's engine is
  -- answered; the report of a rebuild, which takes 64 bytes on its way as every request of the engines does (log 29), renews the child or ends
  -- it, or, where the supervisor is leaving, has the child killed again (R370); a kill goes to the child's kill point.
  (
    (∀ (p sup : Nat) (s : State),
      (s.actor? p sup = none → exec (.wholeRestartRebuild p sup) s = .next s) ∧
      ∀ w, s.actor? p sup = some w →
        (w.whole = none ∨ (∃ c ∈ w.children, c.killing = true) → exec (.wholeRestartRebuild p sup) s = .next s) ∧
        (w.whole ≠ none → (∀ c ∈ w.children, c.killing = false) →
          exec (.wholeRestartRebuild p sup) s = .next (s.rebuildFrom p sup w.code w.children))) ∧
    (∀ (p src img : Nat) (sup child : Word) (s : State),
      exec (.remoteRebuildRequest p src sup child img true) s = .next (s.post (.killPoint p child (.bySupervisor sup))) ∧
      (let slot := child.toNat / 2 ^ 24 % 2 ^ 20
       let answer := fun (t : State) (r : Option Word) (reason : BitVec 8) => t.enqueue src p false sup 0 0 64 (.remote (.rebuilt sup child r reason))
       let code := postcode s.device p slot (nextInc ((s.part p).last.get slot 0))
       (s.actor? p slot ≠ none ∨ (s.part p).reserved.find? slot ≠ none ∨ (∃ q, (s.part p).kept.find? slot = some q ∧ q.1 ≠ child) →
         exec (.remoteRebuildRequest p src sup child img false) s = .next (answer s none 9)) ∧
       (s.actor? p slot = none → (s.part p).reserved.find? slot = none → (∀ q, (s.part p).kept.find? slot = some q → q.1 = child) →
         (∀ t, s.birth p img code ((s.part p).homes.find? slot) (some sup) = .ok t →
           exec (.remoteRebuildRequest p src sup child img false) s = .next
             (answer (t.modActor p slot fun w => { w with kept := true }) (some code) 0)) ∧
         (∀ r, s.birth p img code ((s.part p).homes.find? slot) (some sup) = .error r →
           exec (.remoteRebuildRequest p src sup child img false) s = .next
             (answer (s.modPart p fun k => { k with kept := k.kept.erase slot }) none (BitVec.ofNat 8 r)))))) ∧
    (∀ (p : Nat) (sup child : Word) (res : Option Word) (reason : BitVec 8) (s : State),
      (s.living p sup = none → exec (.remoteCompletionReport p sup child res reason) s = .next s) ∧
      ∀ w, s.living p sup = some w →
        (w.child? child = none → exec (.remoteCompletionReport p sup child res reason) s = .next s) ∧
        ∀ c, w.child? child = some c →
          (∀ new, w.leaving ≠ none → exec (.remoteCompletionReport p sup child (some new) reason) s =
            .next ((((s.modActor p (pcSlot sup) fun w => w.modChild child fun x =>
              { x with code := new, dead := false, asked := false, killing := true }).sendKill p new sup true).letGo p sup new))) ∧
          (w.leaving ≠ none → exec (.remoteCompletionReport p sup child none reason) s =
            .next ((s.modActor p (pcSlot sup) fun w => w.dropChild child).checkExit p (pcSlot sup))) ∧
          (w.leaving = none → c.asked = false → exec (.remoteCompletionReport p sup child none reason) s = .next (s.endChild p (pcSlot sup) sup child reason.toNat)) ∧
          (∀ new, w.leaving = none → c.asked = true → w.whole = none → exec (.remoteCompletionReport p sup child (some new) reason) s =
            .next (s.bearChild p (pcSlot sup) sup child new c.img)) ∧
          (∀ new, w.leaving = none → c.asked = true → w.whole ≠ none → ∃ t, exec (.remoteCompletionReport p sup child (some new) reason) s = .next t ∧
            .wholeRestartRebuild p (pcSlot sup) ∈ t.agenda)))

/-- Actors are born; reservations and links of other devices. -/
def Obligations.BirthsAndRemoteRequests : Prop :=
  -- An actor comes into being (R52, R61, R66, R371): under the code it was given, of its image, at its home, with its supervisor, an empty
  -- mailbox and the partition's speculation depth; its incarnation is the last one used, its slot is reserved no more; without an image, or
  -- without its commons, it does not.
  (
    ∀ (p idx : Nat) (code : Word) (home : Option Nat) (sup : Option Word) (s : State),
      ((s.part p).images.find? idx = none → s.birth p idx code home sup = .error 10) ∧
      ∀ img, (s.part p).images.find? idx = some img →
        (∀ n, img.commons = some n → (s.part p).commons.find? n = none → s.birth p idx code home sup = .error 10) ∧
        ∀ t, s.birth p idx code home sup = .ok t → (s.part p).reserved.sorted = true →
          let slot := code.toNat / 2 ^ 24 % 2 ^ 20
          ∃ w, t.actor? p slot = some w ∧ w.code = code ∧ w.img = img ∧ w.supervisor = sup ∧ w.box = [] ∧ w.links = [] ∧ w.monitors = [] ∧
            w.children = [] ∧ w.depth = (s.part p).specMax ∧ w.exitMail = img.exitMail ∧ (∀ c, home = some c → w.cluster = c) ∧
            (t.part p).last.find? slot = some (code.extractLsb' 0 24) ∧ (t.part p).reserved.find? slot = none) ∧
  -- Spawns and links across devices (R52, R54, R56, R57, R249, R397): a reservation is answered with its postcode, or with the null postcode
  -- where the image is missing; the answer fills the result, releases a slot nobody waits for, ends the spawn as void, or fails the activation
  -- as the same spawn would here (log 26); these messages take 64 bytes on their way (log 29); a release frees the slot; a link enters the
  -- tables or is refused.
  (
    (∀ (p src serial img : Nat) (s : State), (s.part p).images.find? img = none → exec (.spawnReservationRequest p src serial img) s =
      .next (s.enqueue src p false 0 0 0 64 (.remote (.reserveReply serial true (some 0))))) ∧
    (∀ (p src serial img : Nat) (s : State), (s.part p).images.find? img ≠ none → exec (.spawnReservationRequest p src serial img) s =
      .next ((s.reserve p img).2.enqueue src p false 0 0 0 64 (.remote (.reserveReply serial true (s.reserve p img).1)))) ∧
    (∀ (serial : Nat) (ok : Bool) (s : State), s.remote.find? (fun r => r.serial == serial) = none →
      exec (.spawnReservationReply serial ok none) s = .next s ∧
      exec (.spawnReservationReply serial ok (some 0)) s = .next s ∧
      ∀ c, c ≠ 0 → exec (.spawnReservationReply serial ok (some c)) s =
        .next (s.enqueue (c.toNat / 2 ^ 48) (c.toNat / 2 ^ 44 % 16) false 0 0 0 64 (.remote (.release c)))) ∧
    (∀ (serial : Nat) (s : State) (r : RemoteSpawn) (a : Act) (k : Ctx) (child : Word), s.remote.find? (fun r => r.serial == serial) = some r →
      s.acts.find? r.act = some a → s.ctxs.find? r.ctx = some k →
      (∀ c, exec (.spawnReservationReply serial false c) s = .next (s.voidSpawn r 0x32)) ∧
      exec (.spawnReservationReply serial true none) s =
        .next ({ s with remote := s.remote.filter fun q => q.serial != serial }.failAct r.act (r.failure 0x33)) ∧
      exec (.spawnReservationReply serial true (some 0)) s =
        .next ({ s with remote := s.remote.filter fun q => q.serial != serial }.failAct r.act (r.failure 0x35)) ∧
      (child ≠ 0 → ∃ t k', exec (.spawnReservationReply serial true (some child)) s = .next t ∧ (∀ q ∈ t.remote, q.serial ≠ serial) ∧
        t.ctxs.find? r.ctx = some k' ∧ k'.x = k.x ∧ k'.pc = k.pc ∧
        (∀ v ∈ k'.vres, v.serial = serial → v.due = some (s.clock + 1) ∧ v.ws = [.x r.dest child]) ∧
        t.acts.find? r.act = some { a with outbox := a.outbox.map fun o => match o with
          | .spawn c i m v n => if n = serial then .spawn child i m false n else .spawn c i m v n
          | o => o })) ∧
    (∀ (p : Nat) (child : Word) (s : State), (s.part p).reserved.sorted = true → ∃ t, exec (.reservationRelease p child) s = .next t ∧
      let slot := child.toNat / 2 ^ 24 % 2 ^ 20
      (∀ i, (s.part p).reserved.find? slot = some (child, i) → (t.part p).reserved.find? slot = none) ∧
      (∀ c i, (s.part p).reserved.find? slot = some (c, i) → c ≠ child → (t.part p).reserved.find? slot = some (c, i)) ∧ t.acts = s.acts) ∧
    (∀ (p src : Nat) (issuer target : Word) (isLink : Bool) (s : State),
      (s.living p target = none → exec (.linkRequestArrival p src issuer target isLink) s =
        .next (s.enqueue src p false target 0 0 64 (.remote (.linkRefused issuer target 5 isLink)))) ∧
      ∀ w, s.living p target = some w →
        let ts := if isLink then w.links else w.monitors
        (issuer ∉ ts → 32 ≤ ts.length → exec (.linkRequestArrival p src issuer target isLink) s =
          .next (s.enqueue src p false target 0 0 64 (.remote (.linkRefused issuer target 9 isLink)))) ∧
        (issuer ∈ ts ∨ ts.length < 32 → ∃ t v, exec (.linkRequestArrival p src issuer target isLink) s = .next t ∧
          t.actor? p (pcSlot target) = some v ∧ issuer ∈ (if isLink then v.links else v.monitors) ∧
          (if isLink then v.monitors = w.monitors else v.links = w.links))))

/-! ## Host, management, fabric, faults -/

/-- Doorbells submit letters; the aperture reads and writes. -/
def Obligations.DoorbellsAndAperture : Prop :=
  -- A doorbell (R21, R288, R291, R401, R403): of a function that does not answer it is unsupported; a slot still in use makes a record; a
  -- letter the service core rejects has its status; another takes the next count and goes to the service core of its quadrant, one of a launch
  -- group or for a slot that holds nobody to die 0's, behind what that core was handed before; there it takes the host's postcode and goes to
  -- its mailbox; one whose slot another die's actor has taken since goes on from die 0 to that die's service core.
  (
    ∀ (p : Nat) (v : Word) (s : State),
      let slot := v.toNat % 16
      let k := s.part p
      let w := k.win.get slot {}
      let seq := (k.bells + 1) % 2 ^ 32
      let s1 := (s.modPart p fun k => { k with bells := k.bells + 1 }).setLwstat p slot seq 1
      let l := slotLetter w.image
      (s.hostOpen p = false → exec (.lwbell p v) s = .next (s.emit (.unsupported (p + 1) false))) ∧
      (s.hostOpen p = true →
        (w.stat.toNat % 256 = 1 → exec (.lwbell p v) s = .next (s.noteHost p slot 3 (w.stat.toNat / 256 % 2 ^ 32) 0)) ∧
        (w.stat.toNat % 256 ≠ 1 →
          (s.hostLetterOk p l = false → exec (.lwbell p v) s = .next (s1.setLwstat p slot seq 3)) ∧
          (s.hostLetterOk p l = true → s.actor? p (pcSlot l.dest) = none → exec (.lwbell p v) s = .next (s1.handOver 0 (.letter p slot seq l))) ∧
          (∀ a, s.hostLetterOk p l = true → s.actor? p (pcSlot l.dest) = some a → exec (.lwbell p v) s =
            .next (s1.handOver (if l.gsize ≠ 0 then 0 else dieOfCluster a.cluster) (.letter p slot seq l))))) ∧
      (∀ (die : Nat) (x : SvcWork), let n := if s.scFailed.getLsbD die then 0 else die
        ∃ d, (s.handOver die x).svc.get n [] = s.svc.get n [] ++ [⟨d, x⟩] ∧ s.clock ≤ d ∧ ∀ y ∈ s.svc.get n [], y.due ≤ d) ∧
      (∀ (n die : Nat) (m : Letter), m.postmark ≠ 0 → ∃ d, (d, .letterArrival (pcPart m.dest) { m with sender := postcode s.device p (0x80000 + die) 0 }
        (some (n, seq))) ∈ (s.issueHost p n die seq m).timers) ∧
      (∀ (n die : Nat) (m : Letter), let s0 := s.popWork die (.letter p n seq m)
        (s.scFailed.getLsbD die = true → exec (.serviceCoreLetter p n m die seq) s = .next (s0.loseHeld p n m die seq)) ∧
        (s.scFailed.getLsbD die = false → die ≠ 0 → exec (.serviceCoreLetter p n m die seq) s = .next (s0.issueHost p n die seq m)) ∧
        (∀ a, s.scFailed.getLsbD 0 = false → s.actor? p (pcSlot m.dest) = some a →
          let home := if s.scFailed.getLsbD (dieOfCluster a.cluster) then 0 else dieOfCluster a.cluster
          let s1 := s.popWork 0 (.letter p n seq m)
          (m.gsize ≠ 0 ∨ home = 0 → exec (.serviceCoreLetter p n m 0 seq) s = .next (s1.issueHost p n 0 seq m)) ∧
          (m.gsize = 0 → home ≠ 0 → exec (.serviceCoreLetter p n m 0 seq) s = .next (s1.handOver home (.letter p n seq m)))) ∧
        (s.scFailed.getLsbD 0 = false → s.actor? p (pcSlot m.dest) = none → m.postmark ≠ 0 →
          exec (.serviceCoreLetter p n m 0 seq) s = .next (((s.popWork 0 (.letter p n seq m)).deadLetter
            { m with sender := postcode s.device p 0x80000 0 } 2).setLwstat p n seq 5)))) ∧
  -- The aperture (R120, R289, R291, R401): a request goes line by line to the service cores of the dies that hold its lines, one that does not
  -- translate to die 0's (log 66); a read of readable lines that no commit holds is completed with their bytes; one that meets a poisoned line
  -- ends there with a poisoned completion and none of them; a line that may not be read, or written, makes the request unsupported; a locked
  -- line makes it wait; a write of a line commits alone, and aborts the readers of the line.
  (
    (∀ (p off : Nat) (s : State), s.hostOpen p = false → ∀ n bs,
      exec (.apertureRead p off (.sent n)) s = .next (s.emit (.unsupported (p + 1) false)) ∧
      exec (.apertureWrite p off (.sent bs)) s = .next (s.emit (.unsupported (p + 1) false))) ∧
    (∀ (p off : Nat) (s : State), s.hostOpen p = true → let base := bits ((s.part p).win' 0x1200) 32 20 * 2 ^ 32 + off % 2 ^ 32
      ∀ (e : Instr) (n : Nat) (wr : Option (List Byte)),
        (e = .apertureRead p off (.sent n) ∧ wr = none) ∨ (∃ bs, e = .apertureWrite p off (.sent bs) ∧ n = bs.length ∧ wr = some bs) →
        ∃ t r, exec e s = .next t ∧ t.requests = s.requests ++ [r] ∧ r.p = p ∧ r.off = off ∧ r.write = wr ∧ r.got = [] ∧
          r.lines.map (fun l => (l.die, l.va, l.n)) = (pieces base n).map (fun q => (s.dieAt p q.va, q.va, q.n)) ∧ t.dram = s.dram ∧ t.acts = s.acts) ∧
    (∀ (n p off : Nat) (s : State) (r : HostReq) (l : SvcLine) (ls : List SvcLine),
      s.requests.find? (fun q => q.serial == n) = some r → r.lines = l :: ls →
      ∀ e ∈ ([.apertureRead p off (.line n), .apertureWrite p off (.line n)] : List Instr),
      (s.hostOpen r.p = false → ∃ t, exec e s = .next t ∧ .unsupported (r.p + 1) false ∈ t.outputs ∧ (∀ q ∈ t.requests, q.serial ≠ n) ∧
        t.dram = s.dram) ∧
      (s.hostOpen r.p = true → r.write = none →
        (∀ bs, s.hostRead r.p l.va l.n = .ok bs false →
          (ls = [] → ∃ t, exec e s = .next t ∧ .readCompletion r.p (r.got ++ bs) false ∈ t.outputs ∧
            ∀ q ∈ t.requests, q.serial ≠ n) ∧
          (ls ≠ [] → ∃ t, exec e s = .next t ∧ t.dram = s.dram ∧ t.requests = s.requests.map fun q =>
            if q.serial == n then { r with lines := ls, got := r.got ++ bs } else q)) ∧
        (∀ bs, s.hostRead r.p l.va l.n = .ok bs true → ∃ t, exec e s = .next t ∧ .readCompletion r.p [] true ∈ t.outputs ∧
          (∀ q ∈ t.requests, q.serial ≠ n) ∧ t.acts = s.acts) ∧
        (s.hostRead r.p l.va l.n = .locked → exec e s = .next s) ∧
        (∀ w, s.hostRead r.p l.va l.n = .bad w →
          ∃ t, exec e s = .next t ∧ .unsupported (r.p + 1) true ∈ t.outputs ∧ (∀ q ∈ t.requests, q.serial ≠ n) ∧ t.acts = s.acts)) ∧
      (∀ (bs : List Byte) (f : Leaf), s.hostOpen r.p = true → r.write = some bs → s.walk r.p l.va = .leaf f →
        let pa := f.addr + l.va % f.size
        let s1 := s.lineWrite r.p l.va pa (bs.take l.n)
        (f.atomic = true → ∃ t, exec e s = .next t ∧ t.dram = s.dram.write pa (bs.take l.n) ∧ t.acts = s.acts) ∧
        (f.atomic = false → f.w = true → f.cow = false → s.lineBusy r.p l.va pa = true → exec e s = .next s) ∧
        (f.atomic = false → f.w = true → f.cow = false → s.lineBusy r.p l.va pa = false →
          ∃ t, exec e s = .next t ∧ t.dram = s1.dram ∧ t.acts = s1.acts ∧ t.parts = s1.parts) ∧
        (f.atomic = false → f.w = false ∨ f.cow = true →
          ∃ t, exec e s = .next t ∧ .unsupported (r.p + 1) true ∈ t.outputs ∧ (∀ q ∈ t.requests, q.serial ≠ n) ∧ t.acts = s.acts))) ∧
    (∀ (p va pa : Nat) (bs : List Byte) (s : State), s.acts.sorted = true → ∀ n a, s.acts.find? n = some a → a.p = p →
      sigMeets a.rsig (sigSet 0 va) = true → (s.lineWrite p va pa bs).acts.find? n = none))

/-- Commands of the host, and writes and reads of its registers. -/
def Obligations.HostCommandsAndRegisters : Prop :=
  -- The other requests of the host (R47, R290, R295, R317, R349, R375, R377): commons, keys, answers to repairs, notice and record ring words,
  -- the debug commands (a step asked for during a step does nothing: log 100). What is kept of a key's fields until valid is set is log 67.
  (
    (∀ (p id : Nat) (u : Bool) (s : State), ∃ t, exec (.cmncmdCreate p id u) s = .next t ∧
      let k := s.part p
      let fresh := k.commons.find? id = none ∧ s.commonsCount < 4096
      (fresh → (t.part p).commons = k.commons.set id u) ∧ (¬ fresh → (t.part p).commons = k.commons) ∧
      (t.part p).word 0x808 = BitVec.ofNat 64 ((if k.commons.find? id ≠ none then 2 else if 4096 ≤ s.commonsCount then 3 else 1) +
        2 ^ 16 * (t.part p).commons.length)) ∧
    (∀ (p id : Nat) (s : State), ∃ t, exec (.cmncmdDestroy p id) s = .next t ∧
      let k := s.part p
      let used := ∃ w ∈ k.actors, w.2.img.commons = some id
      (k.commons.find? id ≠ none → ¬ used → (t.part p).commons = k.commons.erase id) ∧
      (k.commons.find? id = none ∨ used → (t.part p).commons = k.commons) ∧
      ((t.part p).word 0x808).toNat % 2 ^ 16 ∈ [1, 4, 5]) ∧
    (∀ (p n : Nat) (key : BitVec 256) (ctr : BitVec 96) (owner : BitVec 16) (s : State),
      exec (.keyInstall p n key ctr owner false) s = .next s ∧
      (n < 256 → s.barOpen p = true → ∃ t, exec (.keyInstall p n key ctr owner true) s = .next t ∧
        let old := (s.part p).keys.get n {}
        (t.part p).keys.find? n = some { old with
          key := key, counter := if old.valid then old.counter else ctr, valid := true
          owner := if (s.part p).tdisp = .unlocked then owner else old.owner, exhausted := if old.valid then old.exhausted else false } ∧
        t.dram = s.dram)) ∧
    (∀ (p : Nat) (n : BitVec 32) (s : State), (s.part p).repairs.find? n.toNat = none →
      exec (.rprackRetry p n) s = .next s ∧ exec (.rprackFail p n) s = .next s) ∧
    (∀ (p c : Nat) (n : BitVec 32) (s : State) (r : Repair) (k : Ctx), (s.part p).repairs.find? n.toNat = some r → r.who = .context c →
      s.ctxs.find? c = some k → (∃ t, exec (.rprackRetry p n) s = .next t ∧ t.ctxs.find? c = some { k.eretRe with pause := none }) ∧
      exec (.rprackFail p n) s = .next ((s.modPart p fun q => { q with repairs := q.repairs.erase n.toNat }).failAct r.act (k.failure c))) ∧
    (∀ (p : Nat) (v : Word) (s : State), s.hostOpen p = true → (s.part p).owed = [] →
      ∃ t, exec (.ntcons p v) s = .next t ∧ (t.part p).win' 0x1318 = v ∧ t.acts = s.acts) ∧
    (∀ (p : Nat) (v : Word) (s : State), (s.part p).state = .ready → (s.part p).stalled = [] →
      ∃ t, exec (.dlcons p v) s = .next t ∧ (t.part p).word 0x418 = v ∧ t.acts = s.acts) ∧
    (∀ (n : Nat) (s : State), (∀ i, i < 8 → ∀ k, s.ctxs.find? (8 * n + i) = some k → k.inside s.clock = false) → (s.core n).halted = false →
      ∃ t, exec (.dbgctlHalt n) s = .next t ∧ (t.core n).halted = true ∧ bits (t.core n).dbgctl 4 3 = 1) ∧
    (∀ (n : Nat) (s : State), ∃ t, exec (.dbgctlResume n) s = .next t ∧ (t.core n).halted = false ∧ (t.core n).bp = (s.core n).bp) ∧
    (∀ (n c : Nat) (s : State), (s.core n).halted = true → (s.core n).dbgctl.getLsbD 8 = true →
      ∃ t, exec (.dbgctlStep n c) s = .next t ∧ t.core n = s.core n) ∧
    (∀ (n c : Nat) (s : State), c < 8 → (s.core n).halted = false ∨ (s.core n).dbgctl.getLsbD 8 = false →
      ∃ t, exec (.dbgctlStep n c) s = .next t ∧ bits (t.core n).dbgctl 9 3 = c ∧
      (t.core n).dbgctl.getLsbD 8 = ((s.core n).halted || (s.core n).dbgctl.getLsbD 8))) ∧
  -- Register writes (R8, R9, R64, R286, R332): they reach a function that answers, and a control block through BAR 2 of function 0 while its
  -- partition is set up; a word keeps its writable bits (the low bits of an aligned base keep 0: log 107), a read of it returns them, and no
  -- other word of the block changes; a word the block does not have takes nothing.
  (
    (∀ (sp : RegSpace) (off : Nat) (v : Word) (s : State), s.spaceOpen sp = false →
      exec (.registerWrite sp off v) s = .next (s.emit (.unsupported (RegSpace.fn sp) false))) ∧
    (∀ (p : Nat) (s : State),
      (s.spaceOpen .function0 = true ↔ s.fn0Session = true) ∧
      (s.spaceOpen (.control p) = true ↔ (s.part p).state = .ready ∧ (s.code = 1 ∨ (s.part p).tdisp = .run)) ∧
      (s.spaceOpen (.block p) = true ↔ s.fn0Session = true ∧ (s.part p).state = .ready) ∧
      (s.spaceOpen (.window p) = true → s.spaceOpen (.control p) = true ∧ (s.part p).fatal = none ∧ s.stopped = false)) ∧
    (∀ (p off : Nat) (v m : Word) (s : State) (sp : RegSpace), sp = .control p ∨ sp = .block p → s.spaceOpen sp = true → s.stopped = false →
      off ∈ [0x10, 0x80, 0x90, 0x98, 0xA0, 0xA8, 0xC0, 0xC8, 0xD0, 0xD8, 0x200, 0x208, 0x218, 0x228, 0x300, 0x500, 0x600, 0x608] →
      ctlMask off = some m → ∃ t, exec (.registerWrite sp off v) s = .next t ∧
        (t.part p).word off = ((s.part p).word off &&& ~~~m) ||| (v &&& m) ∧ (∀ o, o ≠ off → (t.part p).word o = (s.part p).word o) ∧
        t.hostReg sp off = some ((t.part p).word off) ∧ t.dram = s.dram ∧ t.acts = s.acts) ∧
    (∀ (p : Nat) (v : Word) (s : State) (sp : RegSpace), sp = .control p ∨ sp = .block p → s.spaceOpen sp = true →
      ∃ t, exec (.registerWrite sp 0x40 v) s = .next t ∧ let w := (t.part p).word 0x40
        w.toNat % 2 ^ 20 = v.toNat % 2 ^ 20 ∧ (∀ i ∈ [28, 29, 33], w.getLsbD i = v.getLsbD i) ∧
        (max 1 (w.toNat % 2 ^ 20) < w.toNat / 2 ^ 40 % 256 + 50 → w.getLsbD 48 = true)) ∧
    (∀ (p : Nat) (v : Word) (s : State) (sp : RegSpace), sp = .control p ∨ sp = .block p → s.spaceOpen sp = true →
      exec (.registerWrite sp 0x9000 v) s = .next s)) ∧
  -- What a host read of a register returns (R8, R9, R71, R295, R326, R330, R331, R332, R405): nothing where the function does not answer; of a
  -- stopped device only bootstat and devdmpstat; bootstat, pwrcap and a partition descriptor as the device stands; the scheduling word of a
  -- cluster of the partition, and zero for another; the state of a key entry and zero for its key; zero for a word that is only written.
  (
    (∀ (sp : RegSpace) (off : Nat) (s : State), s.spaceOpen sp = false → s.hostReg sp off = none) ∧
    (∀ (sp : RegSpace) (off : Nat) (s : State), s.stopped = true → sp ≠ .function0 ∨ (off ≠ 0 ∧ off ≠ 0x410) → s.hostReg sp off = none) ∧
    (∀ (s : State), s.stopped = true → s.fn0Session = true → ∃ w, s.hostReg .function0 0x410 = some w ∧ bits w 0 4 = bits (s.fn0Word 0x410) 0 4) ∧
    (∀ (s : State), s.fn0Session = true → s.stopped = false →
      (∃ w, s.hostReg .function0 0 = some w ∧ (s.bootStage < 16 → s.bootReason < 256 →
        (w.getLsbD 0 = true ↔ s.bootStage = 5) ∧ bits w 4 4 = s.bootStage ∧ bits w 8 8 = s.bootReason)) ∧
      ∃ w, s.hostReg .function0 0x800 = some w ∧ bits w 0 12 = (s.fn0Word 0x800).toNat % 4096 ∧ (w.getLsbD 12 = true ↔ s.gating ≠ 0 ∨ s.hot ≠ 0) ∧
        bits w 16 16 = s.power.toNat ∧ bits w 32 16 = (if s.code = 0 then 2150 else 2300)) ∧
    (∀ (p : Nat) (s : State) (sp : RegSpace), sp = .control p ∨ sp = .block p → s.spaceOpen sp = true → s.stopped = false →
      (∃ w, s.hostReg sp 0 = some w ∧ bits w 32 2 = 2 ∧ ((s.part p).err = true → w.getLsbD 2 = true) ∧ bits w 0 2 = bits (s.fn0Word (0x20000 + 16 * p)) 0 2) ∧
      (∀ cl, cl < 384 → s.hostReg sp (0x1000 + 8 * cl) = some (if (s.part p).row0 ≤ cl / 16 ∧ cl / 16 < (s.part p).row0 + (s.part p).nrows then
        s.clsched cl else 0)) ∧
      (∀ i, i < 256 → (∀ j, j < 4 → s.hostReg sp (0x4000 + 64 * i + 8 * j) = some 0) ∧
        ∃ w, s.hostReg sp (0x4000 + 64 * i + 0x30) = some w ∧ let e := (s.part p).keys.get i {}
          w.getLsbD 0 = e.valid ∧ w.getLsbD 1 = e.exhausted ∧ bits w 16 16 = e.owner.toNat) ∧
      s.hostReg sp 0x508 = some 0 ∧ s.hostReg sp 0x800 = some 0))

/-- Partitions (R20, R22, R288, R331, R408, R423): a set-up that overlaps, asks for too much, names no rows or comes after a device-fatal
condition sets err; another zeroes its rows and gives the partition its registers at reset and its system actor; a tear-down ends every
activation and actor and leaves the incarnations, but one of a fatal partition whose dump is not over sets err. -/
def Obligations.PartitionSetUpAndTearDown : Prop :=
  (∀ (p row0 nrows : Nat) (s : State), p < 16 → s.bootStage = 5 → let share := (s.fn0Word (0x20008 + 16 * p)).toNat % 2 ^ 10
    (s.setUpRefused p row0 nrows share = true → ∃ t, exec (.pdescSetUp p row0 nrows) s = .next t ∧ t.part p = { s.part p with err := true } ∧
      t.dram = s.dram ∧ t.scratch = s.scratch ∧ t.ctxs = s.ctxs) ∧
    (s.setUpRefused p row0 nrows share = false → ∃ t k w, exec (.pdescSetUp p row0 nrows) s = .next t ∧ t.part p = k ∧ k.state = .ready ∧
      k.row0 = row0 ∧ k.nrows = nrows ∧ k.ctl = [] ∧ k.groups = [] ∧ k.images = [] ∧ k.keys = [] ∧ k.fatal = none ∧ k.tdisp = .unlocked ∧
      k.last = (s.part p).last.set 0xFFFF 1 ∧ k.actors = [(0xFFFF, w)] ∧ w.code = postcode s.device p 0xFFFF 1 ∧ w.box = [] ∧ w.supervisor = none ∧
      (∀ c, row0 ≤ c / 2048 → c / 2048 < row0 + nrows → t.ctxs.find? c = none) ∧
      (∀ x, row0 ≤ x / 67108864 → x / 67108864 < row0 + nrows → t.scratch.get x = 0) ∧
      (∀ q, q ≠ p → t.part q = s.part q))) ∧
  (∀ (p row0 nrows share : Nat) (s : State), s.setUpRefused p row0 nrows share = false →
    s.fatal = none ∧ (s.part p).state = .free ∧ 0 < nrows ∧ row0 + nrows ≤ 24 ∧ 0 < share ∧ s.sharesUsed + share ≤ 536 ∧
    (∀ q k, s.parts.find? q = some k → k.state ≠ .free → row0 + nrows ≤ k.row0 ∨ k.row0 + k.nrows ≤ row0) ∧
    (s.code = 1 → p = 0 ∧ nrows = 24)) ∧
  (∀ (p : Nat) (s : State), p < 16 →
    ((s.part p).state ≠ .ready → ∃ t, exec (.pdescTearDown p) s = .next t ∧ t.part p = { s.part p with err := true } ∧ t.acts = s.acts) ∧
    ((s.part p).state = .ready → (s.part p).fatal = none → s.acts.sorted = true → ∃ t, exec (.pdescTearDown p) s = .next t ∧
      (t.part p).state = .free ∧ (t.part p).actors = [] ∧ (t.part p).last = (s.part p).last ∧ ∀ n b, t.acts.find? n = some b → b.p ≠ p) ∧
    ((s.part p).state = .ready → (s.part p).fatal ≠ none → bits ((s.part p).word 0x610) 0 4 ∉ [3, 4, 5, 6] →
      exec (.pdescTearDown p) s = .next (s.modPart p fun k => { k with err := true })))

/-- TDISP states and SPDM exchanges. -/
def Obligations.SecurityExchanges : Prop :=
  -- TDISP (R2, R294, R402): each request is answered by an interface that has TDISP, and with an error by one that has not; lock and start
  -- move from UNLOCKED to CONFIG_LOCKED to RUN and are errors elsewhere; stop ends every activation and actor and goes back to UNLOCKED; an
  -- IDE integrity failure goes to ERROR. The codes and the report's layout are the model's (log 28).
  (
    (∀ (p : Nat) (s : State), s.tdispOn p = false →
      ∀ e ∈ ([.getTdispVersion p, .getTdispCapabilities p, .lockInterfaceRequest p, .getDeviceInterfaceReport p, .getDeviceInterfaceState p,
          .startInterfaceRequest p, .stopInterfaceRequest p] : List Instr),
        exec e s = .next (s.emit (.tdisp p 0x7F []))) ∧
    (∀ (p : Nat) (s : State), s.tdispOn p = true →
      (exec (.getTdispVersion p) s = .next (s.emit (.tdisp p 1 []))) ∧ (exec (.getTdispCapabilities p) s = .next (s.emit (.tdisp p 2 []))) ∧
      (exec (.getDeviceInterfaceReport p) s = .next (s.emit (.tdisp p 4 (bytesOf 8 65536 ++ bytesOf 8 65536 ++ bytesOf 8 (2 ^ 32) ++
        (List.range 4).flatMap fun i => bytesOf 8 (if i % 2 = 1 ∧ (s.part p).msixMask.getLsbD (i / 2) = true then 2 ^ 32 else 0))))) ∧
      (exec (.getDeviceInterfaceState p) s = .next (s.emit (.tdisp p 5 [match (s.part p).tdisp with
        | .unlocked => 0
        | .configLocked => 1
        | .run => 2
        | .error => 3]))) ∧
      ((s.part p).tdisp = .unlocked → ∃ t, exec (.lockInterfaceRequest p) s = .next t ∧ (t.part p).tdisp = .configLocked ∧
        (t.part p).measure6 = some (s.part p).configBytes ∧ .tdisp p 3 [] ∈ t.outputs) ∧
      ((s.part p).tdisp ≠ .unlocked → exec (.lockInterfaceRequest p) s = .next (s.emit (.tdisp p 0x7F []))) ∧
      ((s.part p).tdisp = .configLocked → ∃ t, exec (.startInterfaceRequest p) s = .next t ∧ (t.part p).tdisp = .run ∧
        .tdisp p 6 [] ∈ t.outputs ∧ ((s.part p).owed = [] → t.part p = { s.part p with tdisp := .run })) ∧
      ((s.part p).tdisp ≠ .configLocked → exec (.startInterfaceRequest p) s = .next (s.emit (.tdisp p 0x7F []))) ∧
      (s.acts.sorted = true → (s.part p).actors.sorted = true → ∃ t, exec (.stopInterfaceRequest p) s = .next t ∧
        (t.part p).tdisp = .unlocked ∧ (t.part p).actors = [] ∧ .tdisp p 7 [] ∈ t.outputs ∧ ∀ n b, t.acts.find? n = some b → b.p ≠ p) ∧
      (∃ t, exec (.ideIntegrityFailure (some p)) s = .next t ∧ (t.part p).tdisp = .error ∧ t.ide = setBit s.ide p false)) ∧
    (∀ (s : State), exec (.ideIntegrityFailure none) s = .next { s with fn0Session := false, ideOn := false, spdm := s.spdm.erase 0 }) ∧
    (∀ (p : Nat) (s : State), (s.part p).state = .ready → (s.tdispOn p = true ↔ s.code ≠ 1))) ∧
  -- SPDM 1.3 (R292, R293, R402): the requests are answered in the order of the exchange, and another order is an error; a session begins with
  -- the key exchange, stands from finish on, and ends; a session on function 0 brings the keys of the link stream and of the selective streams
  -- in the same event (log 95). The codes are the model's (log 28).
  (
    (∀ (fn : Nat) (nonce : BitVec 256) (keyed : List (Option Nat)) (s : State), s.hasFn fn = true → let q := s.spdm.get fn {}
      let answered := fun (e : Instr) (code : Nat) (data : List Byte) (r : Spdm) =>
        ∃ t, exec e s = .next t ∧ t.outputs = s.outputs ++ [.spdm fn code data] ∧ t.spdm.find? fn = some r ∧ t.dram = s.dram ∧ t.acts = s.acts
      answered (.getVersion fn) 0x04 [0, 1, 0, 0x13] { version := true } ∧
      (q.version = true → answered (.getCapabilities fn) 0x61 [] { q with caps := true }) ∧
      (q.caps = true → answered (.negotiateAlgorithms fn) 0x63 [1, 1, 2, 3, 4] { q with algs := true }) ∧
      (q.algs = true → answered (.getDigests fn) 0x01 (bytesOf 48 (Config.sha384 Config.certificate).toNat) q ∧
        answered (.getCertificate fn) 0x02 Config.certificate q ∧
        answered (.getMeasurements fn) 0x60 (s.measurements fn) q ∧
        answered (.challenge fn nonce) 0x03 (bytesOf 96 (Config.sign (Config.sha384 (bytesOf 32 nonce.toNat ++ s.measurements fn))).toNat) q ∧
        answered (.keyExchange fn) 0x64 (Config.share s.free ++ bytesOf 96 (Config.sign (Config.sha384 (Config.share s.free))).toNat) { q with session := true, finished := false }) ∧
      (q.session = true → answered (.finish ⟨fn, keyed⟩) 0x65 [] { q with finished := true } ∧
        answered (.endSession fn) 0x6C [] { q with session := false, finished := false } ∧
        (fn = 0 → ∃ t, exec (.finish ⟨fn, keyed⟩) s = .next t ∧ (none ∈ keyed → t.fn0Session = true ∧ t.ideOn = true) ∧
          ∀ p, p < 16 → (t.ide.getLsbD p = true ↔ s.ide.getLsbD p = true ∨ some p ∈ keyed))) ∧
      let wrong := fun (e : Instr) => exec e s = .next (s.emit (.spdm fn 0x7F []))
      (q.version = false → wrong (.getCapabilities fn)) ∧ (q.caps = false → wrong (.negotiateAlgorithms fn)) ∧
      (q.algs = false → wrong (.getDigests fn) ∧ wrong (.getCertificate fn) ∧ wrong (.challenge fn nonce) ∧ wrong (.getMeasurements fn) ∧
        exec (.keyExchange fn) s = .next ({ s with free := s.free + 1 }.emit (.spdm fn 0x7F []))) ∧
      (q.session = false → wrong (.finish ⟨fn, keyed⟩) ∧ wrong (.endSession fn))) ∧
    (∀ (fn : Nat) (s : State), (s.measurements fn).length = (if fn = 0 then 240 else 288)))

/-- Firmware, reset, power and the checks of the cores. -/
def Obligations.FirmwareResetAndChecks : Prop :=
  -- Firmware, reset, power, heat (R325 to R330): an update that verifies and is new enough is kept for the next reset, which applies all of
  -- them in order and leaves every other field at its reset value (log 65); the bring-up stops at the first check that fails, with its reason;
  -- pwrcap stands between 800 W and the limit of the part; gating is in force above the cap, and holds the average at it (log 34); a die at
  -- 110 °C makes the device fatal.
  (
    (∀ (f : Firmware) (s : State), exec (.firmwareUpdate f) s = .next (if Config.verifies (Config.sha384 f.bytes) f.signature = true ∧
      s.minVersion.toNat ≤ f.version.toNat then { s with updates := s.updates ++ [f] } else s)) ∧
    (∀ (fuses trained : Bool) (s : State), ∃ t, exec (.reset ⟨fuses, trained⟩) s = .next t ∧ t = { State.reset with
        code := s.code, free := s.free, serial := s.serial, measures := t.measures, minVersion := t.minVersion, flash := t.flash
        bootStage := t.bootStage, bootReason := t.bootReason } ∧
      (s.updates = [] → t.flash = s.flash ∧ t.minVersion = s.minVersion) ∧
      (∀ fs f, s.updates = fs ++ [f] → t.flash.find? f.index = some f ∧ s.minVersion.toNat ≤ t.minVersion.toNat ∧
        (f.raise = true → f.version.toNat ≤ t.minVersion.toNat)) ∧
      let bad := imageBad t.flash t.minVersion
      (fuses = false → t.bootStage = 1 ∧ t.bootReason = 4) ∧ (fuses = true → trained = false → t.bootStage = 1 ∧ t.bootReason = 3) ∧
      (fuses = true → trained = true →
        (∀ r, bad 2 = some r → t.bootStage = 2 ∧ t.bootReason = r) ∧
        (∀ r, bad 2 = none → (bad 3 = some r ∨ (bad 3 = none ∧ bad 4 = some r)) → t.bootStage = 3 ∧ t.bootReason = r) ∧
        (bad 2 = none → bad 3 = none → bad 4 = none → t.bootStage = 5 ∧ t.bootReason = 0 ∧ t.measures.length = 5)) ∧
      (t.bootStage = 5 → ∀ i f, 1 ≤ i → i ≤ 4 → t.flash.find? i = some f → t.measures.find? i = some (Config.sha384 f.bytes))) ∧
    (∀ (cap : BitVec 12) (s : State), s.code < 3 → ∃ t, exec (.pwrcap cap) s = .next t ∧ let w := (t.fn0Word 0x800).toNat
      800 ≤ w ∧ w ≤ (if s.code = 0 then 2150 else 2300) ∧ (800 ≤ cap.toNat → cap.toNat ≤ (if s.code = 0 then 2150 else 2300) → w = cap.toNat) ∧
      t.acts = s.acts) ∧
    (∀ (watts : BitVec 16) (s : State), ∃ t, exec (.powerAverageUpdate watts) s = .next t ∧
      t.power.toNat = min watts.toNat ((s.fn0Word 0x800).toNat % 4096) ∧ (t.gating ≠ 0 ↔ (s.fn0Word 0x800).toNat % 4096 < watts.toNat)) ∧
    (∀ (die celsius : Nat) (s : State), die < 4 → ∃ t, exec (.junctionTemperature die celsius) s = .next t ∧
      t.hot = setBit s.hot die (decide (95 ≤ celsius)) ∧ t.temps = setAt s.temps die celsius ∧ (110 ≤ celsius → .fatalCondition 19 none die 0 0 ∈ t.agenda) ∧
      (celsius < 110 → t.agenda = s.agenda))) ∧
  -- Checks of the cores (R403, R405): an answer clears a die's misses (log 111), silence adds one; at the third a service core of dies 1 to 3
  -- has failed, that of die 0 or a management core makes the device fatal; without die 0's management core the device stops.
  (
    (∀ (ans : BitVec 4) (s : State), s.scMissed.length = 4 → ∃ t, exec (.serviceCoreCheck ans) s = .next t ∧
      (∀ d, d < 4 → t.scMissed[d]? = some (if ans.getLsbD d then 0 else s.scMissed.getD d 0 + 1)) ∧
      (∀ d, 1 ≤ d → d < 4 → t.scFailed.getLsbD d = (s.scFailed.getLsbD d || (!ans.getLsbD d && s.scMissed.getD d 0 == 2))) ∧
      (ans.getLsbD 0 = false → s.scMissed.getD 0 0 = 2 → s.scFailed.getLsbD 0 = false → .fatalCondition 18 none 0 0 0 ∈ t.agenda)) ∧
    (∀ (ans : BitVec 4) (s : State), s.mcMissed.length = 4 → ∃ t, exec (.managementCoreCheck ans) s = .next t ∧
      (∀ d, d < 4 → t.mcMissed[d]? = some (if ans.getLsbD d then 0 else s.mcMissed.getD d 0 + 1)) ∧
      (∀ d, 1 ≤ d → d < 4 → ans.getLsbD d = false → s.mcMissed.getD d 0 = 2 → .fatalCondition 20 none d 0 0 ∈ t.agenda)) ∧
    (∀ (s : State), ∃ t, exec .die0ManagementCoreFailure s = .next t ∧ t.stopped = true ∧ (t.fn0Word 0x410).toNat % 16 = 7))

/-- The mesh (R323, R391, R392, R393): every flit is counted at the output of the router it comes from, whose rows run southwards (log 33), and
kept among the last 32 sent over its link; one damaged before forwarding comes again from there; one damaged later has its router stomp the
tail of its packet; a stomped packet is discarded whole; another is performed when its sequence is the one expected and acknowledged, a
duplicate is acknowledged again, a later one waits for the resend; what is not acknowledged for 4,096 cycles goes again with all that follow
it, and the seventeenth resend is device fatal; a refused request comes again after 64 × 2^min(a, 4) cycles; a held entry is freed at its
time. -/
def Obligations.MeshDelivery : Prop :=
  (∀ (router up cls flit : Nat) (ok fw tail : Bool) (s : State), let i := 16 * up + 3 * outPort up router + cls % 3
    let k := 384 * up + router
    let s1 := { s with
      flits := s.flits.set i (s.flits.get i 0 + 1), linkFlits := s.linkFlits.set k ((flit :: s.linkFlits.get k []).take 32) }
    let e : Instr := .flitArrival router ⟨up, cls, flit⟩ ok fw tail
    (ok = false → fw = false → exec e s = .next (s1.emit (.replay up flit))) ∧
    (ok = false → fw = true → tail = false → exec e s = .next { s1 with stomping := (router, up, cls) :: s.stomping.erase (router, up, cls) }) ∧
    (tail = true → (ok = false ∧ fw = true) ∨ (ok = true ∧ (router, up, cls) ∈ s.stomping) →
      exec e s = .next ({ s1 with stomping := s.stomping.erase (router, up, cls) }.emit (.stomp router))) ∧
    (ok = true → tail = false ∨ (router, up, cls) ∉ s.stomping → exec e s = .next s1)) ∧
  (∀ (src dst cls : Nat) (seq : BitVec 12) (msg : MeshMsg) (s : State), msg.whole = msg → let m := s.meshPair src dst cls
    let s1 := (s.setMeshPair { m with expect := m.expect + 1, replay := m.replay.filter fun q => q.seq != seq }).emit (.meshAck src dst cls seq)
    (seq = m.expect → exec (.meshPacketArrival src dst cls seq false msg) s = .next (msg.arrive s1) ∧
      exec (.meshPacketArrival src dst cls seq true msg) s =
        .next (s1.requestForward dst { requester := src, count := 0, first := s.clock, queued := false, msg := msg })) ∧
    (2048 ≤ (seq - m.expect).toNat → ∀ nf, ∃ t, exec (.meshPacketArrival src dst cls seq nf msg) s = .next t ∧
      .meshAck src dst cls seq ∈ t.outputs ∧ t.agenda = s.agenda ∧ (t.meshPair src dst cls).expect = m.expect) ∧
    (seq ≠ m.expect → (seq - m.expect).toNat < 2048 → (∀ q ∈ m.replay, q.seq ≠ seq) → ∀ nf,
      ∃ t, exec (.meshPacketArrival src dst cls seq nf msg) s = .next t ∧ (s.clock + 4096, .packetResendTimeout src dst cls) ∈ t.timers ∧
        (t.meshPair src dst cls).expect = m.expect ∧ ∃ q ∈ (t.meshPair src dst cls).replay, q.seq = seq ∧ q.msg = msg)) ∧
  (∀ (src dst cls : Nat) (seq : BitVec 12) (msg : MeshMsg) (s : State) (nf : Bool), let m := s.meshPair src dst cls
    (∀ q ∈ m.replay, q.seq ≠ seq) → ∃ t, exec (.meshPacketArrival src dst cls seq nf (.stomped msg)) s = .next t ∧
      t.agenda = s.agenda ∧ t.outputs = s.outputs ∧ (s.clock + 4096, .packetResendTimeout src dst cls) ∈ t.timers ∧
      (t.meshPair src dst cls).expect = m.expect ∧ ∃ q ∈ (t.meshPair src dst cls).replay, q.seq = seq ∧ q.msg = msg.whole) ∧
  (∀ (src dst cls : Nat) (s : State), let m := s.meshPair src dst cls
    let e : Instr := .packetResendTimeout src dst cls
    ((∀ q ∈ m.replay, s.clock < q.sentAt + 4096) → exec e s = .next s) ∧
    ∀ l q r, m.replay = l ++ q :: r → (∀ x ∈ l, s.clock < x.sentAt + 4096) → q.sentAt + 4096 ≤ s.clock →
      ((∃ x ∈ q :: r, 16 ≤ x.resends) → exec e s = .next (s.post (.fatalCondition 17 none 0 0 0))) ∧
      ((∀ x ∈ q :: r, x.resends < 16) → ∃ t, exec e s = .next t ∧
        t.agenda = s.agenda ++ (q :: r).map (fun x => .meshPacketArrival src dst cls x.seq x.needsForward x.msg) ∧
        (s.clock + 4096, .packetResendTimeout src dst cls) ∈ t.timers ∧
        (t.meshPair src dst cls).replay = l ++ (q :: r).map fun x => { x with resends := x.resends + 1, sentAt := s.clock })) ∧
  (∀ (target req : Nat) (s : State), let ready := fun (r : Refusing) => r.requester = req ∧ r.retryAt ≤ s.clock
    ((∀ r ∈ (s.forward target).waiting, ¬ ready r) → exec (.refusedRequestRetry target req) s = .next s) ∧
    ∀ l r q, (s.forward target).waiting = l ++ r :: q → ready r → (∀ x ∈ l, ¬ ready x) →
      exec (.refusedRequestRetry target req) s = .next (s.requestForward target r)) ∧
  (∀ (f : Forward) (r : Refusing) (s : State), let t := s.refuseRequest f r
    (s.clock + 64 * 2 ^ min (r.count + 1) 4, .refusedRequestRetry f.target r.requester) ∈ t.timers ∧
    .refusal f.target r.requester ∈ t.outputs ∧ ∃ q ∈ (t.forward f.target).waiting, q.requester = r.requester ∧ q.count = r.count + 1 ∧
      q.msg = r.msg ∧ q.first = r.first ∧ (∀ x ∈ f.waiting, x ≠ r → x ∈ (t.forward f.target).waiting)) ∧
  (∀ (target : Nat) (s : State),
    ((s.forward target).heldUntil = none → exec (.reservationHoldExpiry target) s = .next s) ∧
    (∀ d, (s.forward target).heldUntil = some d → s.clock < d → exec (.reservationHoldExpiry target) s = .next s) ∧
    (∀ d, (s.forward target).heldUntil = some d → d ≤ s.clock → (s.forward target).target = target →
      ∃ t, exec (.reservationHoldExpiry target) s = .next t ∧ t.forward target = { s.forward target with heldUntil := none }))

/-- Sending and receiving in the fabric, and lost devices. -/
def Obligations.FabricLinks : Prop :=
  -- Sending on the fabric (R298, R300, R301, R339, R394, R395, R397): a slot without a peer does nothing; an opportunity opens its slot;
  -- ordered bytes are given to the lanes from the head of the queue, none of an item before all of those ahead of it, and no more than there
  -- is room for; a relaxed item leaves only whole; frames follow each other at the lane rate, those that have not begun to leave in the order
  -- ordered, relaxed, relayed, and go out when their last byte has left, or as their slot ends; a relaxed item not acknowledged within two
  -- rotations of its last sending is sent again.
  (
    (∀ (port slot : Nat) (s : State), s.slotPeer port slot = none → exec (.fabricOpportunity port slot) s = .next s) ∧
    (∀ (port slot b : Nat) (s : State), s.slotPeer port slot = some b → (s.openSlot port slot b).lostmask.getLsbD b = true →
      exec (.fabricOpportunity port slot) s = .next (s.openSlot port slot b)) ∧
    (∀ (port slot b : Nat) (s : State), s.slotPeer port slot = some b → s.lostmask.getLsbD b = false →
      ∃ t fs, exec (.fabricOpportunity port slot) s = .next t ∧ t.outputs = (s.openSlot port slot b).outputs ++ fs ∧
        (∀ f ∈ fs, ∃ i, f = .frame port b i) ∧ t.acts = s.acts ∧ t.dram = s.dram) ∧
    (∀ (n : Nat) (qs : List Queued) (x : Sending), let r := sendOrdered n qs x
      r.2.room ≤ x.room ∧ r.1.length = qs.length ∧
      (qs.map fun q => q.item.sent).sum + x.room = (r.1.map fun q => q.item.sent).sum + r.2.room ∧
      r.2.out = x.out ++ ((qs.zip r.1).filterMap fun p => if p.1.sentAt = none ∧ (p.2.sentAt ≠ none ∨ p.1.item.sent ≠ p.2.item.sent) then
        some { p.2.item with first := p.1.item.sent } else none) ∧
      ∀ (i j : Nat) (a b c : Queued), i < j → r.1[i]? = some a → r.1[j]? = some b → qs[j]? = some c → b ≠ c → a.sentAt ≠ none) ∧
    (∀ (n credit : Nat) (qs : List Queued) (x : Sending), let r := sendRelaxed n qs credit x
      r.2.2.room ≤ x.room ∧ r.1.length = qs.length ∧ ∀ i ∈ r.2.2.out, i ∈ x.out ∨ ∃ q ∈ qs, q.sentAt = none ∧ q.size ≤ x.room ∧
        q.size ≤ credit ∧ i = { q.item with sent := q.size }) ∧
    (∀ (x : PortSlot) (dev now start : Nat) (fs : List FabItem), let y := x.give dev now start fs
      y.out.length = x.out.length + fs.length ∧
      (y.cursor = if fs = [] then x.cursor else start + 12 * (fs.map fun i => i.sent - i.first).sum) ∧
      (fs ≠ [] → ∃ ys, y.out = (x.out.filter fun f => decide (f.1 - 12 * (f.2.sent - f.2.first) < now)) ++ ys ∧
        (ys.map fun f => f.2.rank dev x.peer).Pairwise (· ≤ ·))) ∧
    (∀ (port : Nat) (x : PortSlot) (s : State), ∀ f ∈ x.out, .frame port x.peer f.2 ∈ (s.closeSlot port x).outputs) ∧
    (∀ (port b : Nat) (s : State) (x : PortSlot), s.ports.find? port = some x →
      (s.leave port b).outputs = s.outputs ++ ((x.out.filter fun f => decide (f.1 ≤ (s.dataTime + 1) * s.portRate port)).map fun f => .frame port b f.2)) ∧
    (∀ (d : Nat) (seq : BitVec 32) (s : State), ∃ t, exec (.relaxedResendTimeout d seq) s = .next t ∧ t.peers.get d {} =
      { s.peers.get d {} with relaxed := (s.peers.get d {}).relaxed.map fun q =>
          if q.item.seq = seq ∧ (∃ n, q.sentAt = some n ∧ n + 2 * s.nslots ≤ s.slotNumber) then { q with sentAt := none, again := true, item := { q.item with sent := 0 } } else q } ∧
      ∀ b, b ≠ d → t.peers.get b {} = s.peers.get b {})) ∧
  -- Receiving on the fabric (R300, R303, R394, R400): frames of a lost device, or by a port not in use, do nothing, a damaged one is counted;
  -- a relaxed item is performed once; an ordered one behind the sequence is dropped, a piece of one that is not complete is kept with its
  -- bytes, and the next one, once complete, is performed and the sequence goes on; a partition that does not take items of a device refuses
  -- them; a refused letter is dead, and a refused rebuild ends its restart (log 104).
  (
    (∀ (port src : Nat) (i : FabItem) (ok : Bool) (s : State), s.lostmask.getLsbD src = true ∨ s.portRate port = 0 →
      exec (.fabricItemArrival ⟨port, src⟩ i ok) s = .next s ∧ ∀ c a b m l, exec (.creditWordArrival ⟨port, src⟩ c a b m l) s = .next s) ∧
    (∀ (port src : Nat) (i : FabItem) (s : State), s.lostmask.getLsbD src = false → s.portRate port ≠ 0 →
      exec (.fabricItemArrival ⟨port, src⟩ i false) s = .next (s.linkErr port 32 1)) ∧
    (∀ (port src : Nat) (i : FabItem) (s : State), s.lostmask.getLsbD src = false → s.portRate port ≠ 0 → i.dst = s.device →
      let h := s.hear port src
      let po := h.peers.get i.src {}
      let ps := h.peers.get src {}
      (i.relaxed = true → i.seq ∈ po.gotRelaxed → exec (.fabricItemArrival ⟨port, src⟩ i true) s =
        .next { h with peers := h.peers.set i.src { po with gotRelaxed := gotSeq po.gotRelaxed i.seq } }) ∧
      (i.relaxed = true → i.seq ∉ po.gotRelaxed →
        let p1 : Peer := { po with gotRelaxed := gotSeq po.gotRelaxed i.seq, waiting := po.waiting ++ [i] }
        let h1 : State := { h with peers := h.peers.set i.src p1 }
        (h1.takeLines i 64 = .locked → exec (.fabricItemArrival ⟨port, src⟩ i true) s = .next h1) ∧
        ∀ s1, h1.takeLines i 64 = .done s1 → ∃ t, exec (.fabricItemArrival ⟨port, src⟩ i true) s = .next t ∧ t = { s1 with peers := t.peers } ∧
          t.peers.get i.src {} = { s1.peers.get i.src {} with waiting := (s1.peers.get i.src {}).waiting.erase i }) ∧
      (i.relaxed = false → behind i.seq ps.expectOrdered = true → exec (.fabricItemArrival ⟨port, src⟩ i true) s = .next h) ∧
      (i.relaxed = false → behind i.seq ps.expectOrdered = false → (∀ e ∈ ps.early, e.seq ≠ i.seq) → (ps.addPiece i).2 = none →
        exec (.fabricItemArrival ⟨port, src⟩ i true) s = .next { h with peers := h.peers.set src (ps.addPiece i).1 }) ∧
      (∀ whole, i.relaxed = false → (ps.addPiece i).2 = some whole → i.seq.toNat = ps.expectOrdered → ps.early = [] →
        ∀ s1, ({ h with peers := h.peers.set src { (ps.addPiece i).1 with early := [whole] } } : State).takeLines whole 64 = .done s1 →
        ∃ t, exec (.fabricItemArrival ⟨port, src⟩ i true) s = .next t ∧ t = { s1 with peers := t.peers } ∧
          (t.peers.get src {}).expectOrdered = ps.expectOrdered + 1 ∧ (t.peers.get src {}).early = [])) ∧
    (∀ (k : Peer) (i : FabItem), (∀ x ∈ k.partials, x.1 ≠ i.seq) →
      ((k.addPiece i).2 ≠ none ↔ FabWork.size i.work = 0 ∨ (i.first = 0 ∧ FabWork.size i.work ≤ i.sent)) ∧
      ((k.addPiece i).2 = none → ∀ (j : FabItem) (a : Word) (d e : List Byte), j.seq = i.seq → i.work = .write a d → j.work = .write a e →
        d.length = e.length → i.first = 0 → j.first = i.sent → e.length ≤ j.sent →
        ((k.addPiece i).1.addPiece j).2 = some { j with work := .write a (d.take i.sent ++ e.drop i.sent) })) ∧
    (∀ (i : FabItem) (s : State) (a : Word) (d : List Byte), i.work = .write a d → s.accepts' i.part i.src = false →
      s.takeItem i = .done (s.refuseItem i 0x06 d.length)) ∧
    (∀ (i : FabItem) (s : State) (l : Letter), i.work = .letter l false → s.accepts' i.part i.src = true →
      ∃ t d, s.takeItem i = .done t ∧ (d, .letterArrival (pcPart l.dest) (if l.kind = 1 then l.setNewbase 0 else l) none) ∈ t.timers ∧
        s.clock < d) ∧
    (∀ (port src credit : Nat) (ack base : BitVec 32) (map : BitVec 64) (s : State), s.lostmask.getLsbD src = false → s.portRate port ≠ 0 →
      ∃ t, exec (.creditWordArrival ⟨port, src⟩ credit ack base map 0) s = .next t ∧ (t.peers.get src {}).credit = credit ∧
        (∀ q ∈ (t.peers.get src {}).relaxed, q.sentAt.isSome = true → relaxedAcked base map q.item.seq = false) ∧ t.acts = s.acts) ∧
    (∀ (src serial : Nat) (bs : List Byte) (den : List Nat) (cause : Option (BitVec 8)) (s : State),
      (∀ f ∈ s.fab, ¬ (f.cmd.serial = serial ∧ f.device = src)) → exec (.fabricReadResponse src serial bs den cause) s = .next s) ∧
    (∀ (src serial : Nat) (bs : List Byte) (den : List Nat) (cause : Option (BitVec 8)) (s : State) (f : FabCmd) (r : List FabCmd), s.fab = f :: r →
      f.cmd.serial = serial → f.device = src → ∃ w : Word, exec (.fabricReadResponse src serial bs den cause) s =
        .next ({ s with free := s.free + 1 }.fabRespond f bs den (cause.map BitVec.toNat) (w.setWidth 16))) ∧
    (∀ (src : Nat) (seq : BitVec 32) (rlx : Bool) (cause : BitVec 8) (lost : Nat) (s : State), let pr := s.peers.get src {}
      let all := pr.sent ++ (if rlx then pr.relaxed else pr.ordered)
      ((∀ q ∈ all, ¬ (q.item.seq = seq ∧ q.item.relaxed = rlx)) → exec (.refusalResponseArrival src seq rlx cause lost) s = .next s) ∧
      ∀ x q y, all = x ++ q :: y → q.item.seq = seq → q.item.relaxed = rlx → (∀ z ∈ x, ¬ (z.item.seq = seq ∧ z.item.relaxed = rlx)) →
        exec (.refusalResponseArrival src seq rlx cause lost) s = .next (s.refused q cause.toNat lost)) ∧
    (∀ (q : Queued) (l : Letter) (token : Bool) (cause lost : Nat) (s : State), q.item.work = .letter l token →
      s.refused q cause lost = s.deadLetter l 9) ∧
    (∀ (q : Queued) (sup child : Word) (img cause lost : Nat) (s : State), q.item.work = .remote (.rebuild sup child img) →
      s.refused q cause lost = s.post (.remoteCompletionReport q.item.part sup child none 5))) ∧
  -- Lost devices (R396, R397, R398): at the end of a rotation each device met directly is heard or missing; the third miss in a row loses it;
  -- a lost device has its bit, what was bound for it and what came of it in part is discarded, and a watcher, and the supervisor of a child
  -- there, is owed its letter by the keystone of its home die, with the letter of a child the restart engine's event; clearing a bit starts
  -- both sequence counts again.
  (
    (∀ (n : Nat) (s : State), (∀ k ∈ s.ports, s.slotNumber ≤ k.2.number) → (∀ b, b < 512 → s.meets b = true → s.lostmask.getLsbD b = false → (s.peers.get b {}).heard = false →
        (s.peers.get b {}).missed < 2) → ∃ t, exec (.rotationEnd n) s = .next t ∧ t = { s with peers := t.peers } ∧
      ∀ b, b < 512 → t.peers.get b {} = if s.meets b = true ∧ s.lostmask.getLsbD b = false then
        { s.peers.get b {} with missed := if (s.peers.get b {}).heard then 0 else (s.peers.get b {}).missed + 1, heard := false } else s.peers.get b {}) ∧
    (∀ (n b : Nat) (s : State), b < 512 → s.meets b = true → s.lostmask.getLsbD b = false → (s.peers.get b {}).heard = false →
      (s.peers.get b {}).missed = 2 → ∃ t, exec (.rotationEnd n) s = .next t ∧ t.lostmask.getLsbD b = true) ∧
    (∀ (n b : Nat) (s : State), b < 512 → s.lostmask.getLsbD b = false →
      (s.declareLost n b).lostmask = s.lostmask ||| (1#512 <<< b) ∧
      let k := (s.declareLost n b).peers.get b {}
      k.ordered = [] ∧ k.relaxed = [] ∧ k.relay = [] ∧ k.partials = []) ∧
    (∀ (p slot b : Nat) (c : Word) (s : State) (w : Actor), s.actor? p slot = some w → w.code.toNat / 2 ^ 24 % 2 ^ 20 = slot → c ∈ w.watches →
      pcDevice c = b → ⟨4 * dieOfCluster w.cluster, w.code, c, 2, ExitRec.body { reason := 5 } c, none⟩ ∈ (s.loseFor p slot b).owed ∧
      ∃ v, (s.loseFor p slot b).actor? p slot = some v ∧ c ∉ v.watches) ∧
    (∀ (p slot b : Nat) (d : Child) (s : State) (w : Actor), s.actor? p slot = some w → w.code.toNat / 2 ^ 24 % 2 ^ 20 = slot → d ∈ w.children →
      pcDevice d.code = b → ⟨4 * dieOfCluster w.cluster, w.code, d.code, 2, ExitRec.body { reason := 5 } d.code,
        some (.restartEvent p slot d.code 5 false)⟩ ∈ (s.loseFor p slot b).owed) ∧
    (∀ (n b : Nat) (s : State), s.lostmask.getLsbD b = true → s.declareLost n b = s) ∧
    (∀ (bits : BitVec 512) (s : State), ∃ t, exec (.lostmaskClear bits) s = .next t ∧ t = { s with lostmask := s.lostmask &&& ~~~bits, peers := t.peers } ∧
      ∀ b, t.peers.get b {} = if bits.getLsbD b && s.lostmask.getLsbD b then {} else s.peers.get b {}))

/-- Memory errors, scrubbing, the record ring and stalled records. -/
def Obligations.ErrorsAndRecords : Prop :=
  -- Uncorrectable errors and the scrubber (R381 to R387, R405, R406): an error in a line of memory marks it poisoned, and is fatal for a
  -- partition whose page table, principal table or system actor it belongs to; one in the state of an activation aborts it, the second in a
  -- row kills its actor, one past its group's commit point leaves it, and one in a fatal partition is kept for the dump; a scratchpad line of
  -- no activation is marked too; owner tags, system lines, principal tables, keystone logs and device structures are fatal; every one is
  -- counted; a corrected error is counted and changes nothing else.
  (
    (∀ (pa : Nat) (s : State), pa / 64 ∈ (s.eccLine pa).poison ∧ exec (.uncorrectableError (.sram pa)) s = .next (s.eccLine pa) ∧
      exec (.uncorrectableError (.dram pa)) s = .next (s.eccLine pa) ∧ exec (.scrubLine (.data pa) .uncorrectable) s = .next (s.eccLine pa) ∧
      (∀ l q r c, s.parts = l ++ q :: r → q.2.state = .ready → s.systemCode q.1 pa = some c →
        (∀ x ∈ l, x.2.state = .ready → s.systemCode x.1 pa = none) → s.eccLine pa = s.eccSystem q.1 pa c) ∧
      (∀ site, exec (.scrubLine site .clean) s = .next s ∧ exec (.scrubLine site .corrected) s = .next (s.countEcc (scrubDie s site) false)) ∧
      (∀ p, exec (.scrubLine (.system p pa) .uncorrectable) s = exec (.uncorrectableError (.systemLine p pa)) s ∧
        exec (.scrubLine (.tag p pa) .uncorrectable) s = exec (.uncorrectableError (.ownerTag p pa)) s ∧
        exec (.scrubLine (.scratch p pa) .uncorrectable) s = exec (.uncorrectableError (.scratchpad p pa)) s) ∧
      (∀ site, exec (.scrubLine (.inUse site) .uncorrectable) s = exec (.uncorrectableError site) s) ∧
      let w := s.fn0Word (0x200 + 8 * dieOfPa pa)
      ((s.countEcc (dieOfPa pa) false).fn0Word (0x200 + 8 * dieOfPa pa)).toNat / 2 ^ 32 = min (w.toNat / 2 ^ 32 + 1) (2 ^ 32 - 1) ∧
      (s.countEcc (dieOfPa pa) false).dram = s.dram) ∧
    (∀ (a va array : Nat) (pa : Word) (s : State) (k : Act), s.acts.find? a = some k →
      ((s.part k.p).fatal ≠ none → ∃ b, (s.eccAbort a va pa array).acts.find? a = some b ∧ va / 64 ∈ b.bad ∧ b = { k with bad := b.bad }) ∧
      ((s.part k.p).fatal = none → s.committed k = true → s.eccAbort a va pa array = s) ∧
      ∀ (w : Actor) (h : Held) (l r : List Held), (s.part k.p).fatal = none → s.committed k = false → (∀ f, k.phase ≠ .failed f true) →
        s.actor? k.p k.slot = some w → w.box = l ++ h :: r → h.place = k.place → (∀ x ∈ l, x.place ≠ k.place) → s.acts.sorted = true →
        (s.eccAbort a va pa array).acts.find? a = none ∧
        (h.eccAborts ≠ 0 → .killPoint k.p k.self .memory ∈ (s.eccAbort a va pa array).agenda)) ∧
    (∀ (c n off va i : Nat) (s : State) (a : Nat), ∃ x y : Word,
      let die := dieOfCluster (clusterOf c)
      let hit := fun (die : Nat) => { s.countEcc die true with free := s.free + 1 }
      (s.actOfCtx c = some a → exec (.uncorrectableError (.register c)) s = .next ((hit die).eccAbort a 0 x 1) ∧
        exec (.uncorrectableError (.tcm c i)) s = .next ((s.countEcc die true).eccAbort a 0 (BitVec.ofNat 64 i) 3)) ∧
      (s.actOfTile n off = some a → exec (.uncorrectableError (.accumulator n off)) s = .next ((hit (dieOfCluster n)).eccAbort a 0 y 2)) ∧
      (s.actOfScratch n off = some a → exec (.uncorrectableError (.scratchpad n off)) s =
        .next ((s.countEcc (dieOfCluster n) true).eccAbort a (scratchVa off) (BitVec.ofNat 64 off) 4)) ∧
      (s.actOfScratch n off = none → ∃ t, exec (.uncorrectableError (.scratchpad n off)) s = .next t ∧ off / 64 ∈ (t.cluster n).poison) ∧
      (∀ k, s.acts.find? a = some k → exec (.uncorrectableError (.lineStore a va i)) s =
        .next ((s.countEcc (dieOfCluster k.cluster) true).eccAbort a va (BitVec.ofNat 64 i) 5) ∧
        ∀ g, k.pages.find? (va / 65536) = some g → let pa := g.frame + va % 65536
          (s.committed k = true → ∃ t, exec (.uncorrectableError (.scaffoldFrame a va)) s = .next t ∧ pa / 64 ∈ t.poison ∧ t.acts = s.acts) ∧
          (s.committed k = false → exec (.uncorrectableError (.scaffoldFrame a va)) s =
            .next ((s.countEcc (dieOfPa pa) true).eccAbort a va (BitVec.ofNat 64 pa) 6)))) ∧
    (∀ (p pa cl off die i : Nat) (s : State), let array : Word := if pa < sramTop then 7 else 8
      ∃ t u v w x, exec (.uncorrectableError (.ownerTag p pa)) s = .next t ∧
      exec (.uncorrectableError (.systemLine p pa)) s = .next u ∧ exec (.uncorrectableError (.keystoneLog p die i)) s = .next v ∧
      exec (.uncorrectableError (.scratchTag p cl off)) s = .next w ∧ exec (.uncorrectableError (.principalTable p pa)) s = .next x ∧
      .fatalCondition 1 (some p) (dieOfPa pa) (BitVec.ofNat 64 pa) 7 ∈ t.agenda ∧
      .fatalCondition 1 (some p) (dieOfPa pa) (BitVec.ofNat 64 pa) array ∈ u.agenda ∧ pa / 64 ∈ u.poison ∧
      .fatalCondition 2 (some p) die (BitVec.ofNat 64 i) 0 ∈ v.agenda ∧
      .fatalCondition 1 (some p) (dieOfCluster cl) (BitVec.ofNat 64 off) 4 ∈ w.agenda ∧
      .fatalCondition 2 (some p) (dieOfPa pa) (BitVec.ofNat 64 pa) array ∈ x.agenda) ∧
    (∀ (die : Nat) (s : State), exec (.uncorrectableError (.deviceStructure die)) s =
      .next ((s.countEcc die true).post (.fatalCondition 16 none die 0 0)))) ∧
  -- Stalled records and the link grid (R323, R351): a record without room for 10 ms is gone and what it held back goes on; a window that ends
  -- starts the flit counts again and puts its snapshot, in which they stand beside free stall counts (log 33), of 49,216 bytes into the ring,
  -- whose registers stand as the trace ring's do (log 68), or is counted as dropped.
  (
    (∀ (p : Nat) (s : State), ∃ t, exec (.recordStallTimeout p) s = .next t ∧
      (t.part p).stalled = ((s.part p).stalled.filter fun r => decide (s.clock - r.since < 15000000)) ∧
      ∀ r ∈ (s.part p).stalled, 15000000 ≤ s.clock - r.since → ∀ e ∈ r.cont, e ∈ t.agenda) ∧
    (∀ (s : State), ∃ t, exec .linkGridWindow s = .next t ∧ t.acts = s.acts ∧ t.dram = s.dram ∧ t.flits = [] ∧
      let base := s.fn0Word 0x100
      let size := s.fn0Word 0x108
      let prod := s.fn0Word 0x110
      let cons := s.fn0Word 0x118
      (prod - cons = size → t.outputs = s.outputs ∧ t.fn0Word 0x120 = s.fn0Word 0x120 + 1) ∧
      (prod - cons ≠ size → t.fn0Word 0x110 = prod + 1 ∧ ∃ bs : List Byte, bs.length = 49216 ∧
        (∀ r i, r < 384 → i < 15 → (bs.drop (64 + 128 * r + 8 * i)).take 4 = bytesOf 4 (s.flits.get (16 * r + i) 0)) ∧
        t.outputs = s.outputs ++ [.hostWrite none (base.toNat + 49216 * (prod.toNat % size.toNat)) bs]))) ∧
  -- The dead-letter ring (R349, R351, R376): off, a record is counted in lostcnt, which saturates; full, dlstat.lost and stall are set and the
  -- record waits; else its 64 bytes stand at the producer's place and dlprod counts it, a record of kind 16 with the number it has in the ring
  -- (R376).
  (
    ∀ (s : State) (p : Nat) (r : BitVec 512) (ctx : Option Nat) (cont : List Event),
      ((s.part p).ringOn = false → ∃ t, s.record p r ctx cont = (t, true) ∧ t.dram = s.dram ∧
        ((t.part p).word 0x420).toNat / 2 ^ 32 = min (((s.part p).word 0x420).toNat / 2 ^ 32 + 1) (2 ^ 32 - 1) ∧
        ((t.part p).word 0x410) = (s.part p).word 0x410) ∧
      ((s.part p).ringOn = true → (s.part p).word 0x410 - (s.part p).word 0x418 = (s.part p).word 0x408 →
        ∃ t, s.record p r ctx cont = (t, false) ∧ t.dram = s.dram ∧ (t.part p).word 0x420 = (s.part p).word 0x420 ||| 3 ∧
          (t.part p).stalled = (s.part p).stalled ++ [⟨r, s.clock, ctx, cont, none⟩]) ∧
      ((s.part p).ringOn = true → (s.part p).word 0x410 - (s.part p).word 0x418 ≠ (s.part p).word 0x408 →
        ∃ t, s.record p r ctx cont = (t, true) ∧ (t.part p).word 0x410 = (s.part p).word 0x410 + 1 ∧
          (∀ q, q ≠ 0x410 → (t.part p).word q = (s.part p).word q) ∧
          let at_ := ((s.part p).word 0x400).toNat + 64 * (((s.part p).word 0x410).toNat % ((s.part p).word 0x408).toNat)
          (s.dram.wf = true → (r.toNat / 2 ^ 64 % 256 ≠ 16 → t.dram.num at_ 64 = r.toNat) ∧
            (r.toNat / 2 ^ 64 % 256 = 16 → t.dram.num at_ 64 = r.toNat % 2 ^ 448 + 2 ^ 448 * ((s.part p).word 0x410).toNat)) ∧
          ∀ b, b < at_ ∨ at_ + 64 ≤ b → t.dram.get b = s.dram.get b))

/-- Fatal conditions and the writing of a dump. -/
def Obligations.FatalConditionsAndDump : Prop :=
  -- Fatal conditions (R405, R406, R407, R409, R411): a partition that is ready stops at the clock of its fatal point and its stores drain for
  -- 4,096 cycles before its dump; a device fatal stops the device and every partition; a further condition of a stopped scope is only noted;
  -- the memory requests of the host in progress are unsupported; no letter of a stopped partition that still waits departs.
  (
    (∀ (code : BitVec 8) (q die : Nat) (x y : Word) (s : State), (s.part q).state ≠ .ready →
      exec (.fatalCondition code (some q) die x y) s = .next s) ∧
    (∀ (code : BitVec 8) (q die : Nat) (x y : Word) (s : State), (s.part q).state = .ready → (s.part q).fatal = none → s.fatal = none →
      ∃ t, exec (.fatalCondition code (some q) die x y) s = .next t ∧ (t.part q).fatal = some (code, s.now) ∧
        (s.clock + 4096, .storeDrainDeadline (some q)) ∈ t.timers ∧ (∃ d ∈ t.dumps, d.part = some q ∧ d.code = code ∧ d.ready = false) ∧
        t.fatal = none ∧ t.ctxs = s.ctxs ∧ t.scratch = s.scratch ∧ (∀ r ∈ s.requests, r.p = q → .unsupported (q + 1) false ∈ t.outputs) ∧
        ∀ r ∈ t.requests, r.p ≠ q) ∧
    (∀ (code : BitVec 8) (q die : Nat) (x y : Word) (s : State), (s.part q).state = .ready → (s.part q).fatal ≠ none ∨ s.fatal ≠ none →
      ∃ t, exec (.fatalCondition code (some q) die x y) s = .next t ∧ t = { s with dumps := t.dumps } ∧ t.dumps.length = s.dumps.length) ∧
    (∀ (s : State), (∀ m ∈ s.moving, (s.part (pcPart m.letter.dest)).fatal ≠ none) → s.moveLetters = s) ∧
    (∀ (code : BitVec 8) (die : Nat) (x y : Word) (s : State), s.fatal = none → ∃ t, exec (.fatalCondition code none die x y) s = .next t ∧
      t.fatal = some (code, s.now) ∧ (s.clock + 4096, .storeDrainDeadline none) ∈ t.timers)) ∧
  -- The writing of a dump (R407, R410, R411, R412, R417): without room for it its state is 4; else its contents are collected; it is written
  -- section by section, its state 2 from the first on, then the header without its magic, then the magic, and its state is 3; a condition
  -- found meanwhile has the summary written again with the header; a write that fails makes its section bad, and the header's ends the dump in
  -- state 6.
  (
    (∀ (p : Option Nat) (s : State), (∀ d ∈ s.dumps, ¬ (d.part = p ∧ d.ready = false)) → exec (.storeDrainDeadline p) s = .next s) ∧
    (∀ (s : State) (d : Dump) (r : List Dump), s.dumps = d :: r → d.part = none → d.ready = false →
      (d.size < 65536 → ∃ t, exec (.storeDrainDeadline none) s = .next t ∧ (∀ x ∈ t.dumps, x.part ≠ none) ∧ (t.fn0Word 0x410).toNat % 16 = 4 ∧
        .dumpWrite ∈ t.agenda) ∧
      (65536 ≤ d.size → ∃ t e, exec (.storeDrainDeadline none) s = .next t ∧ t.dumps.head? = some e ∧ e.ready = true ∧ e.code = d.code ∧
        t.fn0Word 0x410 = s.fn0Word 0x410 ∧ .dumpWrite ∈ t.agenda)) ∧
    (∀ (s : State), s.dumps = [] → exec .dumpWrite s = .next s ∧ ∀ n, exec (.dumpWriteTimeout n) s = .next s) ∧
    (∀ (s : State) (d : Dump) (r : List Dump), s.dumps = d :: r →
      (d.ready = false → exec .dumpWrite s = .next s) ∧
      (∀ l, d.ready = true → d.sect < d.body.length → d.laid[d.sect]? = some l → l.data ≠ [] → ∃ t n, exec .dumpWrite s = .next t ∧
        t.outputs = s.outputs ++ [.hostWrite d.part (d.base + l.offset) l.data] ∧
        t.dumps = { d with sect := d.sect + 1, endTime := s.now } :: r ∧ s.clock < n ∧ (n, .dumpWrite) ∈ t.timers ∧
        (d.sect = 0 → d.part = none → (t.fn0Word 0x410).toNat % 16 = 2)) ∧
      (d.ready = true → d.sect = d.body.length → d.secondary = [] → ∃ t, exec .dumpWrite s = .next t ∧
        t.outputs = s.outputs ++ [.hostWrite d.part (d.base + 8) ((s.dumpHeader d).drop 8)] ∧ t.dumps = { d with sect := d.sect + 1 } :: r) ∧
      (∀ x b l, d.ready = true → d.sect = d.body.length → d.secondary ≠ [] → d.body = x :: b →
        let d1 := { d with body := { d.summary d.poisoned with records := (d.summary d.poisoned).records.take 64 } :: b }
        d1.laid.head? = some l → ∃ t, exec .dumpWrite s = .next t ∧ t.dumps = { d1 with sect := d.sect + 1 } :: r ∧
          t.outputs = s.outputs ++ [.hostWrite d.part (d.base + l.offset) l.data, .hostWrite d.part (d.base + 8) ((s.dumpHeader d1).drop 8)]) ∧
      (d.ready = true → d.sect = d.body.length + 1 → ∃ t, exec .dumpWrite s = .next t ∧
        t.outputs = s.outputs ++ [.hostWrite d.part d.base ((s.dumpHeader d).take 8)] ∧ t.dumps = { d with sect := d.sect + 1 } :: r) ∧
      (d.ready = true → d.body.length + 1 < d.sect → exec .dumpWrite s = .next (s.endDump d 3)) ∧
      (∀ n, d.ready = false ∨ d.sect ≤ n → exec (.dumpWriteTimeout n) s = .next s) ∧
      (∀ n, d.ready = true → n < d.sect → d.body.length ≤ n → exec (.dumpWriteTimeout n) s = .next (s.endDump d 6)) ∧
      (∀ n, d.ready = true → n < d.sect → n < d.body.length → ∃ t e, exec (.dumpWriteTimeout n) s = .next t ∧ t.dumps = e :: r ∧ n ∈ e.bad ∧
        t.outputs = s.outputs)))

/-! ## The machine as a whole -/

/-- Reset (R325, R64, R297, R301, R328): no context, activation or partition is there, no device is lost, memory lists nothing (log 1: what it
reads as is the model's choice, as are the reset values of log 9 and of log 13); the registers of function 0 and of a control block read the
values their maps give; and the invariants of the run hold. -/
def Obligations.ResetState : Prop :=
  State.reset.ctxs = [] ∧ State.reset.acts = [] ∧ State.reset.parts = [] ∧ State.reset.lostmask = 0 ∧ State.reset.stopped = false ∧
  State.reset.fn0Word 0x10000 = 0x3C00140001F4 ∧ State.reset.fabricOn = false ∧ State.reset.fn0Word 0x10100 = 8 ∧
  (State.reset.fn0Word 0x800).toNat = 2150 ∧ ((State.reset.part 0).word 0x40).toNat % 2 ^ 20 = 1000 ∧ State.reset.dram = [] ∧
  State.reset.scratch = [] ∧ MemInv State.reset ∧ TablesInOrder State.reset

/-- Every step from a state whose memories are canonical leads to such a state. -/
def Obligations.MemoryStaysCanonical : Prop :=
  ∀ s t : State, MemInv s → step s = .next t → MemInv t

/-- Every step keeps the tables of the state in order: activations, contexts and partitions by their numbers, the actors, reservations and
launch groups of each partition by theirs, the eight wait counts of every core and its current context. -/
def Obligations.TablesStayInOrder : Prop :=
  ∀ s t : State, TablesInOrder s → step s = .next t → TablesInOrder t

/-- No step faults or refuses: whatever the state, the machine goes on. -/
def Obligations.EveryStepAnswersNext : Prop := ∀ s : State, SafeStep s

/-- The encoder and the decoder agree on every instruction of the opcode table, with every operand at every value it admits; an event has no
encoding (R144, R146, R147, R150). -/
def Obligations.DecodeEncodeAgree : Prop :=
  ∀ i : Instr, i.wf = true → decode (encode i) = .ok i ∨ ∃ e : Event, i = e.toInstr

/-- Words written out from the encodings of the spec, with what they decode to (R144, R146, R150, R157, R159): the example word of R165's
chapter and its variants, and a word of several other families. -/
def Obligations.DecodeWords : Prop :=
  decodeBytes [0x00, 0x28, 0, 0, 0, 0, 0x3C, 0x07, 0x05, 0x06, 0x00, 0x01] = .ok (.add ⟨⟨3, true, true, false, 2, true, 0⟩, 6, 5, 7⟩) ∧
  decodeBytes [0x00, 0x28, 0, 0, 0, 0, 0x3C, 0x67, 0x05, 0x06, 0x00, 0x01] = .error .illegalOperand ∧
  decodeBytes [0x00, 0x28, 0, 0, 0, 0, 0x3D, 0x07, 0x05, 0x06, 0x00, 0x01] = .error .illegalExtension ∧
  decodeBytes [0x00, 0x28, 1, 0, 0, 0, 0x3C, 0x07, 0x05, 0x06, 0x00, 0x01] = .error .illegalOperand ∧
  decodeBytes [0x00, 0x28, 0, 0, 0, 0, 0x3D, 0x07, 0x05, 0x06, 0x00, 0xC1] = .error .illegalInstruction ∧
  decodeBytes [0x00, 0x28, 0, 0, 0, 0, 0x3C, 0x07, 0x05, 0x06, 0x00, 0xF1] = .ok (.hintSpaceWord ⟨0xF1000605073C000000002800⟩) ∧
  decodeBytes [0, 0, 0, 0, 0, 0, 0, 0, 0, 0, 0, 0] = .error .illegalInstruction

/-- A step runs what it fetches (R26, R76, R77, R143, R145, R150, R325, R328): an event that is due, at its turn where it takes a value of the
postmark clock (log 94), else the next core of the cycle, else, where the clock runs, the end of the cycle (this cutting of a cycle into
steps is the model's, log 3); a core whose issue is not withheld issues what the context it picks was seen to hold; the twelve bytes a
context fetches, decoded, are what it may issue; an instruction that meets no breakpoint is performed by its own context, and the core then
counts its choice. -/
def Obligations.StepRunsDecoded : Prop :=
  (∀ (s : State) (e : Event) (r : List Event), s.stopped = false → s.agenda = e :: r → let s1 := { s with agenda := r }
    (s1.turnOf e = none → step s = exec e.toInstr s1) ∧
    (∀ n, s1.turnOf e = some n → s.turn ≤ n → step s = exec e.toInstr (s1.sendOwed n)) ∧
    (∀ n, s1.turnOf e = some n → n < s.turn → step s = .next (if s1.comesBack e then s1 else s1.postAt 1 e))) ∧
  (∀ (s : State) (n : Nat) (r : List Nat), s.stopped = false → s.agenda = [] → s.todo = n :: r →
    step s = State.coreCycle { s with todo := r } n) ∧
  (∀ s : State, s.stopped = false → s.agenda = [] → s.todo = [] → step s = .next (if s.bootReason = 0 then s.tick else s)) ∧
  (∀ (s s1 : State) (n : Nat) (ls : List (Nat × Look)), let s0 := (s.settleStop n).settleStep n
    s0.looks (s0.heldAt n) = (ls, s1) →
    let es := (ls.filter fun x => x.2.eligible && s0.allowed n x.1).map Prod.fst
    (s0.withheld.getLsbD (dieOfCluster (n / 16)) = true → ∃ t, s.coreCycle n = .next t ∧
      t = { (ls.foldl State.countLook s1) with cores := t.cores }) ∧
    (s0.withheld.getLsbD (dieOfCluster (n / 16)) = false →
      let s2 := (ls.foldl State.countLook s1).modCore n fun q => (q.countWaits es).countBlocked ls
      ((s2.core n).pickCtx n es = none → s.coreCycle n = .next (s2.modCore n fun q => { q with chosen := none })) ∧
      ∀ c l, (s2.core n).pickCtx n es = some c → (ls.find? fun x => x.1 == c) = some (c, l) →
        s.coreCycle n = State.issueFrom (s2.modCore n fun q => { q with chosen := none }) c l)) ∧
  (∀ (s s1 : State) (c : Nat) (k : Ctx) (a : Act) (bs : List Byte) (i : Instr), s.ctxs.find? c = some k → s.runs k = true →
    s.acts.find? k.act = some a → s.fetch c a.p k.pc = (.bytes bs, s1) → decodeBytes bs = .ok i →
      s.look c = (s1.lookAt c k i, s1) ∧
      ∀ m n ctl, i.asks = some (m, n, ctl) → s1.eligible c k n = true → s1.lookAt c k i = .instr i) ∧
  (∀ (s t : State) (c : Nat) (k : Ctx) (i : Instr), (s.endWait c).ctxs.find? c = some k → (s.endWait c).breakHit c k (.instr i) = false →
    exec i { s.endWait c with cur := some c } = .next t → s.issueFrom c (.instr i) =
      .next (t.afterIssue c k ((s.endWait c).core (coreOf c)) (t.stillAt c k && !i.returns)))

/-- The selector (R77): it issues from an eligible context of the core; from a starved one of greatest wait where there is one; else from the
current one while it is eligible and unmarked; else from the first eligible one after it; it idles only where none is eligible; and a cycle
in which an eligible context was not chosen adds one to its wait. -/
def Obligations.SelectorChoosesContext : Prop :=
  (∀ (q : Core) (n : Nat) (es : List Nat), q.cur < 8 → (∀ c ∈ es, c / 8 = n) →
    (q.pickCtx n es = none ↔ es = []) ∧
    (∀ c, q.pickCtx n es = some c → c ∈ es ∧
      ((∃ d ∈ es, 256 ≤ q.wait d) → ∀ d ∈ es, q.wait d ≤ q.wait c) ∧
      ((∀ d ∈ es, q.wait d < 256) →
        ((8 * n + q.cur ∈ es ∧ q.marks.getLsbD q.cur = false) → c = 8 * n + q.cur) ∧
        (¬ (8 * n + q.cur ∈ es ∧ q.marks.getLsbD q.cur = false) →
          ∃ i, i < 8 ∧ c = 8 * n + (q.cur + 1 + i) % 8 ∧ ∀ j, j < i → 8 * n + (q.cur + 1 + j) % 8 ∉ es)))) ∧
  (∀ (q : Core) (c n : Nat), q.waits.length = 8 → n / 8 = c / 8 → (q.countWaits [c]).wait n =
    if n = c ∧ q.chosen ≠ some (c % 8) then q.wait n + 1 else q.wait n)
end

