-- ==== Sys2Proof/Laws/State.lean ====
section
/-! SUPPORT. What each named update of the state leaves as it was, one lemma for each field; generated in one shape. -/

namespace Sys2Proof.Machine

variable (s : State)

@[simp] theorem State.setCluster_clock (n : Nat) (k : Cluster) : (s.setCluster n k).clock = s.clock := rfl
@[simp] theorem State.setCluster_skew (n : Nat) (k : Cluster) : (s.setCluster n k).skew = s.skew := rfl
@[simp] theorem State.setCluster_turn (n : Nat) (k : Cluster) : (s.setCluster n k).turn = s.turn := rfl
@[simp] theorem State.setCluster_owed (n : Nat) (k : Cluster) : (s.setCluster n k).owed = s.owed := rfl
@[simp] theorem State.setCluster_moving (n : Nat) (k : Cluster) : (s.setCluster n k).moving = s.moving := rfl
@[simp] theorem State.setCluster_updates (n : Nat) (k : Cluster) : (s.setCluster n k).updates = s.updates := rfl
@[simp] theorem State.setCluster_flash (n : Nat) (k : Cluster) : (s.setCluster n k).flash = s.flash := rfl
@[simp] theorem State.setCluster_temps (n : Nat) (k : Cluster) : (s.setCluster n k).temps = s.temps := rfl
@[simp] theorem State.setCluster_svc (n : Nat) (k : Cluster) : (s.setCluster n k).svc = s.svc := rfl
@[simp] theorem State.setCluster_requests (n : Nat) (k : Cluster) : (s.setCluster n k).requests = s.requests := rfl
@[simp] theorem State.setCluster_flits (n : Nat) (k : Cluster) : (s.setCluster n k).flits = s.flits := rfl
@[simp] theorem State.setCluster_linkFlits (n : Nat) (k : Cluster) : (s.setCluster n k).linkFlits = s.linkFlits := rfl
@[simp] theorem State.setCluster_stomping (n : Nat) (k : Cluster) : (s.setCluster n k).stomping = s.stomping := rfl
@[simp] theorem State.setCluster_ide (n : Nat) (k : Cluster) : (s.setCluster n k).ide = s.ide := rfl
@[simp] theorem State.setCluster_stamps (n : Nat) (k : Cluster) : (s.setCluster n k).stamps = s.stamps := rfl
@[simp] theorem State.setCluster_free (n : Nat) (k : Cluster) : (s.setCluster n k).free = s.free := rfl
@[simp] theorem State.setCluster_serial (n : Nat) (k : Cluster) : (s.setCluster n k).serial = s.serial := rfl
@[simp] theorem State.setCluster_agenda (n : Nat) (k : Cluster) : (s.setCluster n k).agenda = s.agenda := rfl
@[simp] theorem State.setCluster_carry (n : Nat) (k : Cluster) : (s.setCluster n k).carry = s.carry := rfl
@[simp] theorem State.setCluster_timers (n : Nat) (k : Cluster) : (s.setCluster n k).timers = s.timers := rfl
@[simp] theorem State.setCluster_todo (n : Nat) (k : Cluster) : (s.setCluster n k).todo = s.todo := rfl
@[simp] theorem State.setCluster_cur (n : Nat) (k : Cluster) : (s.setCluster n k).cur = s.cur := rfl
@[simp] theorem State.setCluster_ctxs (n : Nat) (k : Cluster) : (s.setCluster n k).ctxs = s.ctxs := rfl
@[simp] theorem State.setCluster_cores (n : Nat) (k : Cluster) : (s.setCluster n k).cores = s.cores := rfl
@[simp] theorem State.setCluster_scratch (n : Nat) (k : Cluster) : (s.setCluster n k).scratch = s.scratch := rfl
@[simp] theorem State.setCluster_dram (n : Nat) (k : Cluster) : (s.setCluster n k).dram = s.dram := rfl
@[simp] theorem State.setCluster_sramTags (n : Nat) (k : Cluster) : (s.setCluster n k).sramTags = s.sramTags := rfl
@[simp] theorem State.setCluster_poison (n : Nat) (k : Cluster) : (s.setCluster n k).poison = s.poison := rfl
@[simp] theorem State.setCluster_stale (n : Nat) (k : Cluster) : (s.setCluster n k).stale = s.stale := rfl
@[simp] theorem State.setCluster_releases (n : Nat) (k : Cluster) : (s.setCluster n k).releases = s.releases := rfl
@[simp] theorem State.setCluster_acts (n : Nat) (k : Cluster) : (s.setCluster n k).acts = s.acts := rfl
@[simp] theorem State.setCluster_parts (n : Nat) (k : Cluster) : (s.setCluster n k).parts = s.parts := rfl
@[simp] theorem State.setCluster_transit (n : Nat) (k : Cluster) : (s.setCluster n k).transit = s.transit := rfl
@[simp] theorem State.setCluster_fab (n : Nat) (k : Cluster) : (s.setCluster n k).fab = s.fab := rfl
@[simp] theorem State.setCluster_peers (n : Nat) (k : Cluster) : (s.setCluster n k).peers = s.peers := rfl
@[simp] theorem State.setCluster_ports (n : Nat) (k : Cluster) : (s.setCluster n k).ports = s.ports := rfl
@[simp] theorem State.setCluster_remote (n : Nat) (k : Cluster) : (s.setCluster n k).remote = s.remote := rfl
@[simp] theorem State.setCluster_fn0 (n : Nat) (k : Cluster) : (s.setCluster n k).fn0 = s.fn0 := rfl
@[simp] theorem State.setCluster_lostmask (n : Nat) (k : Cluster) : (s.setCluster n k).lostmask = s.lostmask := rfl
@[simp] theorem State.setCluster_code (n : Nat) (k : Cluster) : (s.setCluster n k).code = s.code := rfl
@[simp] theorem State.setCluster_bootStage (n : Nat) (k : Cluster) : (s.setCluster n k).bootStage = s.bootStage := rfl
@[simp] theorem State.setCluster_bootReason (n : Nat) (k : Cluster) : (s.setCluster n k).bootReason = s.bootReason := rfl
@[simp] theorem State.setCluster_power (n : Nat) (k : Cluster) : (s.setCluster n k).power = s.power := rfl
@[simp] theorem State.setCluster_gating (n : Nat) (k : Cluster) : (s.setCluster n k).gating = s.gating := rfl
@[simp] theorem State.setCluster_hot (n : Nat) (k : Cluster) : (s.setCluster n k).hot = s.hot := rfl
@[simp] theorem State.setCluster_withheld (n : Nat) (k : Cluster) : (s.setCluster n k).withheld = s.withheld := rfl
@[simp] theorem State.setCluster_minVersion (n : Nat) (k : Cluster) : (s.setCluster n k).minVersion = s.minVersion := rfl
@[simp] theorem State.setCluster_measures (n : Nat) (k : Cluster) : (s.setCluster n k).measures = s.measures := rfl
@[simp] theorem State.setCluster_spdm (n : Nat) (k : Cluster) : (s.setCluster n k).spdm = s.spdm := rfl
@[simp] theorem State.setCluster_fn0Session (n : Nat) (k : Cluster) : (s.setCluster n k).fn0Session = s.fn0Session := rfl
@[simp] theorem State.setCluster_ideOn (n : Nat) (k : Cluster) : (s.setCluster n k).ideOn = s.ideOn := rfl
@[simp] theorem State.setCluster_served (n : Nat) (k : Cluster) : (s.setCluster n k).served = s.served := rfl
@[simp] theorem State.setCluster_mesh (n : Nat) (k : Cluster) : (s.setCluster n k).mesh = s.mesh := rfl
@[simp] theorem State.setCluster_forwards (n : Nat) (k : Cluster) : (s.setCluster n k).forwards = s.forwards := rfl
@[simp] theorem State.setCluster_outputs (n : Nat) (k : Cluster) : (s.setCluster n k).outputs = s.outputs := rfl
@[simp] theorem State.setCluster_scMissed (n : Nat) (k : Cluster) : (s.setCluster n k).scMissed = s.scMissed := rfl
@[simp] theorem State.setCluster_scFailed (n : Nat) (k : Cluster) : (s.setCluster n k).scFailed = s.scFailed := rfl
@[simp] theorem State.setCluster_mcMissed (n : Nat) (k : Cluster) : (s.setCluster n k).mcMissed = s.mcMissed := rfl
@[simp] theorem State.setCluster_dumps (n : Nat) (k : Cluster) : (s.setCluster n k).dumps = s.dumps := rfl
@[simp] theorem State.setCluster_lost (n : Nat) (k : Cluster) : (s.setCluster n k).lost = s.lost := rfl
@[simp] theorem State.setCluster_fatal (n : Nat) (k : Cluster) : (s.setCluster n k).fatal = s.fatal := rfl
@[simp] theorem State.setCluster_stopped (n : Nat) (k : Cluster) : (s.setCluster n k).stopped = s.stopped := rfl
@[simp] theorem State.setCluster_snapshots (n : Nat) (k : Cluster) : (s.setCluster n k).snapshots = s.snapshots := rfl

@[simp] theorem State.modCluster_clock (n : Nat) (f : Cluster → Cluster) : (s.modCluster n f).clock = s.clock := rfl
@[simp] theorem State.modCluster_skew (n : Nat) (f : Cluster → Cluster) : (s.modCluster n f).skew = s.skew := rfl
@[simp] theorem State.modCluster_turn (n : Nat) (f : Cluster → Cluster) : (s.modCluster n f).turn = s.turn := rfl
@[simp] theorem State.modCluster_owed (n : Nat) (f : Cluster → Cluster) : (s.modCluster n f).owed = s.owed := rfl
@[simp] theorem State.modCluster_moving (n : Nat) (f : Cluster → Cluster) : (s.modCluster n f).moving = s.moving := rfl
@[simp] theorem State.modCluster_updates (n : Nat) (f : Cluster → Cluster) : (s.modCluster n f).updates = s.updates := rfl
@[simp] theorem State.modCluster_flash (n : Nat) (f : Cluster → Cluster) : (s.modCluster n f).flash = s.flash := rfl
@[simp] theorem State.modCluster_temps (n : Nat) (f : Cluster → Cluster) : (s.modCluster n f).temps = s.temps := rfl
@[simp] theorem State.modCluster_svc (n : Nat) (f : Cluster → Cluster) : (s.modCluster n f).svc = s.svc := rfl
@[simp] theorem State.modCluster_requests (n : Nat) (f : Cluster → Cluster) : (s.modCluster n f).requests = s.requests := rfl
@[simp] theorem State.modCluster_flits (n : Nat) (f : Cluster → Cluster) : (s.modCluster n f).flits = s.flits := rfl
@[simp] theorem State.modCluster_linkFlits (n : Nat) (f : Cluster → Cluster) : (s.modCluster n f).linkFlits = s.linkFlits := rfl
@[simp] theorem State.modCluster_stomping (n : Nat) (f : Cluster → Cluster) : (s.modCluster n f).stomping = s.stomping := rfl
@[simp] theorem State.modCluster_ide (n : Nat) (f : Cluster → Cluster) : (s.modCluster n f).ide = s.ide := rfl
@[simp] theorem State.modCluster_stamps (n : Nat) (f : Cluster → Cluster) : (s.modCluster n f).stamps = s.stamps := rfl
@[simp] theorem State.modCluster_free (n : Nat) (f : Cluster → Cluster) : (s.modCluster n f).free = s.free := rfl
@[simp] theorem State.modCluster_serial (n : Nat) (f : Cluster → Cluster) : (s.modCluster n f).serial = s.serial := rfl
@[simp] theorem State.modCluster_agenda (n : Nat) (f : Cluster → Cluster) : (s.modCluster n f).agenda = s.agenda := rfl
@[simp] theorem State.modCluster_carry (n : Nat) (f : Cluster → Cluster) : (s.modCluster n f).carry = s.carry := rfl
@[simp] theorem State.modCluster_timers (n : Nat) (f : Cluster → Cluster) : (s.modCluster n f).timers = s.timers := rfl
@[simp] theorem State.modCluster_todo (n : Nat) (f : Cluster → Cluster) : (s.modCluster n f).todo = s.todo := rfl
@[simp] theorem State.modCluster_cur (n : Nat) (f : Cluster → Cluster) : (s.modCluster n f).cur = s.cur := rfl
@[simp] theorem State.modCluster_ctxs (n : Nat) (f : Cluster → Cluster) : (s.modCluster n f).ctxs = s.ctxs := rfl
@[simp] theorem State.modCluster_cores (n : Nat) (f : Cluster → Cluster) : (s.modCluster n f).cores = s.cores := rfl
@[simp] theorem State.modCluster_scratch (n : Nat) (f : Cluster → Cluster) : (s.modCluster n f).scratch = s.scratch := rfl
@[simp] theorem State.modCluster_dram (n : Nat) (f : Cluster → Cluster) : (s.modCluster n f).dram = s.dram := rfl
@[simp] theorem State.modCluster_sramTags (n : Nat) (f : Cluster → Cluster) : (s.modCluster n f).sramTags = s.sramTags := rfl
@[simp] theorem State.modCluster_poison (n : Nat) (f : Cluster → Cluster) : (s.modCluster n f).poison = s.poison := rfl
@[simp] theorem State.modCluster_stale (n : Nat) (f : Cluster → Cluster) : (s.modCluster n f).stale = s.stale := rfl
@[simp] theorem State.modCluster_releases (n : Nat) (f : Cluster → Cluster) : (s.modCluster n f).releases = s.releases := rfl
@[simp] theorem State.modCluster_acts (n : Nat) (f : Cluster → Cluster) : (s.modCluster n f).acts = s.acts := rfl
@[simp] theorem State.modCluster_parts (n : Nat) (f : Cluster → Cluster) : (s.modCluster n f).parts = s.parts := rfl
@[simp] theorem State.modCluster_transit (n : Nat) (f : Cluster → Cluster) : (s.modCluster n f).transit = s.transit := rfl
@[simp] theorem State.modCluster_fab (n : Nat) (f : Cluster → Cluster) : (s.modCluster n f).fab = s.fab := rfl
@[simp] theorem State.modCluster_peers (n : Nat) (f : Cluster → Cluster) : (s.modCluster n f).peers = s.peers := rfl
@[simp] theorem State.modCluster_ports (n : Nat) (f : Cluster → Cluster) : (s.modCluster n f).ports = s.ports := rfl
@[simp] theorem State.modCluster_remote (n : Nat) (f : Cluster → Cluster) : (s.modCluster n f).remote = s.remote := rfl
@[simp] theorem State.modCluster_fn0 (n : Nat) (f : Cluster → Cluster) : (s.modCluster n f).fn0 = s.fn0 := rfl
@[simp] theorem State.modCluster_lostmask (n : Nat) (f : Cluster → Cluster) : (s.modCluster n f).lostmask = s.lostmask := rfl
@[simp] theorem State.modCluster_code (n : Nat) (f : Cluster → Cluster) : (s.modCluster n f).code = s.code := rfl
@[simp] theorem State.modCluster_bootStage (n : Nat) (f : Cluster → Cluster) : (s.modCluster n f).bootStage = s.bootStage := rfl
@[simp] theorem State.modCluster_bootReason (n : Nat) (f : Cluster → Cluster) : (s.modCluster n f).bootReason = s.bootReason := rfl
@[simp] theorem State.modCluster_power (n : Nat) (f : Cluster → Cluster) : (s.modCluster n f).power = s.power := rfl
@[simp] theorem State.modCluster_gating (n : Nat) (f : Cluster → Cluster) : (s.modCluster n f).gating = s.gating := rfl
@[simp] theorem State.modCluster_hot (n : Nat) (f : Cluster → Cluster) : (s.modCluster n f).hot = s.hot := rfl
@[simp] theorem State.modCluster_withheld (n : Nat) (f : Cluster → Cluster) : (s.modCluster n f).withheld = s.withheld := rfl
@[simp] theorem State.modCluster_minVersion (n : Nat) (f : Cluster → Cluster) : (s.modCluster n f).minVersion = s.minVersion := rfl
@[simp] theorem State.modCluster_measures (n : Nat) (f : Cluster → Cluster) : (s.modCluster n f).measures = s.measures := rfl
@[simp] theorem State.modCluster_spdm (n : Nat) (f : Cluster → Cluster) : (s.modCluster n f).spdm = s.spdm := rfl
@[simp] theorem State.modCluster_fn0Session (n : Nat) (f : Cluster → Cluster) : (s.modCluster n f).fn0Session = s.fn0Session := rfl
@[simp] theorem State.modCluster_ideOn (n : Nat) (f : Cluster → Cluster) : (s.modCluster n f).ideOn = s.ideOn := rfl
@[simp] theorem State.modCluster_served (n : Nat) (f : Cluster → Cluster) : (s.modCluster n f).served = s.served := rfl
@[simp] theorem State.modCluster_mesh (n : Nat) (f : Cluster → Cluster) : (s.modCluster n f).mesh = s.mesh := rfl
@[simp] theorem State.modCluster_forwards (n : Nat) (f : Cluster → Cluster) : (s.modCluster n f).forwards = s.forwards := rfl
@[simp] theorem State.modCluster_outputs (n : Nat) (f : Cluster → Cluster) : (s.modCluster n f).outputs = s.outputs := rfl
@[simp] theorem State.modCluster_scMissed (n : Nat) (f : Cluster → Cluster) : (s.modCluster n f).scMissed = s.scMissed := rfl
@[simp] theorem State.modCluster_scFailed (n : Nat) (f : Cluster → Cluster) : (s.modCluster n f).scFailed = s.scFailed := rfl
@[simp] theorem State.modCluster_mcMissed (n : Nat) (f : Cluster → Cluster) : (s.modCluster n f).mcMissed = s.mcMissed := rfl
@[simp] theorem State.modCluster_dumps (n : Nat) (f : Cluster → Cluster) : (s.modCluster n f).dumps = s.dumps := rfl
@[simp] theorem State.modCluster_lost (n : Nat) (f : Cluster → Cluster) : (s.modCluster n f).lost = s.lost := rfl
@[simp] theorem State.modCluster_fatal (n : Nat) (f : Cluster → Cluster) : (s.modCluster n f).fatal = s.fatal := rfl
@[simp] theorem State.modCluster_stopped (n : Nat) (f : Cluster → Cluster) : (s.modCluster n f).stopped = s.stopped := rfl
@[simp] theorem State.modCluster_snapshots (n : Nat) (f : Cluster → Cluster) : (s.modCluster n f).snapshots = s.snapshots := rfl

@[simp] theorem State.setCore_clock (n : Nat) (k : Core) : (s.setCore n k).clock = s.clock := rfl
@[simp] theorem State.setCore_skew (n : Nat) (k : Core) : (s.setCore n k).skew = s.skew := rfl
@[simp] theorem State.setCore_turn (n : Nat) (k : Core) : (s.setCore n k).turn = s.turn := rfl
@[simp] theorem State.setCore_owed (n : Nat) (k : Core) : (s.setCore n k).owed = s.owed := rfl
@[simp] theorem State.setCore_moving (n : Nat) (k : Core) : (s.setCore n k).moving = s.moving := rfl
@[simp] theorem State.setCore_updates (n : Nat) (k : Core) : (s.setCore n k).updates = s.updates := rfl
@[simp] theorem State.setCore_flash (n : Nat) (k : Core) : (s.setCore n k).flash = s.flash := rfl
@[simp] theorem State.setCore_temps (n : Nat) (k : Core) : (s.setCore n k).temps = s.temps := rfl
@[simp] theorem State.setCore_svc (n : Nat) (k : Core) : (s.setCore n k).svc = s.svc := rfl
@[simp] theorem State.setCore_requests (n : Nat) (k : Core) : (s.setCore n k).requests = s.requests := rfl
@[simp] theorem State.setCore_flits (n : Nat) (k : Core) : (s.setCore n k).flits = s.flits := rfl
@[simp] theorem State.setCore_linkFlits (n : Nat) (k : Core) : (s.setCore n k).linkFlits = s.linkFlits := rfl
@[simp] theorem State.setCore_stomping (n : Nat) (k : Core) : (s.setCore n k).stomping = s.stomping := rfl
@[simp] theorem State.setCore_ide (n : Nat) (k : Core) : (s.setCore n k).ide = s.ide := rfl
@[simp] theorem State.setCore_stamps (n : Nat) (k : Core) : (s.setCore n k).stamps = s.stamps := rfl
@[simp] theorem State.setCore_free (n : Nat) (k : Core) : (s.setCore n k).free = s.free := rfl
@[simp] theorem State.setCore_serial (n : Nat) (k : Core) : (s.setCore n k).serial = s.serial := rfl
@[simp] theorem State.setCore_agenda (n : Nat) (k : Core) : (s.setCore n k).agenda = s.agenda := rfl
@[simp] theorem State.setCore_carry (n : Nat) (k : Core) : (s.setCore n k).carry = s.carry := rfl
@[simp] theorem State.setCore_timers (n : Nat) (k : Core) : (s.setCore n k).timers = s.timers := rfl
@[simp] theorem State.setCore_todo (n : Nat) (k : Core) : (s.setCore n k).todo = s.todo := rfl
@[simp] theorem State.setCore_cur (n : Nat) (k : Core) : (s.setCore n k).cur = s.cur := rfl
@[simp] theorem State.setCore_ctxs (n : Nat) (k : Core) : (s.setCore n k).ctxs = s.ctxs := rfl
@[simp] theorem State.setCore_clusters (n : Nat) (k : Core) : (s.setCore n k).clusters = s.clusters := rfl
@[simp] theorem State.setCore_scratch (n : Nat) (k : Core) : (s.setCore n k).scratch = s.scratch := rfl
@[simp] theorem State.setCore_dram (n : Nat) (k : Core) : (s.setCore n k).dram = s.dram := rfl
@[simp] theorem State.setCore_sramTags (n : Nat) (k : Core) : (s.setCore n k).sramTags = s.sramTags := rfl
@[simp] theorem State.setCore_poison (n : Nat) (k : Core) : (s.setCore n k).poison = s.poison := rfl
@[simp] theorem State.setCore_stale (n : Nat) (k : Core) : (s.setCore n k).stale = s.stale := rfl
@[simp] theorem State.setCore_releases (n : Nat) (k : Core) : (s.setCore n k).releases = s.releases := rfl
@[simp] theorem State.setCore_acts (n : Nat) (k : Core) : (s.setCore n k).acts = s.acts := rfl
@[simp] theorem State.setCore_parts (n : Nat) (k : Core) : (s.setCore n k).parts = s.parts := rfl
@[simp] theorem State.setCore_transit (n : Nat) (k : Core) : (s.setCore n k).transit = s.transit := rfl
@[simp] theorem State.setCore_fab (n : Nat) (k : Core) : (s.setCore n k).fab = s.fab := rfl
@[simp] theorem State.setCore_peers (n : Nat) (k : Core) : (s.setCore n k).peers = s.peers := rfl
@[simp] theorem State.setCore_ports (n : Nat) (k : Core) : (s.setCore n k).ports = s.ports := rfl
@[simp] theorem State.setCore_remote (n : Nat) (k : Core) : (s.setCore n k).remote = s.remote := rfl
@[simp] theorem State.setCore_fn0 (n : Nat) (k : Core) : (s.setCore n k).fn0 = s.fn0 := rfl
@[simp] theorem State.setCore_lostmask (n : Nat) (k : Core) : (s.setCore n k).lostmask = s.lostmask := rfl
@[simp] theorem State.setCore_code (n : Nat) (k : Core) : (s.setCore n k).code = s.code := rfl
@[simp] theorem State.setCore_bootStage (n : Nat) (k : Core) : (s.setCore n k).bootStage = s.bootStage := rfl
@[simp] theorem State.setCore_bootReason (n : Nat) (k : Core) : (s.setCore n k).bootReason = s.bootReason := rfl
@[simp] theorem State.setCore_power (n : Nat) (k : Core) : (s.setCore n k).power = s.power := rfl
@[simp] theorem State.setCore_gating (n : Nat) (k : Core) : (s.setCore n k).gating = s.gating := rfl
@[simp] theorem State.setCore_hot (n : Nat) (k : Core) : (s.setCore n k).hot = s.hot := rfl
@[simp] theorem State.setCore_withheld (n : Nat) (k : Core) : (s.setCore n k).withheld = s.withheld := rfl
@[simp] theorem State.setCore_minVersion (n : Nat) (k : Core) : (s.setCore n k).minVersion = s.minVersion := rfl
@[simp] theorem State.setCore_measures (n : Nat) (k : Core) : (s.setCore n k).measures = s.measures := rfl
@[simp] theorem State.setCore_spdm (n : Nat) (k : Core) : (s.setCore n k).spdm = s.spdm := rfl
@[simp] theorem State.setCore_fn0Session (n : Nat) (k : Core) : (s.setCore n k).fn0Session = s.fn0Session := rfl
@[simp] theorem State.setCore_ideOn (n : Nat) (k : Core) : (s.setCore n k).ideOn = s.ideOn := rfl
@[simp] theorem State.setCore_served (n : Nat) (k : Core) : (s.setCore n k).served = s.served := rfl
@[simp] theorem State.setCore_mesh (n : Nat) (k : Core) : (s.setCore n k).mesh = s.mesh := rfl
@[simp] theorem State.setCore_forwards (n : Nat) (k : Core) : (s.setCore n k).forwards = s.forwards := rfl
@[simp] theorem State.setCore_outputs (n : Nat) (k : Core) : (s.setCore n k).outputs = s.outputs := rfl
@[simp] theorem State.setCore_scMissed (n : Nat) (k : Core) : (s.setCore n k).scMissed = s.scMissed := rfl
@[simp] theorem State.setCore_scFailed (n : Nat) (k : Core) : (s.setCore n k).scFailed = s.scFailed := rfl
@[simp] theorem State.setCore_mcMissed (n : Nat) (k : Core) : (s.setCore n k).mcMissed = s.mcMissed := rfl
@[simp] theorem State.setCore_dumps (n : Nat) (k : Core) : (s.setCore n k).dumps = s.dumps := rfl
@[simp] theorem State.setCore_lost (n : Nat) (k : Core) : (s.setCore n k).lost = s.lost := rfl
@[simp] theorem State.setCore_fatal (n : Nat) (k : Core) : (s.setCore n k).fatal = s.fatal := rfl
@[simp] theorem State.setCore_stopped (n : Nat) (k : Core) : (s.setCore n k).stopped = s.stopped := rfl
@[simp] theorem State.setCore_snapshots (n : Nat) (k : Core) : (s.setCore n k).snapshots = s.snapshots := rfl

@[simp] theorem State.modCore_clock (n : Nat) (f : Core → Core) : (s.modCore n f).clock = s.clock := rfl
@[simp] theorem State.modCore_skew (n : Nat) (f : Core → Core) : (s.modCore n f).skew = s.skew := rfl
@[simp] theorem State.modCore_turn (n : Nat) (f : Core → Core) : (s.modCore n f).turn = s.turn := rfl
@[simp] theorem State.modCore_owed (n : Nat) (f : Core → Core) : (s.modCore n f).owed = s.owed := rfl
@[simp] theorem State.modCore_moving (n : Nat) (f : Core → Core) : (s.modCore n f).moving = s.moving := rfl
@[simp] theorem State.modCore_updates (n : Nat) (f : Core → Core) : (s.modCore n f).updates = s.updates := rfl
@[simp] theorem State.modCore_flash (n : Nat) (f : Core → Core) : (s.modCore n f).flash = s.flash := rfl
@[simp] theorem State.modCore_temps (n : Nat) (f : Core → Core) : (s.modCore n f).temps = s.temps := rfl
@[simp] theorem State.modCore_svc (n : Nat) (f : Core → Core) : (s.modCore n f).svc = s.svc := rfl
@[simp] theorem State.modCore_requests (n : Nat) (f : Core → Core) : (s.modCore n f).requests = s.requests := rfl
@[simp] theorem State.modCore_flits (n : Nat) (f : Core → Core) : (s.modCore n f).flits = s.flits := rfl
@[simp] theorem State.modCore_linkFlits (n : Nat) (f : Core → Core) : (s.modCore n f).linkFlits = s.linkFlits := rfl
@[simp] theorem State.modCore_stomping (n : Nat) (f : Core → Core) : (s.modCore n f).stomping = s.stomping := rfl
@[simp] theorem State.modCore_ide (n : Nat) (f : Core → Core) : (s.modCore n f).ide = s.ide := rfl
@[simp] theorem State.modCore_stamps (n : Nat) (f : Core → Core) : (s.modCore n f).stamps = s.stamps := rfl
@[simp] theorem State.modCore_free (n : Nat) (f : Core → Core) : (s.modCore n f).free = s.free := rfl
@[simp] theorem State.modCore_serial (n : Nat) (f : Core → Core) : (s.modCore n f).serial = s.serial := rfl
@[simp] theorem State.modCore_agenda (n : Nat) (f : Core → Core) : (s.modCore n f).agenda = s.agenda := rfl
@[simp] theorem State.modCore_carry (n : Nat) (f : Core → Core) : (s.modCore n f).carry = s.carry := rfl
@[simp] theorem State.modCore_timers (n : Nat) (f : Core → Core) : (s.modCore n f).timers = s.timers := rfl
@[simp] theorem State.modCore_todo (n : Nat) (f : Core → Core) : (s.modCore n f).todo = s.todo := rfl
@[simp] theorem State.modCore_cur (n : Nat) (f : Core → Core) : (s.modCore n f).cur = s.cur := rfl
@[simp] theorem State.modCore_ctxs (n : Nat) (f : Core → Core) : (s.modCore n f).ctxs = s.ctxs := rfl
@[simp] theorem State.modCore_clusters (n : Nat) (f : Core → Core) : (s.modCore n f).clusters = s.clusters := rfl
@[simp] theorem State.modCore_scratch (n : Nat) (f : Core → Core) : (s.modCore n f).scratch = s.scratch := rfl
@[simp] theorem State.modCore_dram (n : Nat) (f : Core → Core) : (s.modCore n f).dram = s.dram := rfl
@[simp] theorem State.modCore_sramTags (n : Nat) (f : Core → Core) : (s.modCore n f).sramTags = s.sramTags := rfl
@[simp] theorem State.modCore_poison (n : Nat) (f : Core → Core) : (s.modCore n f).poison = s.poison := rfl
@[simp] theorem State.modCore_stale (n : Nat) (f : Core → Core) : (s.modCore n f).stale = s.stale := rfl
@[simp] theorem State.modCore_releases (n : Nat) (f : Core → Core) : (s.modCore n f).releases = s.releases := rfl
@[simp] theorem State.modCore_acts (n : Nat) (f : Core → Core) : (s.modCore n f).acts = s.acts := rfl
@[simp] theorem State.modCore_parts (n : Nat) (f : Core → Core) : (s.modCore n f).parts = s.parts := rfl
@[simp] theorem State.modCore_transit (n : Nat) (f : Core → Core) : (s.modCore n f).transit = s.transit := rfl
@[simp] theorem State.modCore_fab (n : Nat) (f : Core → Core) : (s.modCore n f).fab = s.fab := rfl
@[simp] theorem State.modCore_peers (n : Nat) (f : Core → Core) : (s.modCore n f).peers = s.peers := rfl
@[simp] theorem State.modCore_ports (n : Nat) (f : Core → Core) : (s.modCore n f).ports = s.ports := rfl
@[simp] theorem State.modCore_remote (n : Nat) (f : Core → Core) : (s.modCore n f).remote = s.remote := rfl
@[simp] theorem State.modCore_fn0 (n : Nat) (f : Core → Core) : (s.modCore n f).fn0 = s.fn0 := rfl
@[simp] theorem State.modCore_lostmask (n : Nat) (f : Core → Core) : (s.modCore n f).lostmask = s.lostmask := rfl
@[simp] theorem State.modCore_code (n : Nat) (f : Core → Core) : (s.modCore n f).code = s.code := rfl
@[simp] theorem State.modCore_bootStage (n : Nat) (f : Core → Core) : (s.modCore n f).bootStage = s.bootStage := rfl
@[simp] theorem State.modCore_bootReason (n : Nat) (f : Core → Core) : (s.modCore n f).bootReason = s.bootReason := rfl
@[simp] theorem State.modCore_power (n : Nat) (f : Core → Core) : (s.modCore n f).power = s.power := rfl
@[simp] theorem State.modCore_gating (n : Nat) (f : Core → Core) : (s.modCore n f).gating = s.gating := rfl
@[simp] theorem State.modCore_hot (n : Nat) (f : Core → Core) : (s.modCore n f).hot = s.hot := rfl
@[simp] theorem State.modCore_withheld (n : Nat) (f : Core → Core) : (s.modCore n f).withheld = s.withheld := rfl
@[simp] theorem State.modCore_minVersion (n : Nat) (f : Core → Core) : (s.modCore n f).minVersion = s.minVersion := rfl
@[simp] theorem State.modCore_measures (n : Nat) (f : Core → Core) : (s.modCore n f).measures = s.measures := rfl
@[simp] theorem State.modCore_spdm (n : Nat) (f : Core → Core) : (s.modCore n f).spdm = s.spdm := rfl
@[simp] theorem State.modCore_fn0Session (n : Nat) (f : Core → Core) : (s.modCore n f).fn0Session = s.fn0Session := rfl
@[simp] theorem State.modCore_ideOn (n : Nat) (f : Core → Core) : (s.modCore n f).ideOn = s.ideOn := rfl
@[simp] theorem State.modCore_served (n : Nat) (f : Core → Core) : (s.modCore n f).served = s.served := rfl
@[simp] theorem State.modCore_mesh (n : Nat) (f : Core → Core) : (s.modCore n f).mesh = s.mesh := rfl
@[simp] theorem State.modCore_forwards (n : Nat) (f : Core → Core) : (s.modCore n f).forwards = s.forwards := rfl
@[simp] theorem State.modCore_outputs (n : Nat) (f : Core → Core) : (s.modCore n f).outputs = s.outputs := rfl
@[simp] theorem State.modCore_scMissed (n : Nat) (f : Core → Core) : (s.modCore n f).scMissed = s.scMissed := rfl
@[simp] theorem State.modCore_scFailed (n : Nat) (f : Core → Core) : (s.modCore n f).scFailed = s.scFailed := rfl
@[simp] theorem State.modCore_mcMissed (n : Nat) (f : Core → Core) : (s.modCore n f).mcMissed = s.mcMissed := rfl
@[simp] theorem State.modCore_dumps (n : Nat) (f : Core → Core) : (s.modCore n f).dumps = s.dumps := rfl
@[simp] theorem State.modCore_lost (n : Nat) (f : Core → Core) : (s.modCore n f).lost = s.lost := rfl
@[simp] theorem State.modCore_fatal (n : Nat) (f : Core → Core) : (s.modCore n f).fatal = s.fatal := rfl
@[simp] theorem State.modCore_stopped (n : Nat) (f : Core → Core) : (s.modCore n f).stopped = s.stopped := rfl
@[simp] theorem State.modCore_snapshots (n : Nat) (f : Core → Core) : (s.modCore n f).snapshots = s.snapshots := rfl

@[simp] theorem State.bump_clock (c e : Nat) : (s.bump c e).clock = s.clock := rfl
@[simp] theorem State.bump_skew (c e : Nat) : (s.bump c e).skew = s.skew := rfl
@[simp] theorem State.bump_turn (c e : Nat) : (s.bump c e).turn = s.turn := rfl
@[simp] theorem State.bump_owed (c e : Nat) : (s.bump c e).owed = s.owed := rfl
@[simp] theorem State.bump_moving (c e : Nat) : (s.bump c e).moving = s.moving := rfl
@[simp] theorem State.bump_updates (c e : Nat) : (s.bump c e).updates = s.updates := rfl
@[simp] theorem State.bump_flash (c e : Nat) : (s.bump c e).flash = s.flash := rfl
@[simp] theorem State.bump_temps (c e : Nat) : (s.bump c e).temps = s.temps := rfl
@[simp] theorem State.bump_svc (c e : Nat) : (s.bump c e).svc = s.svc := rfl
@[simp] theorem State.bump_requests (c e : Nat) : (s.bump c e).requests = s.requests := rfl
@[simp] theorem State.bump_flits (c e : Nat) : (s.bump c e).flits = s.flits := rfl
@[simp] theorem State.bump_linkFlits (c e : Nat) : (s.bump c e).linkFlits = s.linkFlits := rfl
@[simp] theorem State.bump_stomping (c e : Nat) : (s.bump c e).stomping = s.stomping := rfl
@[simp] theorem State.bump_ide (c e : Nat) : (s.bump c e).ide = s.ide := rfl
@[simp] theorem State.bump_stamps (c e : Nat) : (s.bump c e).stamps = s.stamps := rfl
@[simp] theorem State.bump_free (c e : Nat) : (s.bump c e).free = s.free := rfl
@[simp] theorem State.bump_serial (c e : Nat) : (s.bump c e).serial = s.serial := rfl
@[simp] theorem State.bump_agenda (c e : Nat) : (s.bump c e).agenda = s.agenda := rfl
@[simp] theorem State.bump_carry (c e : Nat) : (s.bump c e).carry = s.carry := rfl
@[simp] theorem State.bump_timers (c e : Nat) : (s.bump c e).timers = s.timers := rfl
@[simp] theorem State.bump_todo (c e : Nat) : (s.bump c e).todo = s.todo := rfl
@[simp] theorem State.bump_cur (c e : Nat) : (s.bump c e).cur = s.cur := rfl
@[simp] theorem State.bump_ctxs (c e : Nat) : (s.bump c e).ctxs = s.ctxs := rfl
@[simp] theorem State.bump_clusters (c e : Nat) : (s.bump c e).clusters = s.clusters := rfl
@[simp] theorem State.bump_scratch (c e : Nat) : (s.bump c e).scratch = s.scratch := rfl
@[simp] theorem State.bump_dram (c e : Nat) : (s.bump c e).dram = s.dram := rfl
@[simp] theorem State.bump_sramTags (c e : Nat) : (s.bump c e).sramTags = s.sramTags := rfl
@[simp] theorem State.bump_poison (c e : Nat) : (s.bump c e).poison = s.poison := rfl
@[simp] theorem State.bump_stale (c e : Nat) : (s.bump c e).stale = s.stale := rfl
@[simp] theorem State.bump_releases (c e : Nat) : (s.bump c e).releases = s.releases := rfl
@[simp] theorem State.bump_acts (c e : Nat) : (s.bump c e).acts = s.acts := rfl
@[simp] theorem State.bump_parts (c e : Nat) : (s.bump c e).parts = s.parts := rfl
@[simp] theorem State.bump_transit (c e : Nat) : (s.bump c e).transit = s.transit := rfl
@[simp] theorem State.bump_fab (c e : Nat) : (s.bump c e).fab = s.fab := rfl
@[simp] theorem State.bump_peers (c e : Nat) : (s.bump c e).peers = s.peers := rfl
@[simp] theorem State.bump_ports (c e : Nat) : (s.bump c e).ports = s.ports := rfl
@[simp] theorem State.bump_remote (c e : Nat) : (s.bump c e).remote = s.remote := rfl
@[simp] theorem State.bump_fn0 (c e : Nat) : (s.bump c e).fn0 = s.fn0 := rfl
@[simp] theorem State.bump_lostmask (c e : Nat) : (s.bump c e).lostmask = s.lostmask := rfl
@[simp] theorem State.bump_code (c e : Nat) : (s.bump c e).code = s.code := rfl
@[simp] theorem State.bump_bootStage (c e : Nat) : (s.bump c e).bootStage = s.bootStage := rfl
@[simp] theorem State.bump_bootReason (c e : Nat) : (s.bump c e).bootReason = s.bootReason := rfl
@[simp] theorem State.bump_power (c e : Nat) : (s.bump c e).power = s.power := rfl
@[simp] theorem State.bump_gating (c e : Nat) : (s.bump c e).gating = s.gating := rfl
@[simp] theorem State.bump_hot (c e : Nat) : (s.bump c e).hot = s.hot := rfl
@[simp] theorem State.bump_withheld (c e : Nat) : (s.bump c e).withheld = s.withheld := rfl
@[simp] theorem State.bump_minVersion (c e : Nat) : (s.bump c e).minVersion = s.minVersion := rfl
@[simp] theorem State.bump_measures (c e : Nat) : (s.bump c e).measures = s.measures := rfl
@[simp] theorem State.bump_spdm (c e : Nat) : (s.bump c e).spdm = s.spdm := rfl
@[simp] theorem State.bump_fn0Session (c e : Nat) : (s.bump c e).fn0Session = s.fn0Session := rfl
@[simp] theorem State.bump_ideOn (c e : Nat) : (s.bump c e).ideOn = s.ideOn := rfl
@[simp] theorem State.bump_served (c e : Nat) : (s.bump c e).served = s.served := rfl
@[simp] theorem State.bump_mesh (c e : Nat) : (s.bump c e).mesh = s.mesh := rfl
@[simp] theorem State.bump_forwards (c e : Nat) : (s.bump c e).forwards = s.forwards := rfl
@[simp] theorem State.bump_outputs (c e : Nat) : (s.bump c e).outputs = s.outputs := rfl
@[simp] theorem State.bump_scMissed (c e : Nat) : (s.bump c e).scMissed = s.scMissed := rfl
@[simp] theorem State.bump_scFailed (c e : Nat) : (s.bump c e).scFailed = s.scFailed := rfl
@[simp] theorem State.bump_mcMissed (c e : Nat) : (s.bump c e).mcMissed = s.mcMissed := rfl
@[simp] theorem State.bump_dumps (c e : Nat) : (s.bump c e).dumps = s.dumps := rfl
@[simp] theorem State.bump_lost (c e : Nat) : (s.bump c e).lost = s.lost := rfl
@[simp] theorem State.bump_fatal (c e : Nat) : (s.bump c e).fatal = s.fatal := rfl
@[simp] theorem State.bump_stopped (c e : Nat) : (s.bump c e).stopped = s.stopped := rfl
@[simp] theorem State.bump_snapshots (c e : Nat) : (s.bump c e).snapshots = s.snapshots := rfl

@[simp] theorem State.setPart_clock (n : Nat) (k : Part) : (s.setPart n k).clock = s.clock := rfl
@[simp] theorem State.setPart_skew (n : Nat) (k : Part) : (s.setPart n k).skew = s.skew := rfl
@[simp] theorem State.setPart_turn (n : Nat) (k : Part) : (s.setPart n k).turn = s.turn := rfl
@[simp] theorem State.setPart_owed (n : Nat) (k : Part) : (s.setPart n k).owed = s.owed := rfl
@[simp] theorem State.setPart_moving (n : Nat) (k : Part) : (s.setPart n k).moving = s.moving := rfl
@[simp] theorem State.setPart_updates (n : Nat) (k : Part) : (s.setPart n k).updates = s.updates := rfl
@[simp] theorem State.setPart_flash (n : Nat) (k : Part) : (s.setPart n k).flash = s.flash := rfl
@[simp] theorem State.setPart_temps (n : Nat) (k : Part) : (s.setPart n k).temps = s.temps := rfl
@[simp] theorem State.setPart_svc (n : Nat) (k : Part) : (s.setPart n k).svc = s.svc := rfl
@[simp] theorem State.setPart_requests (n : Nat) (k : Part) : (s.setPart n k).requests = s.requests := rfl
@[simp] theorem State.setPart_flits (n : Nat) (k : Part) : (s.setPart n k).flits = s.flits := rfl
@[simp] theorem State.setPart_linkFlits (n : Nat) (k : Part) : (s.setPart n k).linkFlits = s.linkFlits := rfl
@[simp] theorem State.setPart_stomping (n : Nat) (k : Part) : (s.setPart n k).stomping = s.stomping := rfl
@[simp] theorem State.setPart_ide (n : Nat) (k : Part) : (s.setPart n k).ide = s.ide := rfl
@[simp] theorem State.setPart_stamps (n : Nat) (k : Part) : (s.setPart n k).stamps = s.stamps := rfl
@[simp] theorem State.setPart_free (n : Nat) (k : Part) : (s.setPart n k).free = s.free := rfl
@[simp] theorem State.setPart_serial (n : Nat) (k : Part) : (s.setPart n k).serial = s.serial := rfl
@[simp] theorem State.setPart_agenda (n : Nat) (k : Part) : (s.setPart n k).agenda = s.agenda := rfl
@[simp] theorem State.setPart_carry (n : Nat) (k : Part) : (s.setPart n k).carry = s.carry := rfl
@[simp] theorem State.setPart_timers (n : Nat) (k : Part) : (s.setPart n k).timers = s.timers := rfl
@[simp] theorem State.setPart_todo (n : Nat) (k : Part) : (s.setPart n k).todo = s.todo := rfl
@[simp] theorem State.setPart_cur (n : Nat) (k : Part) : (s.setPart n k).cur = s.cur := rfl
@[simp] theorem State.setPart_ctxs (n : Nat) (k : Part) : (s.setPart n k).ctxs = s.ctxs := rfl
@[simp] theorem State.setPart_cores (n : Nat) (k : Part) : (s.setPart n k).cores = s.cores := rfl
@[simp] theorem State.setPart_clusters (n : Nat) (k : Part) : (s.setPart n k).clusters = s.clusters := rfl
@[simp] theorem State.setPart_scratch (n : Nat) (k : Part) : (s.setPart n k).scratch = s.scratch := rfl
@[simp] theorem State.setPart_dram (n : Nat) (k : Part) : (s.setPart n k).dram = s.dram := rfl
@[simp] theorem State.setPart_sramTags (n : Nat) (k : Part) : (s.setPart n k).sramTags = s.sramTags := rfl
@[simp] theorem State.setPart_poison (n : Nat) (k : Part) : (s.setPart n k).poison = s.poison := rfl
@[simp] theorem State.setPart_stale (n : Nat) (k : Part) : (s.setPart n k).stale = s.stale := rfl
@[simp] theorem State.setPart_releases (n : Nat) (k : Part) : (s.setPart n k).releases = s.releases := rfl
@[simp] theorem State.setPart_acts (n : Nat) (k : Part) : (s.setPart n k).acts = s.acts := rfl
@[simp] theorem State.setPart_transit (n : Nat) (k : Part) : (s.setPart n k).transit = s.transit := rfl
@[simp] theorem State.setPart_fab (n : Nat) (k : Part) : (s.setPart n k).fab = s.fab := rfl
@[simp] theorem State.setPart_peers (n : Nat) (k : Part) : (s.setPart n k).peers = s.peers := rfl
@[simp] theorem State.setPart_ports (n : Nat) (k : Part) : (s.setPart n k).ports = s.ports := rfl
@[simp] theorem State.setPart_remote (n : Nat) (k : Part) : (s.setPart n k).remote = s.remote := rfl
@[simp] theorem State.setPart_fn0 (n : Nat) (k : Part) : (s.setPart n k).fn0 = s.fn0 := rfl
@[simp] theorem State.setPart_lostmask (n : Nat) (k : Part) : (s.setPart n k).lostmask = s.lostmask := rfl
@[simp] theorem State.setPart_code (n : Nat) (k : Part) : (s.setPart n k).code = s.code := rfl
@[simp] theorem State.setPart_bootStage (n : Nat) (k : Part) : (s.setPart n k).bootStage = s.bootStage := rfl
@[simp] theorem State.setPart_bootReason (n : Nat) (k : Part) : (s.setPart n k).bootReason = s.bootReason := rfl
@[simp] theorem State.setPart_power (n : Nat) (k : Part) : (s.setPart n k).power = s.power := rfl
@[simp] theorem State.setPart_gating (n : Nat) (k : Part) : (s.setPart n k).gating = s.gating := rfl
@[simp] theorem State.setPart_hot (n : Nat) (k : Part) : (s.setPart n k).hot = s.hot := rfl
@[simp] theorem State.setPart_withheld (n : Nat) (k : Part) : (s.setPart n k).withheld = s.withheld := rfl
@[simp] theorem State.setPart_minVersion (n : Nat) (k : Part) : (s.setPart n k).minVersion = s.minVersion := rfl
@[simp] theorem State.setPart_measures (n : Nat) (k : Part) : (s.setPart n k).measures = s.measures := rfl
@[simp] theorem State.setPart_spdm (n : Nat) (k : Part) : (s.setPart n k).spdm = s.spdm := rfl
@[simp] theorem State.setPart_fn0Session (n : Nat) (k : Part) : (s.setPart n k).fn0Session = s.fn0Session := rfl
@[simp] theorem State.setPart_ideOn (n : Nat) (k : Part) : (s.setPart n k).ideOn = s.ideOn := rfl
@[simp] theorem State.setPart_served (n : Nat) (k : Part) : (s.setPart n k).served = s.served := rfl
@[simp] theorem State.setPart_mesh (n : Nat) (k : Part) : (s.setPart n k).mesh = s.mesh := rfl
@[simp] theorem State.setPart_forwards (n : Nat) (k : Part) : (s.setPart n k).forwards = s.forwards := rfl
@[simp] theorem State.setPart_outputs (n : Nat) (k : Part) : (s.setPart n k).outputs = s.outputs := rfl
@[simp] theorem State.setPart_scMissed (n : Nat) (k : Part) : (s.setPart n k).scMissed = s.scMissed := rfl
@[simp] theorem State.setPart_scFailed (n : Nat) (k : Part) : (s.setPart n k).scFailed = s.scFailed := rfl
@[simp] theorem State.setPart_mcMissed (n : Nat) (k : Part) : (s.setPart n k).mcMissed = s.mcMissed := rfl
@[simp] theorem State.setPart_dumps (n : Nat) (k : Part) : (s.setPart n k).dumps = s.dumps := rfl
@[simp] theorem State.setPart_lost (n : Nat) (k : Part) : (s.setPart n k).lost = s.lost := rfl
@[simp] theorem State.setPart_fatal (n : Nat) (k : Part) : (s.setPart n k).fatal = s.fatal := rfl
@[simp] theorem State.setPart_stopped (n : Nat) (k : Part) : (s.setPart n k).stopped = s.stopped := rfl
@[simp] theorem State.setPart_snapshots (n : Nat) (k : Part) : (s.setPart n k).snapshots = s.snapshots := rfl

@[simp] theorem State.modPart_clock (n : Nat) (f : Part → Part) : (s.modPart n f).clock = s.clock := rfl
@[simp] theorem State.modPart_skew (n : Nat) (f : Part → Part) : (s.modPart n f).skew = s.skew := rfl
@[simp] theorem State.modPart_turn (n : Nat) (f : Part → Part) : (s.modPart n f).turn = s.turn := rfl
@[simp] theorem State.modPart_owed (n : Nat) (f : Part → Part) : (s.modPart n f).owed = s.owed := rfl
@[simp] theorem State.modPart_moving (n : Nat) (f : Part → Part) : (s.modPart n f).moving = s.moving := rfl
@[simp] theorem State.modPart_updates (n : Nat) (f : Part → Part) : (s.modPart n f).updates = s.updates := rfl
@[simp] theorem State.modPart_flash (n : Nat) (f : Part → Part) : (s.modPart n f).flash = s.flash := rfl
@[simp] theorem State.modPart_temps (n : Nat) (f : Part → Part) : (s.modPart n f).temps = s.temps := rfl
@[simp] theorem State.modPart_svc (n : Nat) (f : Part → Part) : (s.modPart n f).svc = s.svc := rfl
@[simp] theorem State.modPart_requests (n : Nat) (f : Part → Part) : (s.modPart n f).requests = s.requests := rfl
@[simp] theorem State.modPart_flits (n : Nat) (f : Part → Part) : (s.modPart n f).flits = s.flits := rfl
@[simp] theorem State.modPart_linkFlits (n : Nat) (f : Part → Part) : (s.modPart n f).linkFlits = s.linkFlits := rfl
@[simp] theorem State.modPart_stomping (n : Nat) (f : Part → Part) : (s.modPart n f).stomping = s.stomping := rfl
@[simp] theorem State.modPart_ide (n : Nat) (f : Part → Part) : (s.modPart n f).ide = s.ide := rfl
@[simp] theorem State.modPart_stamps (n : Nat) (f : Part → Part) : (s.modPart n f).stamps = s.stamps := rfl
@[simp] theorem State.modPart_free (n : Nat) (f : Part → Part) : (s.modPart n f).free = s.free := rfl
@[simp] theorem State.modPart_serial (n : Nat) (f : Part → Part) : (s.modPart n f).serial = s.serial := rfl
@[simp] theorem State.modPart_agenda (n : Nat) (f : Part → Part) : (s.modPart n f).agenda = s.agenda := rfl
@[simp] theorem State.modPart_carry (n : Nat) (f : Part → Part) : (s.modPart n f).carry = s.carry := rfl
@[simp] theorem State.modPart_timers (n : Nat) (f : Part → Part) : (s.modPart n f).timers = s.timers := rfl
@[simp] theorem State.modPart_todo (n : Nat) (f : Part → Part) : (s.modPart n f).todo = s.todo := rfl
@[simp] theorem State.modPart_cur (n : Nat) (f : Part → Part) : (s.modPart n f).cur = s.cur := rfl
@[simp] theorem State.modPart_ctxs (n : Nat) (f : Part → Part) : (s.modPart n f).ctxs = s.ctxs := rfl
@[simp] theorem State.modPart_cores (n : Nat) (f : Part → Part) : (s.modPart n f).cores = s.cores := rfl
@[simp] theorem State.modPart_clusters (n : Nat) (f : Part → Part) : (s.modPart n f).clusters = s.clusters := rfl
@[simp] theorem State.modPart_scratch (n : Nat) (f : Part → Part) : (s.modPart n f).scratch = s.scratch := rfl
@[simp] theorem State.modPart_dram (n : Nat) (f : Part → Part) : (s.modPart n f).dram = s.dram := rfl
@[simp] theorem State.modPart_sramTags (n : Nat) (f : Part → Part) : (s.modPart n f).sramTags = s.sramTags := rfl
@[simp] theorem State.modPart_poison (n : Nat) (f : Part → Part) : (s.modPart n f).poison = s.poison := rfl
@[simp] theorem State.modPart_stale (n : Nat) (f : Part → Part) : (s.modPart n f).stale = s.stale := rfl
@[simp] theorem State.modPart_releases (n : Nat) (f : Part → Part) : (s.modPart n f).releases = s.releases := rfl
@[simp] theorem State.modPart_acts (n : Nat) (f : Part → Part) : (s.modPart n f).acts = s.acts := rfl
@[simp] theorem State.modPart_transit (n : Nat) (f : Part → Part) : (s.modPart n f).transit = s.transit := rfl
@[simp] theorem State.modPart_fab (n : Nat) (f : Part → Part) : (s.modPart n f).fab = s.fab := rfl
@[simp] theorem State.modPart_peers (n : Nat) (f : Part → Part) : (s.modPart n f).peers = s.peers := rfl
@[simp] theorem State.modPart_ports (n : Nat) (f : Part → Part) : (s.modPart n f).ports = s.ports := rfl
@[simp] theorem State.modPart_remote (n : Nat) (f : Part → Part) : (s.modPart n f).remote = s.remote := rfl
@[simp] theorem State.modPart_fn0 (n : Nat) (f : Part → Part) : (s.modPart n f).fn0 = s.fn0 := rfl
@[simp] theorem State.modPart_lostmask (n : Nat) (f : Part → Part) : (s.modPart n f).lostmask = s.lostmask := rfl
@[simp] theorem State.modPart_code (n : Nat) (f : Part → Part) : (s.modPart n f).code = s.code := rfl
@[simp] theorem State.modPart_bootStage (n : Nat) (f : Part → Part) : (s.modPart n f).bootStage = s.bootStage := rfl
@[simp] theorem State.modPart_bootReason (n : Nat) (f : Part → Part) : (s.modPart n f).bootReason = s.bootReason := rfl
@[simp] theorem State.modPart_power (n : Nat) (f : Part → Part) : (s.modPart n f).power = s.power := rfl
@[simp] theorem State.modPart_gating (n : Nat) (f : Part → Part) : (s.modPart n f).gating = s.gating := rfl
@[simp] theorem State.modPart_hot (n : Nat) (f : Part → Part) : (s.modPart n f).hot = s.hot := rfl
@[simp] theorem State.modPart_withheld (n : Nat) (f : Part → Part) : (s.modPart n f).withheld = s.withheld := rfl
@[simp] theorem State.modPart_minVersion (n : Nat) (f : Part → Part) : (s.modPart n f).minVersion = s.minVersion := rfl
@[simp] theorem State.modPart_measures (n : Nat) (f : Part → Part) : (s.modPart n f).measures = s.measures := rfl
@[simp] theorem State.modPart_spdm (n : Nat) (f : Part → Part) : (s.modPart n f).spdm = s.spdm := rfl
@[simp] theorem State.modPart_fn0Session (n : Nat) (f : Part → Part) : (s.modPart n f).fn0Session = s.fn0Session := rfl
@[simp] theorem State.modPart_ideOn (n : Nat) (f : Part → Part) : (s.modPart n f).ideOn = s.ideOn := rfl
@[simp] theorem State.modPart_served (n : Nat) (f : Part → Part) : (s.modPart n f).served = s.served := rfl
@[simp] theorem State.modPart_mesh (n : Nat) (f : Part → Part) : (s.modPart n f).mesh = s.mesh := rfl
@[simp] theorem State.modPart_forwards (n : Nat) (f : Part → Part) : (s.modPart n f).forwards = s.forwards := rfl
@[simp] theorem State.modPart_outputs (n : Nat) (f : Part → Part) : (s.modPart n f).outputs = s.outputs := rfl
@[simp] theorem State.modPart_scMissed (n : Nat) (f : Part → Part) : (s.modPart n f).scMissed = s.scMissed := rfl
@[simp] theorem State.modPart_scFailed (n : Nat) (f : Part → Part) : (s.modPart n f).scFailed = s.scFailed := rfl
@[simp] theorem State.modPart_mcMissed (n : Nat) (f : Part → Part) : (s.modPart n f).mcMissed = s.mcMissed := rfl
@[simp] theorem State.modPart_dumps (n : Nat) (f : Part → Part) : (s.modPart n f).dumps = s.dumps := rfl
@[simp] theorem State.modPart_lost (n : Nat) (f : Part → Part) : (s.modPart n f).lost = s.lost := rfl
@[simp] theorem State.modPart_fatal (n : Nat) (f : Part → Part) : (s.modPart n f).fatal = s.fatal := rfl
@[simp] theorem State.modPart_stopped (n : Nat) (f : Part → Part) : (s.modPart n f).stopped = s.stopped := rfl
@[simp] theorem State.modPart_snapshots (n : Nat) (f : Part → Part) : (s.modPart n f).snapshots = s.snapshots := rfl

@[simp] theorem State.modActor_clock (p n : Nat) (f : Actor → Actor) : (s.modActor p n f).clock = s.clock := rfl
@[simp] theorem State.modActor_skew (p n : Nat) (f : Actor → Actor) : (s.modActor p n f).skew = s.skew := rfl
@[simp] theorem State.modActor_turn (p n : Nat) (f : Actor → Actor) : (s.modActor p n f).turn = s.turn := rfl
@[simp] theorem State.modActor_owed (p n : Nat) (f : Actor → Actor) : (s.modActor p n f).owed = s.owed := rfl
@[simp] theorem State.modActor_moving (p n : Nat) (f : Actor → Actor) : (s.modActor p n f).moving = s.moving := rfl
@[simp] theorem State.modActor_updates (p n : Nat) (f : Actor → Actor) : (s.modActor p n f).updates = s.updates := rfl
@[simp] theorem State.modActor_flash (p n : Nat) (f : Actor → Actor) : (s.modActor p n f).flash = s.flash := rfl
@[simp] theorem State.modActor_temps (p n : Nat) (f : Actor → Actor) : (s.modActor p n f).temps = s.temps := rfl
@[simp] theorem State.modActor_svc (p n : Nat) (f : Actor → Actor) : (s.modActor p n f).svc = s.svc := rfl
@[simp] theorem State.modActor_requests (p n : Nat) (f : Actor → Actor) : (s.modActor p n f).requests = s.requests := rfl
@[simp] theorem State.modActor_flits (p n : Nat) (f : Actor → Actor) : (s.modActor p n f).flits = s.flits := rfl
@[simp] theorem State.modActor_linkFlits (p n : Nat) (f : Actor → Actor) : (s.modActor p n f).linkFlits = s.linkFlits := rfl
@[simp] theorem State.modActor_stomping (p n : Nat) (f : Actor → Actor) : (s.modActor p n f).stomping = s.stomping := rfl
@[simp] theorem State.modActor_ide (p n : Nat) (f : Actor → Actor) : (s.modActor p n f).ide = s.ide := rfl
@[simp] theorem State.modActor_stamps (p n : Nat) (f : Actor → Actor) : (s.modActor p n f).stamps = s.stamps := rfl
@[simp] theorem State.modActor_free (p n : Nat) (f : Actor → Actor) : (s.modActor p n f).free = s.free := rfl
@[simp] theorem State.modActor_serial (p n : Nat) (f : Actor → Actor) : (s.modActor p n f).serial = s.serial := rfl
@[simp] theorem State.modActor_agenda (p n : Nat) (f : Actor → Actor) : (s.modActor p n f).agenda = s.agenda := rfl
@[simp] theorem State.modActor_carry (p n : Nat) (f : Actor → Actor) : (s.modActor p n f).carry = s.carry := rfl
@[simp] theorem State.modActor_timers (p n : Nat) (f : Actor → Actor) : (s.modActor p n f).timers = s.timers := rfl
@[simp] theorem State.modActor_todo (p n : Nat) (f : Actor → Actor) : (s.modActor p n f).todo = s.todo := rfl
@[simp] theorem State.modActor_cur (p n : Nat) (f : Actor → Actor) : (s.modActor p n f).cur = s.cur := rfl
@[simp] theorem State.modActor_ctxs (p n : Nat) (f : Actor → Actor) : (s.modActor p n f).ctxs = s.ctxs := rfl
@[simp] theorem State.modActor_cores (p n : Nat) (f : Actor → Actor) : (s.modActor p n f).cores = s.cores := rfl
@[simp] theorem State.modActor_clusters (p n : Nat) (f : Actor → Actor) : (s.modActor p n f).clusters = s.clusters := rfl
@[simp] theorem State.modActor_scratch (p n : Nat) (f : Actor → Actor) : (s.modActor p n f).scratch = s.scratch := rfl
@[simp] theorem State.modActor_dram (p n : Nat) (f : Actor → Actor) : (s.modActor p n f).dram = s.dram := rfl
@[simp] theorem State.modActor_sramTags (p n : Nat) (f : Actor → Actor) : (s.modActor p n f).sramTags = s.sramTags := rfl
@[simp] theorem State.modActor_poison (p n : Nat) (f : Actor → Actor) : (s.modActor p n f).poison = s.poison := rfl
@[simp] theorem State.modActor_stale (p n : Nat) (f : Actor → Actor) : (s.modActor p n f).stale = s.stale := rfl
@[simp] theorem State.modActor_releases (p n : Nat) (f : Actor → Actor) : (s.modActor p n f).releases = s.releases := rfl
@[simp] theorem State.modActor_acts (p n : Nat) (f : Actor → Actor) : (s.modActor p n f).acts = s.acts := rfl
@[simp] theorem State.modActor_transit (p n : Nat) (f : Actor → Actor) : (s.modActor p n f).transit = s.transit := rfl
@[simp] theorem State.modActor_fab (p n : Nat) (f : Actor → Actor) : (s.modActor p n f).fab = s.fab := rfl
@[simp] theorem State.modActor_peers (p n : Nat) (f : Actor → Actor) : (s.modActor p n f).peers = s.peers := rfl
@[simp] theorem State.modActor_ports (p n : Nat) (f : Actor → Actor) : (s.modActor p n f).ports = s.ports := rfl
@[simp] theorem State.modActor_remote (p n : Nat) (f : Actor → Actor) : (s.modActor p n f).remote = s.remote := rfl
@[simp] theorem State.modActor_fn0 (p n : Nat) (f : Actor → Actor) : (s.modActor p n f).fn0 = s.fn0 := rfl
@[simp] theorem State.modActor_lostmask (p n : Nat) (f : Actor → Actor) : (s.modActor p n f).lostmask = s.lostmask := rfl
@[simp] theorem State.modActor_code (p n : Nat) (f : Actor → Actor) : (s.modActor p n f).code = s.code := rfl
@[simp] theorem State.modActor_bootStage (p n : Nat) (f : Actor → Actor) : (s.modActor p n f).bootStage = s.bootStage := rfl
@[simp] theorem State.modActor_bootReason (p n : Nat) (f : Actor → Actor) : (s.modActor p n f).bootReason = s.bootReason := rfl
@[simp] theorem State.modActor_power (p n : Nat) (f : Actor → Actor) : (s.modActor p n f).power = s.power := rfl
@[simp] theorem State.modActor_gating (p n : Nat) (f : Actor → Actor) : (s.modActor p n f).gating = s.gating := rfl
@[simp] theorem State.modActor_hot (p n : Nat) (f : Actor → Actor) : (s.modActor p n f).hot = s.hot := rfl
@[simp] theorem State.modActor_withheld (p n : Nat) (f : Actor → Actor) : (s.modActor p n f).withheld = s.withheld := rfl
@[simp] theorem State.modActor_minVersion (p n : Nat) (f : Actor → Actor) : (s.modActor p n f).minVersion = s.minVersion := rfl
@[simp] theorem State.modActor_measures (p n : Nat) (f : Actor → Actor) : (s.modActor p n f).measures = s.measures := rfl
@[simp] theorem State.modActor_spdm (p n : Nat) (f : Actor → Actor) : (s.modActor p n f).spdm = s.spdm := rfl
@[simp] theorem State.modActor_fn0Session (p n : Nat) (f : Actor → Actor) : (s.modActor p n f).fn0Session = s.fn0Session := rfl
@[simp] theorem State.modActor_ideOn (p n : Nat) (f : Actor → Actor) : (s.modActor p n f).ideOn = s.ideOn := rfl
@[simp] theorem State.modActor_served (p n : Nat) (f : Actor → Actor) : (s.modActor p n f).served = s.served := rfl
@[simp] theorem State.modActor_mesh (p n : Nat) (f : Actor → Actor) : (s.modActor p n f).mesh = s.mesh := rfl
@[simp] theorem State.modActor_forwards (p n : Nat) (f : Actor → Actor) : (s.modActor p n f).forwards = s.forwards := rfl
@[simp] theorem State.modActor_outputs (p n : Nat) (f : Actor → Actor) : (s.modActor p n f).outputs = s.outputs := rfl
@[simp] theorem State.modActor_scMissed (p n : Nat) (f : Actor → Actor) : (s.modActor p n f).scMissed = s.scMissed := rfl
@[simp] theorem State.modActor_scFailed (p n : Nat) (f : Actor → Actor) : (s.modActor p n f).scFailed = s.scFailed := rfl
@[simp] theorem State.modActor_mcMissed (p n : Nat) (f : Actor → Actor) : (s.modActor p n f).mcMissed = s.mcMissed := rfl
@[simp] theorem State.modActor_dumps (p n : Nat) (f : Actor → Actor) : (s.modActor p n f).dumps = s.dumps := rfl
@[simp] theorem State.modActor_lost (p n : Nat) (f : Actor → Actor) : (s.modActor p n f).lost = s.lost := rfl
@[simp] theorem State.modActor_fatal (p n : Nat) (f : Actor → Actor) : (s.modActor p n f).fatal = s.fatal := rfl
@[simp] theorem State.modActor_stopped (p n : Nat) (f : Actor → Actor) : (s.modActor p n f).stopped = s.stopped := rfl
@[simp] theorem State.modActor_snapshots (p n : Nat) (f : Actor → Actor) : (s.modActor p n f).snapshots = s.snapshots := rfl

@[simp] theorem State.modCtx_clock (c : Nat) (f : Ctx → Ctx) : (s.modCtx c f).clock = s.clock := rfl
@[simp] theorem State.modCtx_skew (c : Nat) (f : Ctx → Ctx) : (s.modCtx c f).skew = s.skew := rfl
@[simp] theorem State.modCtx_turn (c : Nat) (f : Ctx → Ctx) : (s.modCtx c f).turn = s.turn := rfl
@[simp] theorem State.modCtx_owed (c : Nat) (f : Ctx → Ctx) : (s.modCtx c f).owed = s.owed := rfl
@[simp] theorem State.modCtx_moving (c : Nat) (f : Ctx → Ctx) : (s.modCtx c f).moving = s.moving := rfl
@[simp] theorem State.modCtx_updates (c : Nat) (f : Ctx → Ctx) : (s.modCtx c f).updates = s.updates := rfl
@[simp] theorem State.modCtx_flash (c : Nat) (f : Ctx → Ctx) : (s.modCtx c f).flash = s.flash := rfl
@[simp] theorem State.modCtx_temps (c : Nat) (f : Ctx → Ctx) : (s.modCtx c f).temps = s.temps := rfl
@[simp] theorem State.modCtx_svc (c : Nat) (f : Ctx → Ctx) : (s.modCtx c f).svc = s.svc := rfl
@[simp] theorem State.modCtx_requests (c : Nat) (f : Ctx → Ctx) : (s.modCtx c f).requests = s.requests := rfl
@[simp] theorem State.modCtx_flits (c : Nat) (f : Ctx → Ctx) : (s.modCtx c f).flits = s.flits := rfl
@[simp] theorem State.modCtx_linkFlits (c : Nat) (f : Ctx → Ctx) : (s.modCtx c f).linkFlits = s.linkFlits := rfl
@[simp] theorem State.modCtx_stomping (c : Nat) (f : Ctx → Ctx) : (s.modCtx c f).stomping = s.stomping := rfl
@[simp] theorem State.modCtx_ide (c : Nat) (f : Ctx → Ctx) : (s.modCtx c f).ide = s.ide := rfl
@[simp] theorem State.modCtx_stamps (c : Nat) (f : Ctx → Ctx) : (s.modCtx c f).stamps = s.stamps := rfl
@[simp] theorem State.modCtx_free (c : Nat) (f : Ctx → Ctx) : (s.modCtx c f).free = s.free := rfl
@[simp] theorem State.modCtx_serial (c : Nat) (f : Ctx → Ctx) : (s.modCtx c f).serial = s.serial := rfl
@[simp] theorem State.modCtx_agenda (c : Nat) (f : Ctx → Ctx) : (s.modCtx c f).agenda = s.agenda := rfl
@[simp] theorem State.modCtx_carry (c : Nat) (f : Ctx → Ctx) : (s.modCtx c f).carry = s.carry := rfl
@[simp] theorem State.modCtx_timers (c : Nat) (f : Ctx → Ctx) : (s.modCtx c f).timers = s.timers := rfl
@[simp] theorem State.modCtx_todo (c : Nat) (f : Ctx → Ctx) : (s.modCtx c f).todo = s.todo := rfl
@[simp] theorem State.modCtx_cur (c : Nat) (f : Ctx → Ctx) : (s.modCtx c f).cur = s.cur := rfl
@[simp] theorem State.modCtx_cores (c : Nat) (f : Ctx → Ctx) : (s.modCtx c f).cores = s.cores := rfl
@[simp] theorem State.modCtx_clusters (c : Nat) (f : Ctx → Ctx) : (s.modCtx c f).clusters = s.clusters := rfl
@[simp] theorem State.modCtx_scratch (c : Nat) (f : Ctx → Ctx) : (s.modCtx c f).scratch = s.scratch := rfl
@[simp] theorem State.modCtx_dram (c : Nat) (f : Ctx → Ctx) : (s.modCtx c f).dram = s.dram := rfl
@[simp] theorem State.modCtx_sramTags (c : Nat) (f : Ctx → Ctx) : (s.modCtx c f).sramTags = s.sramTags := rfl
@[simp] theorem State.modCtx_poison (c : Nat) (f : Ctx → Ctx) : (s.modCtx c f).poison = s.poison := rfl
@[simp] theorem State.modCtx_stale (c : Nat) (f : Ctx → Ctx) : (s.modCtx c f).stale = s.stale := rfl
@[simp] theorem State.modCtx_releases (c : Nat) (f : Ctx → Ctx) : (s.modCtx c f).releases = s.releases := rfl
@[simp] theorem State.modCtx_acts (c : Nat) (f : Ctx → Ctx) : (s.modCtx c f).acts = s.acts := rfl
@[simp] theorem State.modCtx_parts (c : Nat) (f : Ctx → Ctx) : (s.modCtx c f).parts = s.parts := rfl
@[simp] theorem State.modCtx_transit (c : Nat) (f : Ctx → Ctx) : (s.modCtx c f).transit = s.transit := rfl
@[simp] theorem State.modCtx_fab (c : Nat) (f : Ctx → Ctx) : (s.modCtx c f).fab = s.fab := rfl
@[simp] theorem State.modCtx_peers (c : Nat) (f : Ctx → Ctx) : (s.modCtx c f).peers = s.peers := rfl
@[simp] theorem State.modCtx_ports (c : Nat) (f : Ctx → Ctx) : (s.modCtx c f).ports = s.ports := rfl
@[simp] theorem State.modCtx_remote (c : Nat) (f : Ctx → Ctx) : (s.modCtx c f).remote = s.remote := rfl
@[simp] theorem State.modCtx_fn0 (c : Nat) (f : Ctx → Ctx) : (s.modCtx c f).fn0 = s.fn0 := rfl
@[simp] theorem State.modCtx_lostmask (c : Nat) (f : Ctx → Ctx) : (s.modCtx c f).lostmask = s.lostmask := rfl
@[simp] theorem State.modCtx_code (c : Nat) (f : Ctx → Ctx) : (s.modCtx c f).code = s.code := rfl
@[simp] theorem State.modCtx_bootStage (c : Nat) (f : Ctx → Ctx) : (s.modCtx c f).bootStage = s.bootStage := rfl
@[simp] theorem State.modCtx_bootReason (c : Nat) (f : Ctx → Ctx) : (s.modCtx c f).bootReason = s.bootReason := rfl
@[simp] theorem State.modCtx_power (c : Nat) (f : Ctx → Ctx) : (s.modCtx c f).power = s.power := rfl
@[simp] theorem State.modCtx_gating (c : Nat) (f : Ctx → Ctx) : (s.modCtx c f).gating = s.gating := rfl
@[simp] theorem State.modCtx_hot (c : Nat) (f : Ctx → Ctx) : (s.modCtx c f).hot = s.hot := rfl
@[simp] theorem State.modCtx_withheld (c : Nat) (f : Ctx → Ctx) : (s.modCtx c f).withheld = s.withheld := rfl
@[simp] theorem State.modCtx_minVersion (c : Nat) (f : Ctx → Ctx) : (s.modCtx c f).minVersion = s.minVersion := rfl
@[simp] theorem State.modCtx_measures (c : Nat) (f : Ctx → Ctx) : (s.modCtx c f).measures = s.measures := rfl
@[simp] theorem State.modCtx_spdm (c : Nat) (f : Ctx → Ctx) : (s.modCtx c f).spdm = s.spdm := rfl
@[simp] theorem State.modCtx_fn0Session (c : Nat) (f : Ctx → Ctx) : (s.modCtx c f).fn0Session = s.fn0Session := rfl
@[simp] theorem State.modCtx_ideOn (c : Nat) (f : Ctx → Ctx) : (s.modCtx c f).ideOn = s.ideOn := rfl
@[simp] theorem State.modCtx_served (c : Nat) (f : Ctx → Ctx) : (s.modCtx c f).served = s.served := rfl
@[simp] theorem State.modCtx_mesh (c : Nat) (f : Ctx → Ctx) : (s.modCtx c f).mesh = s.mesh := rfl
@[simp] theorem State.modCtx_forwards (c : Nat) (f : Ctx → Ctx) : (s.modCtx c f).forwards = s.forwards := rfl
@[simp] theorem State.modCtx_outputs (c : Nat) (f : Ctx → Ctx) : (s.modCtx c f).outputs = s.outputs := rfl
@[simp] theorem State.modCtx_scMissed (c : Nat) (f : Ctx → Ctx) : (s.modCtx c f).scMissed = s.scMissed := rfl
@[simp] theorem State.modCtx_scFailed (c : Nat) (f : Ctx → Ctx) : (s.modCtx c f).scFailed = s.scFailed := rfl
@[simp] theorem State.modCtx_mcMissed (c : Nat) (f : Ctx → Ctx) : (s.modCtx c f).mcMissed = s.mcMissed := rfl
@[simp] theorem State.modCtx_dumps (c : Nat) (f : Ctx → Ctx) : (s.modCtx c f).dumps = s.dumps := rfl
@[simp] theorem State.modCtx_lost (c : Nat) (f : Ctx → Ctx) : (s.modCtx c f).lost = s.lost := rfl
@[simp] theorem State.modCtx_fatal (c : Nat) (f : Ctx → Ctx) : (s.modCtx c f).fatal = s.fatal := rfl
@[simp] theorem State.modCtx_stopped (c : Nat) (f : Ctx → Ctx) : (s.modCtx c f).stopped = s.stopped := rfl
@[simp] theorem State.modCtx_snapshots (c : Nat) (f : Ctx → Ctx) : (s.modCtx c f).snapshots = s.snapshots := rfl

@[simp] theorem State.advance_clock (c : Nat) : (s.advance c).clock = s.clock := rfl
@[simp] theorem State.advance_skew (c : Nat) : (s.advance c).skew = s.skew := rfl
@[simp] theorem State.advance_turn (c : Nat) : (s.advance c).turn = s.turn := rfl
@[simp] theorem State.advance_owed (c : Nat) : (s.advance c).owed = s.owed := rfl
@[simp] theorem State.advance_moving (c : Nat) : (s.advance c).moving = s.moving := rfl
@[simp] theorem State.advance_updates (c : Nat) : (s.advance c).updates = s.updates := rfl
@[simp] theorem State.advance_flash (c : Nat) : (s.advance c).flash = s.flash := rfl
@[simp] theorem State.advance_temps (c : Nat) : (s.advance c).temps = s.temps := rfl
@[simp] theorem State.advance_svc (c : Nat) : (s.advance c).svc = s.svc := rfl
@[simp] theorem State.advance_requests (c : Nat) : (s.advance c).requests = s.requests := rfl
@[simp] theorem State.advance_flits (c : Nat) : (s.advance c).flits = s.flits := rfl
@[simp] theorem State.advance_linkFlits (c : Nat) : (s.advance c).linkFlits = s.linkFlits := rfl
@[simp] theorem State.advance_stomping (c : Nat) : (s.advance c).stomping = s.stomping := rfl
@[simp] theorem State.advance_ide (c : Nat) : (s.advance c).ide = s.ide := rfl
@[simp] theorem State.advance_stamps (c : Nat) : (s.advance c).stamps = s.stamps := rfl
@[simp] theorem State.advance_free (c : Nat) : (s.advance c).free = s.free := rfl
@[simp] theorem State.advance_serial (c : Nat) : (s.advance c).serial = s.serial := rfl
@[simp] theorem State.advance_agenda (c : Nat) : (s.advance c).agenda = s.agenda := rfl
@[simp] theorem State.advance_carry (c : Nat) : (s.advance c).carry = s.carry := rfl
@[simp] theorem State.advance_timers (c : Nat) : (s.advance c).timers = s.timers := rfl
@[simp] theorem State.advance_todo (c : Nat) : (s.advance c).todo = s.todo := rfl
@[simp] theorem State.advance_cur (c : Nat) : (s.advance c).cur = s.cur := rfl
@[simp] theorem State.advance_cores (c : Nat) : (s.advance c).cores = s.cores := rfl
@[simp] theorem State.advance_clusters (c : Nat) : (s.advance c).clusters = s.clusters := rfl
@[simp] theorem State.advance_scratch (c : Nat) : (s.advance c).scratch = s.scratch := rfl
@[simp] theorem State.advance_dram (c : Nat) : (s.advance c).dram = s.dram := rfl
@[simp] theorem State.advance_sramTags (c : Nat) : (s.advance c).sramTags = s.sramTags := rfl
@[simp] theorem State.advance_poison (c : Nat) : (s.advance c).poison = s.poison := rfl
@[simp] theorem State.advance_stale (c : Nat) : (s.advance c).stale = s.stale := rfl
@[simp] theorem State.advance_releases (c : Nat) : (s.advance c).releases = s.releases := rfl
@[simp] theorem State.advance_acts (c : Nat) : (s.advance c).acts = s.acts := rfl
@[simp] theorem State.advance_parts (c : Nat) : (s.advance c).parts = s.parts := rfl
@[simp] theorem State.advance_transit (c : Nat) : (s.advance c).transit = s.transit := rfl
@[simp] theorem State.advance_fab (c : Nat) : (s.advance c).fab = s.fab := rfl
@[simp] theorem State.advance_peers (c : Nat) : (s.advance c).peers = s.peers := rfl
@[simp] theorem State.advance_ports (c : Nat) : (s.advance c).ports = s.ports := rfl
@[simp] theorem State.advance_remote (c : Nat) : (s.advance c).remote = s.remote := rfl
@[simp] theorem State.advance_fn0 (c : Nat) : (s.advance c).fn0 = s.fn0 := rfl
@[simp] theorem State.advance_lostmask (c : Nat) : (s.advance c).lostmask = s.lostmask := rfl
@[simp] theorem State.advance_code (c : Nat) : (s.advance c).code = s.code := rfl
@[simp] theorem State.advance_bootStage (c : Nat) : (s.advance c).bootStage = s.bootStage := rfl
@[simp] theorem State.advance_bootReason (c : Nat) : (s.advance c).bootReason = s.bootReason := rfl
@[simp] theorem State.advance_power (c : Nat) : (s.advance c).power = s.power := rfl
@[simp] theorem State.advance_gating (c : Nat) : (s.advance c).gating = s.gating := rfl
@[simp] theorem State.advance_hot (c : Nat) : (s.advance c).hot = s.hot := rfl
@[simp] theorem State.advance_withheld (c : Nat) : (s.advance c).withheld = s.withheld := rfl
@[simp] theorem State.advance_minVersion (c : Nat) : (s.advance c).minVersion = s.minVersion := rfl
@[simp] theorem State.advance_measures (c : Nat) : (s.advance c).measures = s.measures := rfl
@[simp] theorem State.advance_spdm (c : Nat) : (s.advance c).spdm = s.spdm := rfl
@[simp] theorem State.advance_fn0Session (c : Nat) : (s.advance c).fn0Session = s.fn0Session := rfl
@[simp] theorem State.advance_ideOn (c : Nat) : (s.advance c).ideOn = s.ideOn := rfl
@[simp] theorem State.advance_served (c : Nat) : (s.advance c).served = s.served := rfl
@[simp] theorem State.advance_mesh (c : Nat) : (s.advance c).mesh = s.mesh := rfl
@[simp] theorem State.advance_forwards (c : Nat) : (s.advance c).forwards = s.forwards := rfl
@[simp] theorem State.advance_outputs (c : Nat) : (s.advance c).outputs = s.outputs := rfl
@[simp] theorem State.advance_scMissed (c : Nat) : (s.advance c).scMissed = s.scMissed := rfl
@[simp] theorem State.advance_scFailed (c : Nat) : (s.advance c).scFailed = s.scFailed := rfl
@[simp] theorem State.advance_mcMissed (c : Nat) : (s.advance c).mcMissed = s.mcMissed := rfl
@[simp] theorem State.advance_dumps (c : Nat) : (s.advance c).dumps = s.dumps := rfl
@[simp] theorem State.advance_lost (c : Nat) : (s.advance c).lost = s.lost := rfl
@[simp] theorem State.advance_fatal (c : Nat) : (s.advance c).fatal = s.fatal := rfl
@[simp] theorem State.advance_stopped (c : Nat) : (s.advance c).stopped = s.stopped := rfl
@[simp] theorem State.advance_snapshots (c : Nat) : (s.advance c).snapshots = s.snapshots := rfl

@[simp] theorem State.result_clock (c L : Nat) (ws : List RegWrite) : (s.result c L ws).clock = s.clock := rfl
@[simp] theorem State.result_skew (c L : Nat) (ws : List RegWrite) : (s.result c L ws).skew = s.skew := rfl
@[simp] theorem State.result_turn (c L : Nat) (ws : List RegWrite) : (s.result c L ws).turn = s.turn := rfl
@[simp] theorem State.result_owed (c L : Nat) (ws : List RegWrite) : (s.result c L ws).owed = s.owed := rfl
@[simp] theorem State.result_moving (c L : Nat) (ws : List RegWrite) : (s.result c L ws).moving = s.moving := rfl
@[simp] theorem State.result_updates (c L : Nat) (ws : List RegWrite) : (s.result c L ws).updates = s.updates := rfl
@[simp] theorem State.result_flash (c L : Nat) (ws : List RegWrite) : (s.result c L ws).flash = s.flash := rfl
@[simp] theorem State.result_temps (c L : Nat) (ws : List RegWrite) : (s.result c L ws).temps = s.temps := rfl
@[simp] theorem State.result_svc (c L : Nat) (ws : List RegWrite) : (s.result c L ws).svc = s.svc := rfl
@[simp] theorem State.result_requests (c L : Nat) (ws : List RegWrite) : (s.result c L ws).requests = s.requests := rfl
@[simp] theorem State.result_flits (c L : Nat) (ws : List RegWrite) : (s.result c L ws).flits = s.flits := rfl
@[simp] theorem State.result_linkFlits (c L : Nat) (ws : List RegWrite) : (s.result c L ws).linkFlits = s.linkFlits := rfl
@[simp] theorem State.result_stomping (c L : Nat) (ws : List RegWrite) : (s.result c L ws).stomping = s.stomping := rfl
@[simp] theorem State.result_ide (c L : Nat) (ws : List RegWrite) : (s.result c L ws).ide = s.ide := rfl
@[simp] theorem State.result_stamps (c L : Nat) (ws : List RegWrite) : (s.result c L ws).stamps = s.stamps := rfl
@[simp] theorem State.result_free (c L : Nat) (ws : List RegWrite) : (s.result c L ws).free = s.free := rfl
@[simp] theorem State.result_serial (c L : Nat) (ws : List RegWrite) : (s.result c L ws).serial = s.serial := rfl
@[simp] theorem State.result_agenda (c L : Nat) (ws : List RegWrite) : (s.result c L ws).agenda = s.agenda := rfl
@[simp] theorem State.result_carry (c L : Nat) (ws : List RegWrite) : (s.result c L ws).carry = s.carry := rfl
@[simp] theorem State.result_timers (c L : Nat) (ws : List RegWrite) : (s.result c L ws).timers = s.timers := rfl
@[simp] theorem State.result_todo (c L : Nat) (ws : List RegWrite) : (s.result c L ws).todo = s.todo := rfl
@[simp] theorem State.result_cur (c L : Nat) (ws : List RegWrite) : (s.result c L ws).cur = s.cur := rfl
@[simp] theorem State.result_cores (c L : Nat) (ws : List RegWrite) : (s.result c L ws).cores = s.cores := rfl
@[simp] theorem State.result_clusters (c L : Nat) (ws : List RegWrite) : (s.result c L ws).clusters = s.clusters := rfl
@[simp] theorem State.result_scratch (c L : Nat) (ws : List RegWrite) : (s.result c L ws).scratch = s.scratch := rfl
@[simp] theorem State.result_dram (c L : Nat) (ws : List RegWrite) : (s.result c L ws).dram = s.dram := rfl
@[simp] theorem State.result_sramTags (c L : Nat) (ws : List RegWrite) : (s.result c L ws).sramTags = s.sramTags := rfl
@[simp] theorem State.result_poison (c L : Nat) (ws : List RegWrite) : (s.result c L ws).poison = s.poison := rfl
@[simp] theorem State.result_stale (c L : Nat) (ws : List RegWrite) : (s.result c L ws).stale = s.stale := rfl
@[simp] theorem State.result_releases (c L : Nat) (ws : List RegWrite) : (s.result c L ws).releases = s.releases := rfl
@[simp] theorem State.result_acts (c L : Nat) (ws : List RegWrite) : (s.result c L ws).acts = s.acts := rfl
@[simp] theorem State.result_parts (c L : Nat) (ws : List RegWrite) : (s.result c L ws).parts = s.parts := rfl
@[simp] theorem State.result_transit (c L : Nat) (ws : List RegWrite) : (s.result c L ws).transit = s.transit := rfl
@[simp] theorem State.result_fab (c L : Nat) (ws : List RegWrite) : (s.result c L ws).fab = s.fab := rfl
@[simp] theorem State.result_peers (c L : Nat) (ws : List RegWrite) : (s.result c L ws).peers = s.peers := rfl
@[simp] theorem State.result_ports (c L : Nat) (ws : List RegWrite) : (s.result c L ws).ports = s.ports := rfl
@[simp] theorem State.result_remote (c L : Nat) (ws : List RegWrite) : (s.result c L ws).remote = s.remote := rfl
@[simp] theorem State.result_fn0 (c L : Nat) (ws : List RegWrite) : (s.result c L ws).fn0 = s.fn0 := rfl
@[simp] theorem State.result_lostmask (c L : Nat) (ws : List RegWrite) : (s.result c L ws).lostmask = s.lostmask := rfl
@[simp] theorem State.result_code (c L : Nat) (ws : List RegWrite) : (s.result c L ws).code = s.code := rfl
@[simp] theorem State.result_bootStage (c L : Nat) (ws : List RegWrite) : (s.result c L ws).bootStage = s.bootStage := rfl
@[simp] theorem State.result_bootReason (c L : Nat) (ws : List RegWrite) : (s.result c L ws).bootReason = s.bootReason := rfl
@[simp] theorem State.result_power (c L : Nat) (ws : List RegWrite) : (s.result c L ws).power = s.power := rfl
@[simp] theorem State.result_gating (c L : Nat) (ws : List RegWrite) : (s.result c L ws).gating = s.gating := rfl
@[simp] theorem State.result_hot (c L : Nat) (ws : List RegWrite) : (s.result c L ws).hot = s.hot := rfl
@[simp] theorem State.result_withheld (c L : Nat) (ws : List RegWrite) : (s.result c L ws).withheld = s.withheld := rfl
@[simp] theorem State.result_minVersion (c L : Nat) (ws : List RegWrite) : (s.result c L ws).minVersion = s.minVersion := rfl
@[simp] theorem State.result_measures (c L : Nat) (ws : List RegWrite) : (s.result c L ws).measures = s.measures := rfl
@[simp] theorem State.result_spdm (c L : Nat) (ws : List RegWrite) : (s.result c L ws).spdm = s.spdm := rfl
@[simp] theorem State.result_fn0Session (c L : Nat) (ws : List RegWrite) : (s.result c L ws).fn0Session = s.fn0Session := rfl
@[simp] theorem State.result_ideOn (c L : Nat) (ws : List RegWrite) : (s.result c L ws).ideOn = s.ideOn := rfl
@[simp] theorem State.result_served (c L : Nat) (ws : List RegWrite) : (s.result c L ws).served = s.served := rfl
@[simp] theorem State.result_mesh (c L : Nat) (ws : List RegWrite) : (s.result c L ws).mesh = s.mesh := rfl
@[simp] theorem State.result_forwards (c L : Nat) (ws : List RegWrite) : (s.result c L ws).forwards = s.forwards := rfl
@[simp] theorem State.result_outputs (c L : Nat) (ws : List RegWrite) : (s.result c L ws).outputs = s.outputs := rfl
@[simp] theorem State.result_scMissed (c L : Nat) (ws : List RegWrite) : (s.result c L ws).scMissed = s.scMissed := rfl
@[simp] theorem State.result_scFailed (c L : Nat) (ws : List RegWrite) : (s.result c L ws).scFailed = s.scFailed := rfl
@[simp] theorem State.result_mcMissed (c L : Nat) (ws : List RegWrite) : (s.result c L ws).mcMissed = s.mcMissed := rfl
@[simp] theorem State.result_dumps (c L : Nat) (ws : List RegWrite) : (s.result c L ws).dumps = s.dumps := rfl
@[simp] theorem State.result_lost (c L : Nat) (ws : List RegWrite) : (s.result c L ws).lost = s.lost := rfl
@[simp] theorem State.result_fatal (c L : Nat) (ws : List RegWrite) : (s.result c L ws).fatal = s.fatal := rfl
@[simp] theorem State.result_stopped (c L : Nat) (ws : List RegWrite) : (s.result c L ws).stopped = s.stopped := rfl
@[simp] theorem State.result_snapshots (c L : Nat) (ws : List RegWrite) : (s.result c L ws).snapshots = s.snapshots := rfl

@[simp] theorem State.done_clock (c L : Nat) (ws : List RegWrite) : (s.done c L ws).clock = s.clock := rfl
@[simp] theorem State.done_skew (c L : Nat) (ws : List RegWrite) : (s.done c L ws).skew = s.skew := rfl
@[simp] theorem State.done_turn (c L : Nat) (ws : List RegWrite) : (s.done c L ws).turn = s.turn := rfl
@[simp] theorem State.done_owed (c L : Nat) (ws : List RegWrite) : (s.done c L ws).owed = s.owed := rfl
@[simp] theorem State.done_moving (c L : Nat) (ws : List RegWrite) : (s.done c L ws).moving = s.moving := rfl
@[simp] theorem State.done_updates (c L : Nat) (ws : List RegWrite) : (s.done c L ws).updates = s.updates := rfl
@[simp] theorem State.done_flash (c L : Nat) (ws : List RegWrite) : (s.done c L ws).flash = s.flash := rfl
@[simp] theorem State.done_temps (c L : Nat) (ws : List RegWrite) : (s.done c L ws).temps = s.temps := rfl
@[simp] theorem State.done_svc (c L : Nat) (ws : List RegWrite) : (s.done c L ws).svc = s.svc := rfl
@[simp] theorem State.done_requests (c L : Nat) (ws : List RegWrite) : (s.done c L ws).requests = s.requests := rfl
@[simp] theorem State.done_flits (c L : Nat) (ws : List RegWrite) : (s.done c L ws).flits = s.flits := rfl
@[simp] theorem State.done_linkFlits (c L : Nat) (ws : List RegWrite) : (s.done c L ws).linkFlits = s.linkFlits := rfl
@[simp] theorem State.done_stomping (c L : Nat) (ws : List RegWrite) : (s.done c L ws).stomping = s.stomping := rfl
@[simp] theorem State.done_ide (c L : Nat) (ws : List RegWrite) : (s.done c L ws).ide = s.ide := rfl
@[simp] theorem State.done_stamps (c L : Nat) (ws : List RegWrite) : (s.done c L ws).stamps = s.stamps := rfl
@[simp] theorem State.done_free (c L : Nat) (ws : List RegWrite) : (s.done c L ws).free = s.free := rfl
@[simp] theorem State.done_serial (c L : Nat) (ws : List RegWrite) : (s.done c L ws).serial = s.serial := rfl
@[simp] theorem State.done_agenda (c L : Nat) (ws : List RegWrite) : (s.done c L ws).agenda = s.agenda := rfl
@[simp] theorem State.done_carry (c L : Nat) (ws : List RegWrite) : (s.done c L ws).carry = s.carry := rfl
@[simp] theorem State.done_timers (c L : Nat) (ws : List RegWrite) : (s.done c L ws).timers = s.timers := rfl
@[simp] theorem State.done_todo (c L : Nat) (ws : List RegWrite) : (s.done c L ws).todo = s.todo := rfl
@[simp] theorem State.done_cur (c L : Nat) (ws : List RegWrite) : (s.done c L ws).cur = s.cur := rfl
@[simp] theorem State.done_cores (c L : Nat) (ws : List RegWrite) : (s.done c L ws).cores = s.cores := rfl
@[simp] theorem State.done_clusters (c L : Nat) (ws : List RegWrite) : (s.done c L ws).clusters = s.clusters := rfl
@[simp] theorem State.done_scratch (c L : Nat) (ws : List RegWrite) : (s.done c L ws).scratch = s.scratch := rfl
@[simp] theorem State.done_dram (c L : Nat) (ws : List RegWrite) : (s.done c L ws).dram = s.dram := rfl
@[simp] theorem State.done_sramTags (c L : Nat) (ws : List RegWrite) : (s.done c L ws).sramTags = s.sramTags := rfl
@[simp] theorem State.done_poison (c L : Nat) (ws : List RegWrite) : (s.done c L ws).poison = s.poison := rfl
@[simp] theorem State.done_stale (c L : Nat) (ws : List RegWrite) : (s.done c L ws).stale = s.stale := rfl
@[simp] theorem State.done_releases (c L : Nat) (ws : List RegWrite) : (s.done c L ws).releases = s.releases := rfl
@[simp] theorem State.done_acts (c L : Nat) (ws : List RegWrite) : (s.done c L ws).acts = s.acts := rfl
@[simp] theorem State.done_parts (c L : Nat) (ws : List RegWrite) : (s.done c L ws).parts = s.parts := rfl
@[simp] theorem State.done_transit (c L : Nat) (ws : List RegWrite) : (s.done c L ws).transit = s.transit := rfl
@[simp] theorem State.done_fab (c L : Nat) (ws : List RegWrite) : (s.done c L ws).fab = s.fab := rfl
@[simp] theorem State.done_peers (c L : Nat) (ws : List RegWrite) : (s.done c L ws).peers = s.peers := rfl
@[simp] theorem State.done_ports (c L : Nat) (ws : List RegWrite) : (s.done c L ws).ports = s.ports := rfl
@[simp] theorem State.done_remote (c L : Nat) (ws : List RegWrite) : (s.done c L ws).remote = s.remote := rfl
@[simp] theorem State.done_fn0 (c L : Nat) (ws : List RegWrite) : (s.done c L ws).fn0 = s.fn0 := rfl
@[simp] theorem State.done_lostmask (c L : Nat) (ws : List RegWrite) : (s.done c L ws).lostmask = s.lostmask := rfl
@[simp] theorem State.done_code (c L : Nat) (ws : List RegWrite) : (s.done c L ws).code = s.code := rfl
@[simp] theorem State.done_bootStage (c L : Nat) (ws : List RegWrite) : (s.done c L ws).bootStage = s.bootStage := rfl
@[simp] theorem State.done_bootReason (c L : Nat) (ws : List RegWrite) : (s.done c L ws).bootReason = s.bootReason := rfl
@[simp] theorem State.done_power (c L : Nat) (ws : List RegWrite) : (s.done c L ws).power = s.power := rfl
@[simp] theorem State.done_gating (c L : Nat) (ws : List RegWrite) : (s.done c L ws).gating = s.gating := rfl
@[simp] theorem State.done_hot (c L : Nat) (ws : List RegWrite) : (s.done c L ws).hot = s.hot := rfl
@[simp] theorem State.done_withheld (c L : Nat) (ws : List RegWrite) : (s.done c L ws).withheld = s.withheld := rfl
@[simp] theorem State.done_minVersion (c L : Nat) (ws : List RegWrite) : (s.done c L ws).minVersion = s.minVersion := rfl
@[simp] theorem State.done_measures (c L : Nat) (ws : List RegWrite) : (s.done c L ws).measures = s.measures := rfl
@[simp] theorem State.done_spdm (c L : Nat) (ws : List RegWrite) : (s.done c L ws).spdm = s.spdm := rfl
@[simp] theorem State.done_fn0Session (c L : Nat) (ws : List RegWrite) : (s.done c L ws).fn0Session = s.fn0Session := rfl
@[simp] theorem State.done_ideOn (c L : Nat) (ws : List RegWrite) : (s.done c L ws).ideOn = s.ideOn := rfl
@[simp] theorem State.done_served (c L : Nat) (ws : List RegWrite) : (s.done c L ws).served = s.served := rfl
@[simp] theorem State.done_mesh (c L : Nat) (ws : List RegWrite) : (s.done c L ws).mesh = s.mesh := rfl
@[simp] theorem State.done_forwards (c L : Nat) (ws : List RegWrite) : (s.done c L ws).forwards = s.forwards := rfl
@[simp] theorem State.done_outputs (c L : Nat) (ws : List RegWrite) : (s.done c L ws).outputs = s.outputs := rfl
@[simp] theorem State.done_scMissed (c L : Nat) (ws : List RegWrite) : (s.done c L ws).scMissed = s.scMissed := rfl
@[simp] theorem State.done_scFailed (c L : Nat) (ws : List RegWrite) : (s.done c L ws).scFailed = s.scFailed := rfl
@[simp] theorem State.done_mcMissed (c L : Nat) (ws : List RegWrite) : (s.done c L ws).mcMissed = s.mcMissed := rfl
@[simp] theorem State.done_dumps (c L : Nat) (ws : List RegWrite) : (s.done c L ws).dumps = s.dumps := rfl
@[simp] theorem State.done_lost (c L : Nat) (ws : List RegWrite) : (s.done c L ws).lost = s.lost := rfl
@[simp] theorem State.done_fatal (c L : Nat) (ws : List RegWrite) : (s.done c L ws).fatal = s.fatal := rfl
@[simp] theorem State.done_stopped (c L : Nat) (ws : List RegWrite) : (s.done c L ws).stopped = s.stopped := rfl
@[simp] theorem State.done_snapshots (c L : Nat) (ws : List RegWrite) : (s.done c L ws).snapshots = s.snapshots := rfl

@[simp] theorem State.modAct_clock (a : Nat) (f : Act → Act) : (s.modAct a f).clock = s.clock := rfl
@[simp] theorem State.modAct_skew (a : Nat) (f : Act → Act) : (s.modAct a f).skew = s.skew := rfl
@[simp] theorem State.modAct_turn (a : Nat) (f : Act → Act) : (s.modAct a f).turn = s.turn := rfl
@[simp] theorem State.modAct_owed (a : Nat) (f : Act → Act) : (s.modAct a f).owed = s.owed := rfl
@[simp] theorem State.modAct_moving (a : Nat) (f : Act → Act) : (s.modAct a f).moving = s.moving := rfl
@[simp] theorem State.modAct_updates (a : Nat) (f : Act → Act) : (s.modAct a f).updates = s.updates := rfl
@[simp] theorem State.modAct_flash (a : Nat) (f : Act → Act) : (s.modAct a f).flash = s.flash := rfl
@[simp] theorem State.modAct_temps (a : Nat) (f : Act → Act) : (s.modAct a f).temps = s.temps := rfl
@[simp] theorem State.modAct_svc (a : Nat) (f : Act → Act) : (s.modAct a f).svc = s.svc := rfl
@[simp] theorem State.modAct_requests (a : Nat) (f : Act → Act) : (s.modAct a f).requests = s.requests := rfl
@[simp] theorem State.modAct_flits (a : Nat) (f : Act → Act) : (s.modAct a f).flits = s.flits := rfl
@[simp] theorem State.modAct_linkFlits (a : Nat) (f : Act → Act) : (s.modAct a f).linkFlits = s.linkFlits := rfl
@[simp] theorem State.modAct_stomping (a : Nat) (f : Act → Act) : (s.modAct a f).stomping = s.stomping := rfl
@[simp] theorem State.modAct_ide (a : Nat) (f : Act → Act) : (s.modAct a f).ide = s.ide := rfl
@[simp] theorem State.modAct_stamps (a : Nat) (f : Act → Act) : (s.modAct a f).stamps = s.stamps := rfl
@[simp] theorem State.modAct_free (a : Nat) (f : Act → Act) : (s.modAct a f).free = s.free := rfl
@[simp] theorem State.modAct_serial (a : Nat) (f : Act → Act) : (s.modAct a f).serial = s.serial := rfl
@[simp] theorem State.modAct_agenda (a : Nat) (f : Act → Act) : (s.modAct a f).agenda = s.agenda := rfl
@[simp] theorem State.modAct_carry (a : Nat) (f : Act → Act) : (s.modAct a f).carry = s.carry := rfl
@[simp] theorem State.modAct_timers (a : Nat) (f : Act → Act) : (s.modAct a f).timers = s.timers := rfl
@[simp] theorem State.modAct_todo (a : Nat) (f : Act → Act) : (s.modAct a f).todo = s.todo := rfl
@[simp] theorem State.modAct_cur (a : Nat) (f : Act → Act) : (s.modAct a f).cur = s.cur := rfl
@[simp] theorem State.modAct_ctxs (a : Nat) (f : Act → Act) : (s.modAct a f).ctxs = s.ctxs := rfl
@[simp] theorem State.modAct_cores (a : Nat) (f : Act → Act) : (s.modAct a f).cores = s.cores := rfl
@[simp] theorem State.modAct_clusters (a : Nat) (f : Act → Act) : (s.modAct a f).clusters = s.clusters := rfl
@[simp] theorem State.modAct_scratch (a : Nat) (f : Act → Act) : (s.modAct a f).scratch = s.scratch := rfl
@[simp] theorem State.modAct_dram (a : Nat) (f : Act → Act) : (s.modAct a f).dram = s.dram := rfl
@[simp] theorem State.modAct_sramTags (a : Nat) (f : Act → Act) : (s.modAct a f).sramTags = s.sramTags := rfl
@[simp] theorem State.modAct_poison (a : Nat) (f : Act → Act) : (s.modAct a f).poison = s.poison := rfl
@[simp] theorem State.modAct_stale (a : Nat) (f : Act → Act) : (s.modAct a f).stale = s.stale := rfl
@[simp] theorem State.modAct_releases (a : Nat) (f : Act → Act) : (s.modAct a f).releases = s.releases := rfl
@[simp] theorem State.modAct_parts (a : Nat) (f : Act → Act) : (s.modAct a f).parts = s.parts := rfl
@[simp] theorem State.modAct_transit (a : Nat) (f : Act → Act) : (s.modAct a f).transit = s.transit := rfl
@[simp] theorem State.modAct_fab (a : Nat) (f : Act → Act) : (s.modAct a f).fab = s.fab := rfl
@[simp] theorem State.modAct_peers (a : Nat) (f : Act → Act) : (s.modAct a f).peers = s.peers := rfl
@[simp] theorem State.modAct_ports (a : Nat) (f : Act → Act) : (s.modAct a f).ports = s.ports := rfl
@[simp] theorem State.modAct_remote (a : Nat) (f : Act → Act) : (s.modAct a f).remote = s.remote := rfl
@[simp] theorem State.modAct_fn0 (a : Nat) (f : Act → Act) : (s.modAct a f).fn0 = s.fn0 := rfl
@[simp] theorem State.modAct_lostmask (a : Nat) (f : Act → Act) : (s.modAct a f).lostmask = s.lostmask := rfl
@[simp] theorem State.modAct_code (a : Nat) (f : Act → Act) : (s.modAct a f).code = s.code := rfl
@[simp] theorem State.modAct_bootStage (a : Nat) (f : Act → Act) : (s.modAct a f).bootStage = s.bootStage := rfl
@[simp] theorem State.modAct_bootReason (a : Nat) (f : Act → Act) : (s.modAct a f).bootReason = s.bootReason := rfl
@[simp] theorem State.modAct_power (a : Nat) (f : Act → Act) : (s.modAct a f).power = s.power := rfl
@[simp] theorem State.modAct_gating (a : Nat) (f : Act → Act) : (s.modAct a f).gating = s.gating := rfl
@[simp] theorem State.modAct_hot (a : Nat) (f : Act → Act) : (s.modAct a f).hot = s.hot := rfl
@[simp] theorem State.modAct_withheld (a : Nat) (f : Act → Act) : (s.modAct a f).withheld = s.withheld := rfl
@[simp] theorem State.modAct_minVersion (a : Nat) (f : Act → Act) : (s.modAct a f).minVersion = s.minVersion := rfl
@[simp] theorem State.modAct_measures (a : Nat) (f : Act → Act) : (s.modAct a f).measures = s.measures := rfl
@[simp] theorem State.modAct_spdm (a : Nat) (f : Act → Act) : (s.modAct a f).spdm = s.spdm := rfl
@[simp] theorem State.modAct_fn0Session (a : Nat) (f : Act → Act) : (s.modAct a f).fn0Session = s.fn0Session := rfl
@[simp] theorem State.modAct_ideOn (a : Nat) (f : Act → Act) : (s.modAct a f).ideOn = s.ideOn := rfl
@[simp] theorem State.modAct_served (a : Nat) (f : Act → Act) : (s.modAct a f).served = s.served := rfl
@[simp] theorem State.modAct_mesh (a : Nat) (f : Act → Act) : (s.modAct a f).mesh = s.mesh := rfl
@[simp] theorem State.modAct_forwards (a : Nat) (f : Act → Act) : (s.modAct a f).forwards = s.forwards := rfl
@[simp] theorem State.modAct_outputs (a : Nat) (f : Act → Act) : (s.modAct a f).outputs = s.outputs := rfl
@[simp] theorem State.modAct_scMissed (a : Nat) (f : Act → Act) : (s.modAct a f).scMissed = s.scMissed := rfl
@[simp] theorem State.modAct_scFailed (a : Nat) (f : Act → Act) : (s.modAct a f).scFailed = s.scFailed := rfl
@[simp] theorem State.modAct_mcMissed (a : Nat) (f : Act → Act) : (s.modAct a f).mcMissed = s.mcMissed := rfl
@[simp] theorem State.modAct_dumps (a : Nat) (f : Act → Act) : (s.modAct a f).dumps = s.dumps := rfl
@[simp] theorem State.modAct_lost (a : Nat) (f : Act → Act) : (s.modAct a f).lost = s.lost := rfl
@[simp] theorem State.modAct_fatal (a : Nat) (f : Act → Act) : (s.modAct a f).fatal = s.fatal := rfl
@[simp] theorem State.modAct_stopped (a : Nat) (f : Act → Act) : (s.modAct a f).stopped = s.stopped := rfl
@[simp] theorem State.modAct_snapshots (a : Nat) (f : Act → Act) : (s.modAct a f).snapshots = s.snapshots := rfl

@[simp] theorem State.modMember_clock (a i : Nat) (f : Member → Member) : (s.modMember a i f).clock = s.clock := rfl
@[simp] theorem State.modMember_skew (a i : Nat) (f : Member → Member) : (s.modMember a i f).skew = s.skew := rfl
@[simp] theorem State.modMember_turn (a i : Nat) (f : Member → Member) : (s.modMember a i f).turn = s.turn := rfl
@[simp] theorem State.modMember_owed (a i : Nat) (f : Member → Member) : (s.modMember a i f).owed = s.owed := rfl
@[simp] theorem State.modMember_moving (a i : Nat) (f : Member → Member) : (s.modMember a i f).moving = s.moving := rfl
@[simp] theorem State.modMember_updates (a i : Nat) (f : Member → Member) : (s.modMember a i f).updates = s.updates := rfl
@[simp] theorem State.modMember_flash (a i : Nat) (f : Member → Member) : (s.modMember a i f).flash = s.flash := rfl
@[simp] theorem State.modMember_temps (a i : Nat) (f : Member → Member) : (s.modMember a i f).temps = s.temps := rfl
@[simp] theorem State.modMember_svc (a i : Nat) (f : Member → Member) : (s.modMember a i f).svc = s.svc := rfl
@[simp] theorem State.modMember_requests (a i : Nat) (f : Member → Member) : (s.modMember a i f).requests = s.requests := rfl
@[simp] theorem State.modMember_flits (a i : Nat) (f : Member → Member) : (s.modMember a i f).flits = s.flits := rfl
@[simp] theorem State.modMember_linkFlits (a i : Nat) (f : Member → Member) : (s.modMember a i f).linkFlits = s.linkFlits := rfl
@[simp] theorem State.modMember_stomping (a i : Nat) (f : Member → Member) : (s.modMember a i f).stomping = s.stomping := rfl
@[simp] theorem State.modMember_ide (a i : Nat) (f : Member → Member) : (s.modMember a i f).ide = s.ide := rfl
@[simp] theorem State.modMember_stamps (a i : Nat) (f : Member → Member) : (s.modMember a i f).stamps = s.stamps := rfl
@[simp] theorem State.modMember_free (a i : Nat) (f : Member → Member) : (s.modMember a i f).free = s.free := rfl
@[simp] theorem State.modMember_serial (a i : Nat) (f : Member → Member) : (s.modMember a i f).serial = s.serial := rfl
@[simp] theorem State.modMember_agenda (a i : Nat) (f : Member → Member) : (s.modMember a i f).agenda = s.agenda := rfl
@[simp] theorem State.modMember_carry (a i : Nat) (f : Member → Member) : (s.modMember a i f).carry = s.carry := rfl
@[simp] theorem State.modMember_timers (a i : Nat) (f : Member → Member) : (s.modMember a i f).timers = s.timers := rfl
@[simp] theorem State.modMember_todo (a i : Nat) (f : Member → Member) : (s.modMember a i f).todo = s.todo := rfl
@[simp] theorem State.modMember_cur (a i : Nat) (f : Member → Member) : (s.modMember a i f).cur = s.cur := rfl
@[simp] theorem State.modMember_ctxs (a i : Nat) (f : Member → Member) : (s.modMember a i f).ctxs = s.ctxs := rfl
@[simp] theorem State.modMember_cores (a i : Nat) (f : Member → Member) : (s.modMember a i f).cores = s.cores := rfl
@[simp] theorem State.modMember_clusters (a i : Nat) (f : Member → Member) : (s.modMember a i f).clusters = s.clusters := rfl
@[simp] theorem State.modMember_scratch (a i : Nat) (f : Member → Member) : (s.modMember a i f).scratch = s.scratch := rfl
@[simp] theorem State.modMember_dram (a i : Nat) (f : Member → Member) : (s.modMember a i f).dram = s.dram := rfl
@[simp] theorem State.modMember_sramTags (a i : Nat) (f : Member → Member) : (s.modMember a i f).sramTags = s.sramTags := rfl
@[simp] theorem State.modMember_poison (a i : Nat) (f : Member → Member) : (s.modMember a i f).poison = s.poison := rfl
@[simp] theorem State.modMember_stale (a i : Nat) (f : Member → Member) : (s.modMember a i f).stale = s.stale := rfl
@[simp] theorem State.modMember_releases (a i : Nat) (f : Member → Member) : (s.modMember a i f).releases = s.releases := rfl
@[simp] theorem State.modMember_parts (a i : Nat) (f : Member → Member) : (s.modMember a i f).parts = s.parts := rfl
@[simp] theorem State.modMember_transit (a i : Nat) (f : Member → Member) : (s.modMember a i f).transit = s.transit := rfl
@[simp] theorem State.modMember_fab (a i : Nat) (f : Member → Member) : (s.modMember a i f).fab = s.fab := rfl
@[simp] theorem State.modMember_peers (a i : Nat) (f : Member → Member) : (s.modMember a i f).peers = s.peers := rfl
@[simp] theorem State.modMember_ports (a i : Nat) (f : Member → Member) : (s.modMember a i f).ports = s.ports := rfl
@[simp] theorem State.modMember_remote (a i : Nat) (f : Member → Member) : (s.modMember a i f).remote = s.remote := rfl
@[simp] theorem State.modMember_fn0 (a i : Nat) (f : Member → Member) : (s.modMember a i f).fn0 = s.fn0 := rfl
@[simp] theorem State.modMember_lostmask (a i : Nat) (f : Member → Member) : (s.modMember a i f).lostmask = s.lostmask := rfl
@[simp] theorem State.modMember_code (a i : Nat) (f : Member → Member) : (s.modMember a i f).code = s.code := rfl
@[simp] theorem State.modMember_bootStage (a i : Nat) (f : Member → Member) : (s.modMember a i f).bootStage = s.bootStage := rfl
@[simp] theorem State.modMember_bootReason (a i : Nat) (f : Member → Member) : (s.modMember a i f).bootReason = s.bootReason := rfl
@[simp] theorem State.modMember_power (a i : Nat) (f : Member → Member) : (s.modMember a i f).power = s.power := rfl
@[simp] theorem State.modMember_gating (a i : Nat) (f : Member → Member) : (s.modMember a i f).gating = s.gating := rfl
@[simp] theorem State.modMember_hot (a i : Nat) (f : Member → Member) : (s.modMember a i f).hot = s.hot := rfl
@[simp] theorem State.modMember_withheld (a i : Nat) (f : Member → Member) : (s.modMember a i f).withheld = s.withheld := rfl
@[simp] theorem State.modMember_minVersion (a i : Nat) (f : Member → Member) : (s.modMember a i f).minVersion = s.minVersion := rfl
@[simp] theorem State.modMember_measures (a i : Nat) (f : Member → Member) : (s.modMember a i f).measures = s.measures := rfl
@[simp] theorem State.modMember_spdm (a i : Nat) (f : Member → Member) : (s.modMember a i f).spdm = s.spdm := rfl
@[simp] theorem State.modMember_fn0Session (a i : Nat) (f : Member → Member) : (s.modMember a i f).fn0Session = s.fn0Session := rfl
@[simp] theorem State.modMember_ideOn (a i : Nat) (f : Member → Member) : (s.modMember a i f).ideOn = s.ideOn := rfl
@[simp] theorem State.modMember_served (a i : Nat) (f : Member → Member) : (s.modMember a i f).served = s.served := rfl
@[simp] theorem State.modMember_mesh (a i : Nat) (f : Member → Member) : (s.modMember a i f).mesh = s.mesh := rfl
@[simp] theorem State.modMember_forwards (a i : Nat) (f : Member → Member) : (s.modMember a i f).forwards = s.forwards := rfl
@[simp] theorem State.modMember_outputs (a i : Nat) (f : Member → Member) : (s.modMember a i f).outputs = s.outputs := rfl
@[simp] theorem State.modMember_scMissed (a i : Nat) (f : Member → Member) : (s.modMember a i f).scMissed = s.scMissed := rfl
@[simp] theorem State.modMember_scFailed (a i : Nat) (f : Member → Member) : (s.modMember a i f).scFailed = s.scFailed := rfl
@[simp] theorem State.modMember_mcMissed (a i : Nat) (f : Member → Member) : (s.modMember a i f).mcMissed = s.mcMissed := rfl
@[simp] theorem State.modMember_dumps (a i : Nat) (f : Member → Member) : (s.modMember a i f).dumps = s.dumps := rfl
@[simp] theorem State.modMember_lost (a i : Nat) (f : Member → Member) : (s.modMember a i f).lost = s.lost := rfl
@[simp] theorem State.modMember_fatal (a i : Nat) (f : Member → Member) : (s.modMember a i f).fatal = s.fatal := rfl
@[simp] theorem State.modMember_stopped (a i : Nat) (f : Member → Member) : (s.modMember a i f).stopped = s.stopped := rfl
@[simp] theorem State.modMember_snapshots (a i : Nat) (f : Member → Member) : (s.modMember a i f).snapshots = s.snapshots := rfl

@[simp] theorem State.post_clock (e : Event) : (s.post e).clock = s.clock := rfl
@[simp] theorem State.post_skew (e : Event) : (s.post e).skew = s.skew := rfl
@[simp] theorem State.post_turn (e : Event) : (s.post e).turn = s.turn := rfl
@[simp] theorem State.post_owed (e : Event) : (s.post e).owed = s.owed := rfl
@[simp] theorem State.post_moving (e : Event) : (s.post e).moving = s.moving := rfl
@[simp] theorem State.post_updates (e : Event) : (s.post e).updates = s.updates := rfl
@[simp] theorem State.post_flash (e : Event) : (s.post e).flash = s.flash := rfl
@[simp] theorem State.post_temps (e : Event) : (s.post e).temps = s.temps := rfl
@[simp] theorem State.post_svc (e : Event) : (s.post e).svc = s.svc := rfl
@[simp] theorem State.post_requests (e : Event) : (s.post e).requests = s.requests := rfl
@[simp] theorem State.post_flits (e : Event) : (s.post e).flits = s.flits := rfl
@[simp] theorem State.post_linkFlits (e : Event) : (s.post e).linkFlits = s.linkFlits := rfl
@[simp] theorem State.post_stomping (e : Event) : (s.post e).stomping = s.stomping := rfl
@[simp] theorem State.post_ide (e : Event) : (s.post e).ide = s.ide := rfl
@[simp] theorem State.post_stamps (e : Event) : (s.post e).stamps = s.stamps := rfl
@[simp] theorem State.post_free (e : Event) : (s.post e).free = s.free := rfl
@[simp] theorem State.post_serial (e : Event) : (s.post e).serial = s.serial := rfl
@[simp] theorem State.post_carry (e : Event) : (s.post e).carry = s.carry := rfl
@[simp] theorem State.post_timers (e : Event) : (s.post e).timers = s.timers := rfl
@[simp] theorem State.post_todo (e : Event) : (s.post e).todo = s.todo := rfl
@[simp] theorem State.post_cur (e : Event) : (s.post e).cur = s.cur := rfl
@[simp] theorem State.post_ctxs (e : Event) : (s.post e).ctxs = s.ctxs := rfl
@[simp] theorem State.post_cores (e : Event) : (s.post e).cores = s.cores := rfl
@[simp] theorem State.post_clusters (e : Event) : (s.post e).clusters = s.clusters := rfl
@[simp] theorem State.post_scratch (e : Event) : (s.post e).scratch = s.scratch := rfl
@[simp] theorem State.post_dram (e : Event) : (s.post e).dram = s.dram := rfl
@[simp] theorem State.post_sramTags (e : Event) : (s.post e).sramTags = s.sramTags := rfl
@[simp] theorem State.post_poison (e : Event) : (s.post e).poison = s.poison := rfl
@[simp] theorem State.post_stale (e : Event) : (s.post e).stale = s.stale := rfl
@[simp] theorem State.post_releases (e : Event) : (s.post e).releases = s.releases := rfl
@[simp] theorem State.post_acts (e : Event) : (s.post e).acts = s.acts := rfl
@[simp] theorem State.post_parts (e : Event) : (s.post e).parts = s.parts := rfl
@[simp] theorem State.post_transit (e : Event) : (s.post e).transit = s.transit := rfl
@[simp] theorem State.post_fab (e : Event) : (s.post e).fab = s.fab := rfl
@[simp] theorem State.post_peers (e : Event) : (s.post e).peers = s.peers := rfl
@[simp] theorem State.post_ports (e : Event) : (s.post e).ports = s.ports := rfl
@[simp] theorem State.post_remote (e : Event) : (s.post e).remote = s.remote := rfl
@[simp] theorem State.post_fn0 (e : Event) : (s.post e).fn0 = s.fn0 := rfl
@[simp] theorem State.post_lostmask (e : Event) : (s.post e).lostmask = s.lostmask := rfl
@[simp] theorem State.post_code (e : Event) : (s.post e).code = s.code := rfl
@[simp] theorem State.post_bootStage (e : Event) : (s.post e).bootStage = s.bootStage := rfl
@[simp] theorem State.post_bootReason (e : Event) : (s.post e).bootReason = s.bootReason := rfl
@[simp] theorem State.post_power (e : Event) : (s.post e).power = s.power := rfl
@[simp] theorem State.post_gating (e : Event) : (s.post e).gating = s.gating := rfl
@[simp] theorem State.post_hot (e : Event) : (s.post e).hot = s.hot := rfl
@[simp] theorem State.post_withheld (e : Event) : (s.post e).withheld = s.withheld := rfl
@[simp] theorem State.post_minVersion (e : Event) : (s.post e).minVersion = s.minVersion := rfl
@[simp] theorem State.post_measures (e : Event) : (s.post e).measures = s.measures := rfl
@[simp] theorem State.post_spdm (e : Event) : (s.post e).spdm = s.spdm := rfl
@[simp] theorem State.post_fn0Session (e : Event) : (s.post e).fn0Session = s.fn0Session := rfl
@[simp] theorem State.post_ideOn (e : Event) : (s.post e).ideOn = s.ideOn := rfl
@[simp] theorem State.post_served (e : Event) : (s.post e).served = s.served := rfl
@[simp] theorem State.post_mesh (e : Event) : (s.post e).mesh = s.mesh := rfl
@[simp] theorem State.post_forwards (e : Event) : (s.post e).forwards = s.forwards := rfl
@[simp] theorem State.post_outputs (e : Event) : (s.post e).outputs = s.outputs := rfl
@[simp] theorem State.post_scMissed (e : Event) : (s.post e).scMissed = s.scMissed := rfl
@[simp] theorem State.post_scFailed (e : Event) : (s.post e).scFailed = s.scFailed := rfl
@[simp] theorem State.post_mcMissed (e : Event) : (s.post e).mcMissed = s.mcMissed := rfl
@[simp] theorem State.post_dumps (e : Event) : (s.post e).dumps = s.dumps := rfl
@[simp] theorem State.post_lost (e : Event) : (s.post e).lost = s.lost := rfl
@[simp] theorem State.post_fatal (e : Event) : (s.post e).fatal = s.fatal := rfl
@[simp] theorem State.post_stopped (e : Event) : (s.post e).stopped = s.stopped := rfl
@[simp] theorem State.post_snapshots (e : Event) : (s.post e).snapshots = s.snapshots := rfl

@[simp] theorem State.posts_clock (es : List Event) : (s.posts es).clock = s.clock := rfl
@[simp] theorem State.posts_skew (es : List Event) : (s.posts es).skew = s.skew := rfl
@[simp] theorem State.posts_turn (es : List Event) : (s.posts es).turn = s.turn := rfl
@[simp] theorem State.posts_owed (es : List Event) : (s.posts es).owed = s.owed := rfl
@[simp] theorem State.posts_moving (es : List Event) : (s.posts es).moving = s.moving := rfl
@[simp] theorem State.posts_updates (es : List Event) : (s.posts es).updates = s.updates := rfl
@[simp] theorem State.posts_flash (es : List Event) : (s.posts es).flash = s.flash := rfl
@[simp] theorem State.posts_temps (es : List Event) : (s.posts es).temps = s.temps := rfl
@[simp] theorem State.posts_svc (es : List Event) : (s.posts es).svc = s.svc := rfl
@[simp] theorem State.posts_requests (es : List Event) : (s.posts es).requests = s.requests := rfl
@[simp] theorem State.posts_flits (es : List Event) : (s.posts es).flits = s.flits := rfl
@[simp] theorem State.posts_linkFlits (es : List Event) : (s.posts es).linkFlits = s.linkFlits := rfl
@[simp] theorem State.posts_stomping (es : List Event) : (s.posts es).stomping = s.stomping := rfl
@[simp] theorem State.posts_ide (es : List Event) : (s.posts es).ide = s.ide := rfl
@[simp] theorem State.posts_stamps (es : List Event) : (s.posts es).stamps = s.stamps := rfl
@[simp] theorem State.posts_free (es : List Event) : (s.posts es).free = s.free := rfl
@[simp] theorem State.posts_serial (es : List Event) : (s.posts es).serial = s.serial := rfl
@[simp] theorem State.posts_carry (es : List Event) : (s.posts es).carry = s.carry := rfl
@[simp] theorem State.posts_timers (es : List Event) : (s.posts es).timers = s.timers := rfl
@[simp] theorem State.posts_todo (es : List Event) : (s.posts es).todo = s.todo := rfl
@[simp] theorem State.posts_cur (es : List Event) : (s.posts es).cur = s.cur := rfl
@[simp] theorem State.posts_ctxs (es : List Event) : (s.posts es).ctxs = s.ctxs := rfl
@[simp] theorem State.posts_cores (es : List Event) : (s.posts es).cores = s.cores := rfl
@[simp] theorem State.posts_clusters (es : List Event) : (s.posts es).clusters = s.clusters := rfl
@[simp] theorem State.posts_scratch (es : List Event) : (s.posts es).scratch = s.scratch := rfl
@[simp] theorem State.posts_dram (es : List Event) : (s.posts es).dram = s.dram := rfl
@[simp] theorem State.posts_sramTags (es : List Event) : (s.posts es).sramTags = s.sramTags := rfl
@[simp] theorem State.posts_poison (es : List Event) : (s.posts es).poison = s.poison := rfl
@[simp] theorem State.posts_stale (es : List Event) : (s.posts es).stale = s.stale := rfl
@[simp] theorem State.posts_releases (es : List Event) : (s.posts es).releases = s.releases := rfl
@[simp] theorem State.posts_acts (es : List Event) : (s.posts es).acts = s.acts := rfl
@[simp] theorem State.posts_parts (es : List Event) : (s.posts es).parts = s.parts := rfl
@[simp] theorem State.posts_transit (es : List Event) : (s.posts es).transit = s.transit := rfl
@[simp] theorem State.posts_fab (es : List Event) : (s.posts es).fab = s.fab := rfl
@[simp] theorem State.posts_peers (es : List Event) : (s.posts es).peers = s.peers := rfl
@[simp] theorem State.posts_ports (es : List Event) : (s.posts es).ports = s.ports := rfl
@[simp] theorem State.posts_remote (es : List Event) : (s.posts es).remote = s.remote := rfl
@[simp] theorem State.posts_fn0 (es : List Event) : (s.posts es).fn0 = s.fn0 := rfl
@[simp] theorem State.posts_lostmask (es : List Event) : (s.posts es).lostmask = s.lostmask := rfl
@[simp] theorem State.posts_code (es : List Event) : (s.posts es).code = s.code := rfl
@[simp] theorem State.posts_bootStage (es : List Event) : (s.posts es).bootStage = s.bootStage := rfl
@[simp] theorem State.posts_bootReason (es : List Event) : (s.posts es).bootReason = s.bootReason := rfl
@[simp] theorem State.posts_power (es : List Event) : (s.posts es).power = s.power := rfl
@[simp] theorem State.posts_gating (es : List Event) : (s.posts es).gating = s.gating := rfl
@[simp] theorem State.posts_hot (es : List Event) : (s.posts es).hot = s.hot := rfl
@[simp] theorem State.posts_withheld (es : List Event) : (s.posts es).withheld = s.withheld := rfl
@[simp] theorem State.posts_minVersion (es : List Event) : (s.posts es).minVersion = s.minVersion := rfl
@[simp] theorem State.posts_measures (es : List Event) : (s.posts es).measures = s.measures := rfl
@[simp] theorem State.posts_spdm (es : List Event) : (s.posts es).spdm = s.spdm := rfl
@[simp] theorem State.posts_fn0Session (es : List Event) : (s.posts es).fn0Session = s.fn0Session := rfl
@[simp] theorem State.posts_ideOn (es : List Event) : (s.posts es).ideOn = s.ideOn := rfl
@[simp] theorem State.posts_served (es : List Event) : (s.posts es).served = s.served := rfl
@[simp] theorem State.posts_mesh (es : List Event) : (s.posts es).mesh = s.mesh := rfl
@[simp] theorem State.posts_forwards (es : List Event) : (s.posts es).forwards = s.forwards := rfl
@[simp] theorem State.posts_outputs (es : List Event) : (s.posts es).outputs = s.outputs := rfl
@[simp] theorem State.posts_scMissed (es : List Event) : (s.posts es).scMissed = s.scMissed := rfl
@[simp] theorem State.posts_scFailed (es : List Event) : (s.posts es).scFailed = s.scFailed := rfl
@[simp] theorem State.posts_mcMissed (es : List Event) : (s.posts es).mcMissed = s.mcMissed := rfl
@[simp] theorem State.posts_dumps (es : List Event) : (s.posts es).dumps = s.dumps := rfl
@[simp] theorem State.posts_lost (es : List Event) : (s.posts es).lost = s.lost := rfl
@[simp] theorem State.posts_fatal (es : List Event) : (s.posts es).fatal = s.fatal := rfl
@[simp] theorem State.posts_stopped (es : List Event) : (s.posts es).stopped = s.stopped := rfl
@[simp] theorem State.posts_snapshots (es : List Event) : (s.posts es).snapshots = s.snapshots := rfl

@[simp] theorem State.postIn_clock (e : Event) : (s.postIn e).clock = s.clock := rfl
@[simp] theorem State.postIn_skew (e : Event) : (s.postIn e).skew = s.skew := rfl
@[simp] theorem State.postIn_turn (e : Event) : (s.postIn e).turn = s.turn := rfl
@[simp] theorem State.postIn_owed (e : Event) : (s.postIn e).owed = s.owed := rfl
@[simp] theorem State.postIn_moving (e : Event) : (s.postIn e).moving = s.moving := rfl
@[simp] theorem State.postIn_updates (e : Event) : (s.postIn e).updates = s.updates := rfl
@[simp] theorem State.postIn_flash (e : Event) : (s.postIn e).flash = s.flash := rfl
@[simp] theorem State.postIn_temps (e : Event) : (s.postIn e).temps = s.temps := rfl
@[simp] theorem State.postIn_svc (e : Event) : (s.postIn e).svc = s.svc := rfl
@[simp] theorem State.postIn_requests (e : Event) : (s.postIn e).requests = s.requests := rfl
@[simp] theorem State.postIn_flits (e : Event) : (s.postIn e).flits = s.flits := rfl
@[simp] theorem State.postIn_linkFlits (e : Event) : (s.postIn e).linkFlits = s.linkFlits := rfl
@[simp] theorem State.postIn_stomping (e : Event) : (s.postIn e).stomping = s.stomping := rfl
@[simp] theorem State.postIn_ide (e : Event) : (s.postIn e).ide = s.ide := rfl
@[simp] theorem State.postIn_stamps (e : Event) : (s.postIn e).stamps = s.stamps := rfl
@[simp] theorem State.postIn_serial (e : Event) : (s.postIn e).serial = s.serial := rfl
@[simp] theorem State.postIn_agenda (e : Event) : (s.postIn e).agenda = s.agenda := rfl
@[simp] theorem State.postIn_carry (e : Event) : (s.postIn e).carry = s.carry := rfl
@[simp] theorem State.postIn_todo (e : Event) : (s.postIn e).todo = s.todo := rfl
@[simp] theorem State.postIn_cur (e : Event) : (s.postIn e).cur = s.cur := rfl
@[simp] theorem State.postIn_ctxs (e : Event) : (s.postIn e).ctxs = s.ctxs := rfl
@[simp] theorem State.postIn_cores (e : Event) : (s.postIn e).cores = s.cores := rfl
@[simp] theorem State.postIn_clusters (e : Event) : (s.postIn e).clusters = s.clusters := rfl
@[simp] theorem State.postIn_scratch (e : Event) : (s.postIn e).scratch = s.scratch := rfl
@[simp] theorem State.postIn_dram (e : Event) : (s.postIn e).dram = s.dram := rfl
@[simp] theorem State.postIn_sramTags (e : Event) : (s.postIn e).sramTags = s.sramTags := rfl
@[simp] theorem State.postIn_poison (e : Event) : (s.postIn e).poison = s.poison := rfl
@[simp] theorem State.postIn_stale (e : Event) : (s.postIn e).stale = s.stale := rfl
@[simp] theorem State.postIn_releases (e : Event) : (s.postIn e).releases = s.releases := rfl
@[simp] theorem State.postIn_acts (e : Event) : (s.postIn e).acts = s.acts := rfl
@[simp] theorem State.postIn_parts (e : Event) : (s.postIn e).parts = s.parts := rfl
@[simp] theorem State.postIn_transit (e : Event) : (s.postIn e).transit = s.transit := rfl
@[simp] theorem State.postIn_fab (e : Event) : (s.postIn e).fab = s.fab := rfl
@[simp] theorem State.postIn_peers (e : Event) : (s.postIn e).peers = s.peers := rfl
@[simp] theorem State.postIn_ports (e : Event) : (s.postIn e).ports = s.ports := rfl
@[simp] theorem State.postIn_remote (e : Event) : (s.postIn e).remote = s.remote := rfl
@[simp] theorem State.postIn_fn0 (e : Event) : (s.postIn e).fn0 = s.fn0 := rfl
@[simp] theorem State.postIn_lostmask (e : Event) : (s.postIn e).lostmask = s.lostmask := rfl
@[simp] theorem State.postIn_code (e : Event) : (s.postIn e).code = s.code := rfl
@[simp] theorem State.postIn_bootStage (e : Event) : (s.postIn e).bootStage = s.bootStage := rfl
@[simp] theorem State.postIn_bootReason (e : Event) : (s.postIn e).bootReason = s.bootReason := rfl
@[simp] theorem State.postIn_power (e : Event) : (s.postIn e).power = s.power := rfl
@[simp] theorem State.postIn_gating (e : Event) : (s.postIn e).gating = s.gating := rfl
@[simp] theorem State.postIn_hot (e : Event) : (s.postIn e).hot = s.hot := rfl
@[simp] theorem State.postIn_withheld (e : Event) : (s.postIn e).withheld = s.withheld := rfl
@[simp] theorem State.postIn_minVersion (e : Event) : (s.postIn e).minVersion = s.minVersion := rfl
@[simp] theorem State.postIn_measures (e : Event) : (s.postIn e).measures = s.measures := rfl
@[simp] theorem State.postIn_spdm (e : Event) : (s.postIn e).spdm = s.spdm := rfl
@[simp] theorem State.postIn_fn0Session (e : Event) : (s.postIn e).fn0Session = s.fn0Session := rfl
@[simp] theorem State.postIn_ideOn (e : Event) : (s.postIn e).ideOn = s.ideOn := rfl
@[simp] theorem State.postIn_served (e : Event) : (s.postIn e).served = s.served := rfl
@[simp] theorem State.postIn_mesh (e : Event) : (s.postIn e).mesh = s.mesh := rfl
@[simp] theorem State.postIn_forwards (e : Event) : (s.postIn e).forwards = s.forwards := rfl
@[simp] theorem State.postIn_outputs (e : Event) : (s.postIn e).outputs = s.outputs := rfl
@[simp] theorem State.postIn_scMissed (e : Event) : (s.postIn e).scMissed = s.scMissed := rfl
@[simp] theorem State.postIn_scFailed (e : Event) : (s.postIn e).scFailed = s.scFailed := rfl
@[simp] theorem State.postIn_mcMissed (e : Event) : (s.postIn e).mcMissed = s.mcMissed := rfl
@[simp] theorem State.postIn_dumps (e : Event) : (s.postIn e).dumps = s.dumps := rfl
@[simp] theorem State.postIn_lost (e : Event) : (s.postIn e).lost = s.lost := rfl
@[simp] theorem State.postIn_fatal (e : Event) : (s.postIn e).fatal = s.fatal := rfl
@[simp] theorem State.postIn_stopped (e : Event) : (s.postIn e).stopped = s.stopped := rfl
@[simp] theorem State.postIn_snapshots (e : Event) : (s.postIn e).snapshots = s.snapshots := rfl

@[simp] theorem State.postAt_clock (n : Nat) (e : Event) : (s.postAt n e).clock = s.clock := rfl
@[simp] theorem State.postAt_skew (n : Nat) (e : Event) : (s.postAt n e).skew = s.skew := rfl
@[simp] theorem State.postAt_turn (n : Nat) (e : Event) : (s.postAt n e).turn = s.turn := rfl
@[simp] theorem State.postAt_owed (n : Nat) (e : Event) : (s.postAt n e).owed = s.owed := rfl
@[simp] theorem State.postAt_moving (n : Nat) (e : Event) : (s.postAt n e).moving = s.moving := rfl
@[simp] theorem State.postAt_updates (n : Nat) (e : Event) : (s.postAt n e).updates = s.updates := rfl
@[simp] theorem State.postAt_flash (n : Nat) (e : Event) : (s.postAt n e).flash = s.flash := rfl
@[simp] theorem State.postAt_temps (n : Nat) (e : Event) : (s.postAt n e).temps = s.temps := rfl
@[simp] theorem State.postAt_svc (n : Nat) (e : Event) : (s.postAt n e).svc = s.svc := rfl
@[simp] theorem State.postAt_requests (n : Nat) (e : Event) : (s.postAt n e).requests = s.requests := rfl
@[simp] theorem State.postAt_flits (n : Nat) (e : Event) : (s.postAt n e).flits = s.flits := rfl
@[simp] theorem State.postAt_linkFlits (n : Nat) (e : Event) : (s.postAt n e).linkFlits = s.linkFlits := rfl
@[simp] theorem State.postAt_stomping (n : Nat) (e : Event) : (s.postAt n e).stomping = s.stomping := rfl
@[simp] theorem State.postAt_ide (n : Nat) (e : Event) : (s.postAt n e).ide = s.ide := rfl
@[simp] theorem State.postAt_stamps (n : Nat) (e : Event) : (s.postAt n e).stamps = s.stamps := rfl
@[simp] theorem State.postAt_free (n : Nat) (e : Event) : (s.postAt n e).free = s.free := rfl
@[simp] theorem State.postAt_serial (n : Nat) (e : Event) : (s.postAt n e).serial = s.serial := rfl
@[simp] theorem State.postAt_agenda (n : Nat) (e : Event) : (s.postAt n e).agenda = s.agenda := rfl
@[simp] theorem State.postAt_carry (n : Nat) (e : Event) : (s.postAt n e).carry = s.carry := rfl
@[simp] theorem State.postAt_todo (n : Nat) (e : Event) : (s.postAt n e).todo = s.todo := rfl
@[simp] theorem State.postAt_cur (n : Nat) (e : Event) : (s.postAt n e).cur = s.cur := rfl
@[simp] theorem State.postAt_ctxs (n : Nat) (e : Event) : (s.postAt n e).ctxs = s.ctxs := rfl
@[simp] theorem State.postAt_cores (n : Nat) (e : Event) : (s.postAt n e).cores = s.cores := rfl
@[simp] theorem State.postAt_clusters (n : Nat) (e : Event) : (s.postAt n e).clusters = s.clusters := rfl
@[simp] theorem State.postAt_scratch (n : Nat) (e : Event) : (s.postAt n e).scratch = s.scratch := rfl
@[simp] theorem State.postAt_dram (n : Nat) (e : Event) : (s.postAt n e).dram = s.dram := rfl
@[simp] theorem State.postAt_sramTags (n : Nat) (e : Event) : (s.postAt n e).sramTags = s.sramTags := rfl
@[simp] theorem State.postAt_poison (n : Nat) (e : Event) : (s.postAt n e).poison = s.poison := rfl
@[simp] theorem State.postAt_stale (n : Nat) (e : Event) : (s.postAt n e).stale = s.stale := rfl
@[simp] theorem State.postAt_releases (n : Nat) (e : Event) : (s.postAt n e).releases = s.releases := rfl
@[simp] theorem State.postAt_acts (n : Nat) (e : Event) : (s.postAt n e).acts = s.acts := rfl
@[simp] theorem State.postAt_parts (n : Nat) (e : Event) : (s.postAt n e).parts = s.parts := rfl
@[simp] theorem State.postAt_transit (n : Nat) (e : Event) : (s.postAt n e).transit = s.transit := rfl
@[simp] theorem State.postAt_fab (n : Nat) (e : Event) : (s.postAt n e).fab = s.fab := rfl
@[simp] theorem State.postAt_peers (n : Nat) (e : Event) : (s.postAt n e).peers = s.peers := rfl
@[simp] theorem State.postAt_ports (n : Nat) (e : Event) : (s.postAt n e).ports = s.ports := rfl
@[simp] theorem State.postAt_remote (n : Nat) (e : Event) : (s.postAt n e).remote = s.remote := rfl
@[simp] theorem State.postAt_fn0 (n : Nat) (e : Event) : (s.postAt n e).fn0 = s.fn0 := rfl
@[simp] theorem State.postAt_lostmask (n : Nat) (e : Event) : (s.postAt n e).lostmask = s.lostmask := rfl
@[simp] theorem State.postAt_code (n : Nat) (e : Event) : (s.postAt n e).code = s.code := rfl
@[simp] theorem State.postAt_bootStage (n : Nat) (e : Event) : (s.postAt n e).bootStage = s.bootStage := rfl
@[simp] theorem State.postAt_bootReason (n : Nat) (e : Event) : (s.postAt n e).bootReason = s.bootReason := rfl
@[simp] theorem State.postAt_power (n : Nat) (e : Event) : (s.postAt n e).power = s.power := rfl
@[simp] theorem State.postAt_gating (n : Nat) (e : Event) : (s.postAt n e).gating = s.gating := rfl
@[simp] theorem State.postAt_hot (n : Nat) (e : Event) : (s.postAt n e).hot = s.hot := rfl
@[simp] theorem State.postAt_withheld (n : Nat) (e : Event) : (s.postAt n e).withheld = s.withheld := rfl
@[simp] theorem State.postAt_minVersion (n : Nat) (e : Event) : (s.postAt n e).minVersion = s.minVersion := rfl
@[simp] theorem State.postAt_measures (n : Nat) (e : Event) : (s.postAt n e).measures = s.measures := rfl
@[simp] theorem State.postAt_spdm (n : Nat) (e : Event) : (s.postAt n e).spdm = s.spdm := rfl
@[simp] theorem State.postAt_fn0Session (n : Nat) (e : Event) : (s.postAt n e).fn0Session = s.fn0Session := rfl
@[simp] theorem State.postAt_ideOn (n : Nat) (e : Event) : (s.postAt n e).ideOn = s.ideOn := rfl
@[simp] theorem State.postAt_served (n : Nat) (e : Event) : (s.postAt n e).served = s.served := rfl
@[simp] theorem State.postAt_mesh (n : Nat) (e : Event) : (s.postAt n e).mesh = s.mesh := rfl
@[simp] theorem State.postAt_forwards (n : Nat) (e : Event) : (s.postAt n e).forwards = s.forwards := rfl
@[simp] theorem State.postAt_outputs (n : Nat) (e : Event) : (s.postAt n e).outputs = s.outputs := rfl
@[simp] theorem State.postAt_scMissed (n : Nat) (e : Event) : (s.postAt n e).scMissed = s.scMissed := rfl
@[simp] theorem State.postAt_scFailed (n : Nat) (e : Event) : (s.postAt n e).scFailed = s.scFailed := rfl
@[simp] theorem State.postAt_mcMissed (n : Nat) (e : Event) : (s.postAt n e).mcMissed = s.mcMissed := rfl
@[simp] theorem State.postAt_dumps (n : Nat) (e : Event) : (s.postAt n e).dumps = s.dumps := rfl
@[simp] theorem State.postAt_lost (n : Nat) (e : Event) : (s.postAt n e).lost = s.lost := rfl
@[simp] theorem State.postAt_fatal (n : Nat) (e : Event) : (s.postAt n e).fatal = s.fatal := rfl
@[simp] theorem State.postAt_stopped (n : Nat) (e : Event) : (s.postAt n e).stopped = s.stopped := rfl
@[simp] theorem State.postAt_snapshots (n : Nat) (e : Event) : (s.postAt n e).snapshots = s.snapshots := rfl

@[simp] theorem State.emit_clock (o : Output) : (s.emit o).clock = s.clock := rfl
@[simp] theorem State.emit_skew (o : Output) : (s.emit o).skew = s.skew := rfl
@[simp] theorem State.emit_turn (o : Output) : (s.emit o).turn = s.turn := rfl
@[simp] theorem State.emit_owed (o : Output) : (s.emit o).owed = s.owed := rfl
@[simp] theorem State.emit_moving (o : Output) : (s.emit o).moving = s.moving := rfl
@[simp] theorem State.emit_updates (o : Output) : (s.emit o).updates = s.updates := rfl
@[simp] theorem State.emit_flash (o : Output) : (s.emit o).flash = s.flash := rfl
@[simp] theorem State.emit_temps (o : Output) : (s.emit o).temps = s.temps := rfl
@[simp] theorem State.emit_svc (o : Output) : (s.emit o).svc = s.svc := rfl
@[simp] theorem State.emit_requests (o : Output) : (s.emit o).requests = s.requests := rfl
@[simp] theorem State.emit_flits (o : Output) : (s.emit o).flits = s.flits := rfl
@[simp] theorem State.emit_linkFlits (o : Output) : (s.emit o).linkFlits = s.linkFlits := rfl
@[simp] theorem State.emit_stomping (o : Output) : (s.emit o).stomping = s.stomping := rfl
@[simp] theorem State.emit_ide (o : Output) : (s.emit o).ide = s.ide := rfl
@[simp] theorem State.emit_stamps (o : Output) : (s.emit o).stamps = s.stamps := rfl
@[simp] theorem State.emit_free (o : Output) : (s.emit o).free = s.free := rfl
@[simp] theorem State.emit_serial (o : Output) : (s.emit o).serial = s.serial := rfl
@[simp] theorem State.emit_agenda (o : Output) : (s.emit o).agenda = s.agenda := rfl
@[simp] theorem State.emit_carry (o : Output) : (s.emit o).carry = s.carry := rfl
@[simp] theorem State.emit_timers (o : Output) : (s.emit o).timers = s.timers := rfl
@[simp] theorem State.emit_todo (o : Output) : (s.emit o).todo = s.todo := rfl
@[simp] theorem State.emit_cur (o : Output) : (s.emit o).cur = s.cur := rfl
@[simp] theorem State.emit_ctxs (o : Output) : (s.emit o).ctxs = s.ctxs := rfl
@[simp] theorem State.emit_cores (o : Output) : (s.emit o).cores = s.cores := rfl
@[simp] theorem State.emit_clusters (o : Output) : (s.emit o).clusters = s.clusters := rfl
@[simp] theorem State.emit_scratch (o : Output) : (s.emit o).scratch = s.scratch := rfl
@[simp] theorem State.emit_dram (o : Output) : (s.emit o).dram = s.dram := rfl
@[simp] theorem State.emit_sramTags (o : Output) : (s.emit o).sramTags = s.sramTags := rfl
@[simp] theorem State.emit_poison (o : Output) : (s.emit o).poison = s.poison := rfl
@[simp] theorem State.emit_stale (o : Output) : (s.emit o).stale = s.stale := rfl
@[simp] theorem State.emit_releases (o : Output) : (s.emit o).releases = s.releases := rfl
@[simp] theorem State.emit_acts (o : Output) : (s.emit o).acts = s.acts := rfl
@[simp] theorem State.emit_parts (o : Output) : (s.emit o).parts = s.parts := rfl
@[simp] theorem State.emit_transit (o : Output) : (s.emit o).transit = s.transit := rfl
@[simp] theorem State.emit_fab (o : Output) : (s.emit o).fab = s.fab := rfl
@[simp] theorem State.emit_peers (o : Output) : (s.emit o).peers = s.peers := rfl
@[simp] theorem State.emit_ports (o : Output) : (s.emit o).ports = s.ports := rfl
@[simp] theorem State.emit_remote (o : Output) : (s.emit o).remote = s.remote := rfl
@[simp] theorem State.emit_fn0 (o : Output) : (s.emit o).fn0 = s.fn0 := rfl
@[simp] theorem State.emit_lostmask (o : Output) : (s.emit o).lostmask = s.lostmask := rfl
@[simp] theorem State.emit_code (o : Output) : (s.emit o).code = s.code := rfl
@[simp] theorem State.emit_bootStage (o : Output) : (s.emit o).bootStage = s.bootStage := rfl
@[simp] theorem State.emit_bootReason (o : Output) : (s.emit o).bootReason = s.bootReason := rfl
@[simp] theorem State.emit_power (o : Output) : (s.emit o).power = s.power := rfl
@[simp] theorem State.emit_gating (o : Output) : (s.emit o).gating = s.gating := rfl
@[simp] theorem State.emit_hot (o : Output) : (s.emit o).hot = s.hot := rfl
@[simp] theorem State.emit_withheld (o : Output) : (s.emit o).withheld = s.withheld := rfl
@[simp] theorem State.emit_minVersion (o : Output) : (s.emit o).minVersion = s.minVersion := rfl
@[simp] theorem State.emit_measures (o : Output) : (s.emit o).measures = s.measures := rfl
@[simp] theorem State.emit_spdm (o : Output) : (s.emit o).spdm = s.spdm := rfl
@[simp] theorem State.emit_fn0Session (o : Output) : (s.emit o).fn0Session = s.fn0Session := rfl
@[simp] theorem State.emit_ideOn (o : Output) : (s.emit o).ideOn = s.ideOn := rfl
@[simp] theorem State.emit_served (o : Output) : (s.emit o).served = s.served := rfl
@[simp] theorem State.emit_mesh (o : Output) : (s.emit o).mesh = s.mesh := rfl
@[simp] theorem State.emit_forwards (o : Output) : (s.emit o).forwards = s.forwards := rfl
@[simp] theorem State.emit_scMissed (o : Output) : (s.emit o).scMissed = s.scMissed := rfl
@[simp] theorem State.emit_scFailed (o : Output) : (s.emit o).scFailed = s.scFailed := rfl
@[simp] theorem State.emit_mcMissed (o : Output) : (s.emit o).mcMissed = s.mcMissed := rfl
@[simp] theorem State.emit_dumps (o : Output) : (s.emit o).dumps = s.dumps := rfl
@[simp] theorem State.emit_lost (o : Output) : (s.emit o).lost = s.lost := rfl
@[simp] theorem State.emit_fatal (o : Output) : (s.emit o).fatal = s.fatal := rfl
@[simp] theorem State.emit_stopped (o : Output) : (s.emit o).stopped = s.stopped := rfl
@[simp] theorem State.emit_snapshots (o : Output) : (s.emit o).snapshots = s.snapshots := rfl

@[simp] theorem State.delay_clock : s.delay.2.clock = s.clock := rfl
@[simp] theorem State.delay_skew : s.delay.2.skew = s.skew := rfl
@[simp] theorem State.delay_turn : s.delay.2.turn = s.turn := rfl
@[simp] theorem State.delay_owed : s.delay.2.owed = s.owed := rfl
@[simp] theorem State.delay_moving : s.delay.2.moving = s.moving := rfl
@[simp] theorem State.delay_updates : s.delay.2.updates = s.updates := rfl
@[simp] theorem State.delay_flash : s.delay.2.flash = s.flash := rfl
@[simp] theorem State.delay_temps : s.delay.2.temps = s.temps := rfl
@[simp] theorem State.delay_svc : s.delay.2.svc = s.svc := rfl
@[simp] theorem State.delay_requests : s.delay.2.requests = s.requests := rfl
@[simp] theorem State.delay_flits : s.delay.2.flits = s.flits := rfl
@[simp] theorem State.delay_linkFlits : s.delay.2.linkFlits = s.linkFlits := rfl
@[simp] theorem State.delay_stomping : s.delay.2.stomping = s.stomping := rfl
@[simp] theorem State.delay_ide : s.delay.2.ide = s.ide := rfl
@[simp] theorem State.delay_stamps : s.delay.2.stamps = s.stamps := rfl
@[simp] theorem State.delay_serial : s.delay.2.serial = s.serial := rfl
@[simp] theorem State.delay_agenda : s.delay.2.agenda = s.agenda := rfl
@[simp] theorem State.delay_carry : s.delay.2.carry = s.carry := rfl
@[simp] theorem State.delay_timers : s.delay.2.timers = s.timers := rfl
@[simp] theorem State.delay_todo : s.delay.2.todo = s.todo := rfl
@[simp] theorem State.delay_cur : s.delay.2.cur = s.cur := rfl
@[simp] theorem State.delay_ctxs : s.delay.2.ctxs = s.ctxs := rfl
@[simp] theorem State.delay_cores : s.delay.2.cores = s.cores := rfl
@[simp] theorem State.delay_clusters : s.delay.2.clusters = s.clusters := rfl
@[simp] theorem State.delay_scratch : s.delay.2.scratch = s.scratch := rfl
@[simp] theorem State.delay_dram : s.delay.2.dram = s.dram := rfl
@[simp] theorem State.delay_sramTags : s.delay.2.sramTags = s.sramTags := rfl
@[simp] theorem State.delay_poison : s.delay.2.poison = s.poison := rfl
@[simp] theorem State.delay_stale : s.delay.2.stale = s.stale := rfl
@[simp] theorem State.delay_releases : s.delay.2.releases = s.releases := rfl
@[simp] theorem State.delay_acts : s.delay.2.acts = s.acts := rfl
@[simp] theorem State.delay_parts : s.delay.2.parts = s.parts := rfl
@[simp] theorem State.delay_transit : s.delay.2.transit = s.transit := rfl
@[simp] theorem State.delay_fab : s.delay.2.fab = s.fab := rfl
@[simp] theorem State.delay_peers : s.delay.2.peers = s.peers := rfl
@[simp] theorem State.delay_ports : s.delay.2.ports = s.ports := rfl
@[simp] theorem State.delay_remote : s.delay.2.remote = s.remote := rfl
@[simp] theorem State.delay_fn0 : s.delay.2.fn0 = s.fn0 := rfl
@[simp] theorem State.delay_lostmask : s.delay.2.lostmask = s.lostmask := rfl
@[simp] theorem State.delay_code : s.delay.2.code = s.code := rfl
@[simp] theorem State.delay_bootStage : s.delay.2.bootStage = s.bootStage := rfl
@[simp] theorem State.delay_bootReason : s.delay.2.bootReason = s.bootReason := rfl
@[simp] theorem State.delay_power : s.delay.2.power = s.power := rfl
@[simp] theorem State.delay_gating : s.delay.2.gating = s.gating := rfl
@[simp] theorem State.delay_hot : s.delay.2.hot = s.hot := rfl
@[simp] theorem State.delay_withheld : s.delay.2.withheld = s.withheld := rfl
@[simp] theorem State.delay_minVersion : s.delay.2.minVersion = s.minVersion := rfl
@[simp] theorem State.delay_measures : s.delay.2.measures = s.measures := rfl
@[simp] theorem State.delay_spdm : s.delay.2.spdm = s.spdm := rfl
@[simp] theorem State.delay_fn0Session : s.delay.2.fn0Session = s.fn0Session := rfl
@[simp] theorem State.delay_ideOn : s.delay.2.ideOn = s.ideOn := rfl
@[simp] theorem State.delay_served : s.delay.2.served = s.served := rfl
@[simp] theorem State.delay_mesh : s.delay.2.mesh = s.mesh := rfl
@[simp] theorem State.delay_forwards : s.delay.2.forwards = s.forwards := rfl
@[simp] theorem State.delay_outputs : s.delay.2.outputs = s.outputs := rfl
@[simp] theorem State.delay_scMissed : s.delay.2.scMissed = s.scMissed := rfl
@[simp] theorem State.delay_scFailed : s.delay.2.scFailed = s.scFailed := rfl
@[simp] theorem State.delay_mcMissed : s.delay.2.mcMissed = s.mcMissed := rfl
@[simp] theorem State.delay_dumps : s.delay.2.dumps = s.dumps := rfl
@[simp] theorem State.delay_lost : s.delay.2.lost = s.lost := rfl
@[simp] theorem State.delay_fatal : s.delay.2.fatal = s.fatal := rfl
@[simp] theorem State.delay_stopped : s.delay.2.stopped = s.stopped := rfl
@[simp] theorem State.delay_snapshots : s.delay.2.snapshots = s.snapshots := rfl

@[simp] theorem State.choose_clock : s.choose.2.clock = s.clock := rfl
@[simp] theorem State.choose_skew : s.choose.2.skew = s.skew := rfl
@[simp] theorem State.choose_turn : s.choose.2.turn = s.turn := rfl
@[simp] theorem State.choose_owed : s.choose.2.owed = s.owed := rfl
@[simp] theorem State.choose_moving : s.choose.2.moving = s.moving := rfl
@[simp] theorem State.choose_updates : s.choose.2.updates = s.updates := rfl
@[simp] theorem State.choose_flash : s.choose.2.flash = s.flash := rfl
@[simp] theorem State.choose_temps : s.choose.2.temps = s.temps := rfl
@[simp] theorem State.choose_svc : s.choose.2.svc = s.svc := rfl
@[simp] theorem State.choose_requests : s.choose.2.requests = s.requests := rfl
@[simp] theorem State.choose_flits : s.choose.2.flits = s.flits := rfl
@[simp] theorem State.choose_linkFlits : s.choose.2.linkFlits = s.linkFlits := rfl
@[simp] theorem State.choose_stomping : s.choose.2.stomping = s.stomping := rfl
@[simp] theorem State.choose_ide : s.choose.2.ide = s.ide := rfl
@[simp] theorem State.choose_stamps : s.choose.2.stamps = s.stamps := rfl
@[simp] theorem State.choose_serial : s.choose.2.serial = s.serial := rfl
@[simp] theorem State.choose_agenda : s.choose.2.agenda = s.agenda := rfl
@[simp] theorem State.choose_carry : s.choose.2.carry = s.carry := rfl
@[simp] theorem State.choose_timers : s.choose.2.timers = s.timers := rfl
@[simp] theorem State.choose_todo : s.choose.2.todo = s.todo := rfl
@[simp] theorem State.choose_cur : s.choose.2.cur = s.cur := rfl
@[simp] theorem State.choose_ctxs : s.choose.2.ctxs = s.ctxs := rfl
@[simp] theorem State.choose_cores : s.choose.2.cores = s.cores := rfl
@[simp] theorem State.choose_clusters : s.choose.2.clusters = s.clusters := rfl
@[simp] theorem State.choose_scratch : s.choose.2.scratch = s.scratch := rfl
@[simp] theorem State.choose_dram : s.choose.2.dram = s.dram := rfl
@[simp] theorem State.choose_sramTags : s.choose.2.sramTags = s.sramTags := rfl
@[simp] theorem State.choose_poison : s.choose.2.poison = s.poison := rfl
@[simp] theorem State.choose_stale : s.choose.2.stale = s.stale := rfl
@[simp] theorem State.choose_releases : s.choose.2.releases = s.releases := rfl
@[simp] theorem State.choose_acts : s.choose.2.acts = s.acts := rfl
@[simp] theorem State.choose_parts : s.choose.2.parts = s.parts := rfl
@[simp] theorem State.choose_transit : s.choose.2.transit = s.transit := rfl
@[simp] theorem State.choose_fab : s.choose.2.fab = s.fab := rfl
@[simp] theorem State.choose_peers : s.choose.2.peers = s.peers := rfl
@[simp] theorem State.choose_ports : s.choose.2.ports = s.ports := rfl
@[simp] theorem State.choose_remote : s.choose.2.remote = s.remote := rfl
@[simp] theorem State.choose_fn0 : s.choose.2.fn0 = s.fn0 := rfl
@[simp] theorem State.choose_lostmask : s.choose.2.lostmask = s.lostmask := rfl
@[simp] theorem State.choose_code : s.choose.2.code = s.code := rfl
@[simp] theorem State.choose_bootStage : s.choose.2.bootStage = s.bootStage := rfl
@[simp] theorem State.choose_bootReason : s.choose.2.bootReason = s.bootReason := rfl
@[simp] theorem State.choose_power : s.choose.2.power = s.power := rfl
@[simp] theorem State.choose_gating : s.choose.2.gating = s.gating := rfl
@[simp] theorem State.choose_hot : s.choose.2.hot = s.hot := rfl
@[simp] theorem State.choose_withheld : s.choose.2.withheld = s.withheld := rfl
@[simp] theorem State.choose_minVersion : s.choose.2.minVersion = s.minVersion := rfl
@[simp] theorem State.choose_measures : s.choose.2.measures = s.measures := rfl
@[simp] theorem State.choose_spdm : s.choose.2.spdm = s.spdm := rfl
@[simp] theorem State.choose_fn0Session : s.choose.2.fn0Session = s.fn0Session := rfl
@[simp] theorem State.choose_ideOn : s.choose.2.ideOn = s.ideOn := rfl
@[simp] theorem State.choose_served : s.choose.2.served = s.served := rfl
@[simp] theorem State.choose_mesh : s.choose.2.mesh = s.mesh := rfl
@[simp] theorem State.choose_forwards : s.choose.2.forwards = s.forwards := rfl
@[simp] theorem State.choose_outputs : s.choose.2.outputs = s.outputs := rfl
@[simp] theorem State.choose_scMissed : s.choose.2.scMissed = s.scMissed := rfl
@[simp] theorem State.choose_scFailed : s.choose.2.scFailed = s.scFailed := rfl
@[simp] theorem State.choose_mcMissed : s.choose.2.mcMissed = s.mcMissed := rfl
@[simp] theorem State.choose_dumps : s.choose.2.dumps = s.dumps := rfl
@[simp] theorem State.choose_lost : s.choose.2.lost = s.lost := rfl
@[simp] theorem State.choose_fatal : s.choose.2.fatal = s.fatal := rfl
@[simp] theorem State.choose_stopped : s.choose.2.stopped = s.stopped := rfl
@[simp] theorem State.choose_snapshots : s.choose.2.snapshots = s.snapshots := rfl

@[simp] theorem State.anyWord_clock : s.anyWord.2.clock = s.clock := rfl
@[simp] theorem State.anyWord_skew : s.anyWord.2.skew = s.skew := rfl
@[simp] theorem State.anyWord_turn : s.anyWord.2.turn = s.turn := rfl
@[simp] theorem State.anyWord_owed : s.anyWord.2.owed = s.owed := rfl
@[simp] theorem State.anyWord_moving : s.anyWord.2.moving = s.moving := rfl
@[simp] theorem State.anyWord_updates : s.anyWord.2.updates = s.updates := rfl
@[simp] theorem State.anyWord_flash : s.anyWord.2.flash = s.flash := rfl
@[simp] theorem State.anyWord_temps : s.anyWord.2.temps = s.temps := rfl
@[simp] theorem State.anyWord_svc : s.anyWord.2.svc = s.svc := rfl
@[simp] theorem State.anyWord_requests : s.anyWord.2.requests = s.requests := rfl
@[simp] theorem State.anyWord_flits : s.anyWord.2.flits = s.flits := rfl
@[simp] theorem State.anyWord_linkFlits : s.anyWord.2.linkFlits = s.linkFlits := rfl
@[simp] theorem State.anyWord_stomping : s.anyWord.2.stomping = s.stomping := rfl
@[simp] theorem State.anyWord_ide : s.anyWord.2.ide = s.ide := rfl
@[simp] theorem State.anyWord_stamps : s.anyWord.2.stamps = s.stamps := rfl
@[simp] theorem State.anyWord_serial : s.anyWord.2.serial = s.serial := rfl
@[simp] theorem State.anyWord_agenda : s.anyWord.2.agenda = s.agenda := rfl
@[simp] theorem State.anyWord_carry : s.anyWord.2.carry = s.carry := rfl
@[simp] theorem State.anyWord_timers : s.anyWord.2.timers = s.timers := rfl
@[simp] theorem State.anyWord_todo : s.anyWord.2.todo = s.todo := rfl
@[simp] theorem State.anyWord_cur : s.anyWord.2.cur = s.cur := rfl
@[simp] theorem State.anyWord_ctxs : s.anyWord.2.ctxs = s.ctxs := rfl
@[simp] theorem State.anyWord_cores : s.anyWord.2.cores = s.cores := rfl
@[simp] theorem State.anyWord_clusters : s.anyWord.2.clusters = s.clusters := rfl
@[simp] theorem State.anyWord_scratch : s.anyWord.2.scratch = s.scratch := rfl
@[simp] theorem State.anyWord_dram : s.anyWord.2.dram = s.dram := rfl
@[simp] theorem State.anyWord_sramTags : s.anyWord.2.sramTags = s.sramTags := rfl
@[simp] theorem State.anyWord_poison : s.anyWord.2.poison = s.poison := rfl
@[simp] theorem State.anyWord_stale : s.anyWord.2.stale = s.stale := rfl
@[simp] theorem State.anyWord_releases : s.anyWord.2.releases = s.releases := rfl
@[simp] theorem State.anyWord_acts : s.anyWord.2.acts = s.acts := rfl
@[simp] theorem State.anyWord_parts : s.anyWord.2.parts = s.parts := rfl
@[simp] theorem State.anyWord_transit : s.anyWord.2.transit = s.transit := rfl
@[simp] theorem State.anyWord_fab : s.anyWord.2.fab = s.fab := rfl
@[simp] theorem State.anyWord_peers : s.anyWord.2.peers = s.peers := rfl
@[simp] theorem State.anyWord_ports : s.anyWord.2.ports = s.ports := rfl
@[simp] theorem State.anyWord_remote : s.anyWord.2.remote = s.remote := rfl
@[simp] theorem State.anyWord_fn0 : s.anyWord.2.fn0 = s.fn0 := rfl
@[simp] theorem State.anyWord_lostmask : s.anyWord.2.lostmask = s.lostmask := rfl
@[simp] theorem State.anyWord_code : s.anyWord.2.code = s.code := rfl
@[simp] theorem State.anyWord_bootStage : s.anyWord.2.bootStage = s.bootStage := rfl
@[simp] theorem State.anyWord_bootReason : s.anyWord.2.bootReason = s.bootReason := rfl
@[simp] theorem State.anyWord_power : s.anyWord.2.power = s.power := rfl
@[simp] theorem State.anyWord_gating : s.anyWord.2.gating = s.gating := rfl
@[simp] theorem State.anyWord_hot : s.anyWord.2.hot = s.hot := rfl
@[simp] theorem State.anyWord_withheld : s.anyWord.2.withheld = s.withheld := rfl
@[simp] theorem State.anyWord_minVersion : s.anyWord.2.minVersion = s.minVersion := rfl
@[simp] theorem State.anyWord_measures : s.anyWord.2.measures = s.measures := rfl
@[simp] theorem State.anyWord_spdm : s.anyWord.2.spdm = s.spdm := rfl
@[simp] theorem State.anyWord_fn0Session : s.anyWord.2.fn0Session = s.fn0Session := rfl
@[simp] theorem State.anyWord_ideOn : s.anyWord.2.ideOn = s.ideOn := rfl
@[simp] theorem State.anyWord_served : s.anyWord.2.served = s.served := rfl
@[simp] theorem State.anyWord_mesh : s.anyWord.2.mesh = s.mesh := rfl
@[simp] theorem State.anyWord_forwards : s.anyWord.2.forwards = s.forwards := rfl
@[simp] theorem State.anyWord_outputs : s.anyWord.2.outputs = s.outputs := rfl
@[simp] theorem State.anyWord_scMissed : s.anyWord.2.scMissed = s.scMissed := rfl
@[simp] theorem State.anyWord_scFailed : s.anyWord.2.scFailed = s.scFailed := rfl
@[simp] theorem State.anyWord_mcMissed : s.anyWord.2.mcMissed = s.mcMissed := rfl
@[simp] theorem State.anyWord_dumps : s.anyWord.2.dumps = s.dumps := rfl
@[simp] theorem State.anyWord_lost : s.anyWord.2.lost = s.lost := rfl
@[simp] theorem State.anyWord_fatal : s.anyWord.2.fatal = s.fatal := rfl
@[simp] theorem State.anyWord_stopped : s.anyWord.2.stopped = s.stopped := rfl
@[simp] theorem State.anyWord_snapshots : s.anyWord.2.snapshots = s.snapshots := rfl

@[simp] theorem State.pickN_clock : s.pickN.2.clock = s.clock := rfl
@[simp] theorem State.pickN_skew : s.pickN.2.skew = s.skew := rfl
@[simp] theorem State.pickN_turn : s.pickN.2.turn = s.turn := rfl
@[simp] theorem State.pickN_owed : s.pickN.2.owed = s.owed := rfl
@[simp] theorem State.pickN_moving : s.pickN.2.moving = s.moving := rfl
@[simp] theorem State.pickN_updates : s.pickN.2.updates = s.updates := rfl
@[simp] theorem State.pickN_flash : s.pickN.2.flash = s.flash := rfl
@[simp] theorem State.pickN_temps : s.pickN.2.temps = s.temps := rfl
@[simp] theorem State.pickN_svc : s.pickN.2.svc = s.svc := rfl
@[simp] theorem State.pickN_requests : s.pickN.2.requests = s.requests := rfl
@[simp] theorem State.pickN_flits : s.pickN.2.flits = s.flits := rfl
@[simp] theorem State.pickN_linkFlits : s.pickN.2.linkFlits = s.linkFlits := rfl
@[simp] theorem State.pickN_stomping : s.pickN.2.stomping = s.stomping := rfl
@[simp] theorem State.pickN_ide : s.pickN.2.ide = s.ide := rfl
@[simp] theorem State.pickN_stamps : s.pickN.2.stamps = s.stamps := rfl
@[simp] theorem State.pickN_serial : s.pickN.2.serial = s.serial := rfl
@[simp] theorem State.pickN_agenda : s.pickN.2.agenda = s.agenda := rfl
@[simp] theorem State.pickN_carry : s.pickN.2.carry = s.carry := rfl
@[simp] theorem State.pickN_timers : s.pickN.2.timers = s.timers := rfl
@[simp] theorem State.pickN_todo : s.pickN.2.todo = s.todo := rfl
@[simp] theorem State.pickN_cur : s.pickN.2.cur = s.cur := rfl
@[simp] theorem State.pickN_ctxs : s.pickN.2.ctxs = s.ctxs := rfl
@[simp] theorem State.pickN_cores : s.pickN.2.cores = s.cores := rfl
@[simp] theorem State.pickN_clusters : s.pickN.2.clusters = s.clusters := rfl
@[simp] theorem State.pickN_scratch : s.pickN.2.scratch = s.scratch := rfl
@[simp] theorem State.pickN_dram : s.pickN.2.dram = s.dram := rfl
@[simp] theorem State.pickN_sramTags : s.pickN.2.sramTags = s.sramTags := rfl
@[simp] theorem State.pickN_poison : s.pickN.2.poison = s.poison := rfl
@[simp] theorem State.pickN_stale : s.pickN.2.stale = s.stale := rfl
@[simp] theorem State.pickN_releases : s.pickN.2.releases = s.releases := rfl
@[simp] theorem State.pickN_acts : s.pickN.2.acts = s.acts := rfl
@[simp] theorem State.pickN_parts : s.pickN.2.parts = s.parts := rfl
@[simp] theorem State.pickN_transit : s.pickN.2.transit = s.transit := rfl
@[simp] theorem State.pickN_fab : s.pickN.2.fab = s.fab := rfl
@[simp] theorem State.pickN_peers : s.pickN.2.peers = s.peers := rfl
@[simp] theorem State.pickN_ports : s.pickN.2.ports = s.ports := rfl
@[simp] theorem State.pickN_remote : s.pickN.2.remote = s.remote := rfl
@[simp] theorem State.pickN_fn0 : s.pickN.2.fn0 = s.fn0 := rfl
@[simp] theorem State.pickN_lostmask : s.pickN.2.lostmask = s.lostmask := rfl
@[simp] theorem State.pickN_code : s.pickN.2.code = s.code := rfl
@[simp] theorem State.pickN_bootStage : s.pickN.2.bootStage = s.bootStage := rfl
@[simp] theorem State.pickN_bootReason : s.pickN.2.bootReason = s.bootReason := rfl
@[simp] theorem State.pickN_power : s.pickN.2.power = s.power := rfl
@[simp] theorem State.pickN_gating : s.pickN.2.gating = s.gating := rfl
@[simp] theorem State.pickN_hot : s.pickN.2.hot = s.hot := rfl
@[simp] theorem State.pickN_withheld : s.pickN.2.withheld = s.withheld := rfl
@[simp] theorem State.pickN_minVersion : s.pickN.2.minVersion = s.minVersion := rfl
@[simp] theorem State.pickN_measures : s.pickN.2.measures = s.measures := rfl
@[simp] theorem State.pickN_spdm : s.pickN.2.spdm = s.spdm := rfl
@[simp] theorem State.pickN_fn0Session : s.pickN.2.fn0Session = s.fn0Session := rfl
@[simp] theorem State.pickN_ideOn : s.pickN.2.ideOn = s.ideOn := rfl
@[simp] theorem State.pickN_served : s.pickN.2.served = s.served := rfl
@[simp] theorem State.pickN_mesh : s.pickN.2.mesh = s.mesh := rfl
@[simp] theorem State.pickN_forwards : s.pickN.2.forwards = s.forwards := rfl
@[simp] theorem State.pickN_outputs : s.pickN.2.outputs = s.outputs := rfl
@[simp] theorem State.pickN_scMissed : s.pickN.2.scMissed = s.scMissed := rfl
@[simp] theorem State.pickN_scFailed : s.pickN.2.scFailed = s.scFailed := rfl
@[simp] theorem State.pickN_mcMissed : s.pickN.2.mcMissed = s.mcMissed := rfl
@[simp] theorem State.pickN_dumps : s.pickN.2.dumps = s.dumps := rfl
@[simp] theorem State.pickN_lost : s.pickN.2.lost = s.lost := rfl
@[simp] theorem State.pickN_fatal : s.pickN.2.fatal = s.fatal := rfl
@[simp] theorem State.pickN_stopped : s.pickN.2.stopped = s.stopped := rfl
@[simp] theorem State.pickN_snapshots : s.pickN.2.snapshots = s.snapshots := rfl

@[simp] theorem State.stamp_clock (n : Nat) : (s.stamp n).2.clock = s.clock := rfl
@[simp] theorem State.stamp_skew (n : Nat) : (s.stamp n).2.skew = s.skew := rfl
@[simp] theorem State.stamp_owed (n : Nat) : (s.stamp n).2.owed = s.owed := rfl
@[simp] theorem State.stamp_moving (n : Nat) : (s.stamp n).2.moving = s.moving := rfl
@[simp] theorem State.stamp_updates (n : Nat) : (s.stamp n).2.updates = s.updates := rfl
@[simp] theorem State.stamp_flash (n : Nat) : (s.stamp n).2.flash = s.flash := rfl
@[simp] theorem State.stamp_temps (n : Nat) : (s.stamp n).2.temps = s.temps := rfl
@[simp] theorem State.stamp_svc (n : Nat) : (s.stamp n).2.svc = s.svc := rfl
@[simp] theorem State.stamp_requests (n : Nat) : (s.stamp n).2.requests = s.requests := rfl
@[simp] theorem State.stamp_flits (n : Nat) : (s.stamp n).2.flits = s.flits := rfl
@[simp] theorem State.stamp_linkFlits (n : Nat) : (s.stamp n).2.linkFlits = s.linkFlits := rfl
@[simp] theorem State.stamp_stomping (n : Nat) : (s.stamp n).2.stomping = s.stomping := rfl
@[simp] theorem State.stamp_ide (n : Nat) : (s.stamp n).2.ide = s.ide := rfl
@[simp] theorem State.stamp_free (n : Nat) : (s.stamp n).2.free = s.free := rfl
@[simp] theorem State.stamp_serial (n : Nat) : (s.stamp n).2.serial = s.serial := rfl
@[simp] theorem State.stamp_agenda (n : Nat) : (s.stamp n).2.agenda = s.agenda := rfl
@[simp] theorem State.stamp_carry (n : Nat) : (s.stamp n).2.carry = s.carry := rfl
@[simp] theorem State.stamp_timers (n : Nat) : (s.stamp n).2.timers = s.timers := rfl
@[simp] theorem State.stamp_todo (n : Nat) : (s.stamp n).2.todo = s.todo := rfl
@[simp] theorem State.stamp_cur (n : Nat) : (s.stamp n).2.cur = s.cur := rfl
@[simp] theorem State.stamp_ctxs (n : Nat) : (s.stamp n).2.ctxs = s.ctxs := rfl
@[simp] theorem State.stamp_cores (n : Nat) : (s.stamp n).2.cores = s.cores := rfl
@[simp] theorem State.stamp_clusters (n : Nat) : (s.stamp n).2.clusters = s.clusters := rfl
@[simp] theorem State.stamp_scratch (n : Nat) : (s.stamp n).2.scratch = s.scratch := rfl
@[simp] theorem State.stamp_dram (n : Nat) : (s.stamp n).2.dram = s.dram := rfl
@[simp] theorem State.stamp_sramTags (n : Nat) : (s.stamp n).2.sramTags = s.sramTags := rfl
@[simp] theorem State.stamp_poison (n : Nat) : (s.stamp n).2.poison = s.poison := rfl
@[simp] theorem State.stamp_stale (n : Nat) : (s.stamp n).2.stale = s.stale := rfl
@[simp] theorem State.stamp_releases (n : Nat) : (s.stamp n).2.releases = s.releases := rfl
@[simp] theorem State.stamp_acts (n : Nat) : (s.stamp n).2.acts = s.acts := rfl
@[simp] theorem State.stamp_parts (n : Nat) : (s.stamp n).2.parts = s.parts := rfl
@[simp] theorem State.stamp_transit (n : Nat) : (s.stamp n).2.transit = s.transit := rfl
@[simp] theorem State.stamp_fab (n : Nat) : (s.stamp n).2.fab = s.fab := rfl
@[simp] theorem State.stamp_peers (n : Nat) : (s.stamp n).2.peers = s.peers := rfl
@[simp] theorem State.stamp_ports (n : Nat) : (s.stamp n).2.ports = s.ports := rfl
@[simp] theorem State.stamp_remote (n : Nat) : (s.stamp n).2.remote = s.remote := rfl
@[simp] theorem State.stamp_fn0 (n : Nat) : (s.stamp n).2.fn0 = s.fn0 := rfl
@[simp] theorem State.stamp_lostmask (n : Nat) : (s.stamp n).2.lostmask = s.lostmask := rfl
@[simp] theorem State.stamp_code (n : Nat) : (s.stamp n).2.code = s.code := rfl
@[simp] theorem State.stamp_bootStage (n : Nat) : (s.stamp n).2.bootStage = s.bootStage := rfl
@[simp] theorem State.stamp_bootReason (n : Nat) : (s.stamp n).2.bootReason = s.bootReason := rfl
@[simp] theorem State.stamp_power (n : Nat) : (s.stamp n).2.power = s.power := rfl
@[simp] theorem State.stamp_gating (n : Nat) : (s.stamp n).2.gating = s.gating := rfl
@[simp] theorem State.stamp_hot (n : Nat) : (s.stamp n).2.hot = s.hot := rfl
@[simp] theorem State.stamp_withheld (n : Nat) : (s.stamp n).2.withheld = s.withheld := rfl
@[simp] theorem State.stamp_minVersion (n : Nat) : (s.stamp n).2.minVersion = s.minVersion := rfl
@[simp] theorem State.stamp_measures (n : Nat) : (s.stamp n).2.measures = s.measures := rfl
@[simp] theorem State.stamp_spdm (n : Nat) : (s.stamp n).2.spdm = s.spdm := rfl
@[simp] theorem State.stamp_fn0Session (n : Nat) : (s.stamp n).2.fn0Session = s.fn0Session := rfl
@[simp] theorem State.stamp_ideOn (n : Nat) : (s.stamp n).2.ideOn = s.ideOn := rfl
@[simp] theorem State.stamp_served (n : Nat) : (s.stamp n).2.served = s.served := rfl
@[simp] theorem State.stamp_mesh (n : Nat) : (s.stamp n).2.mesh = s.mesh := rfl
@[simp] theorem State.stamp_forwards (n : Nat) : (s.stamp n).2.forwards = s.forwards := rfl
@[simp] theorem State.stamp_outputs (n : Nat) : (s.stamp n).2.outputs = s.outputs := rfl
@[simp] theorem State.stamp_scMissed (n : Nat) : (s.stamp n).2.scMissed = s.scMissed := rfl
@[simp] theorem State.stamp_scFailed (n : Nat) : (s.stamp n).2.scFailed = s.scFailed := rfl
@[simp] theorem State.stamp_mcMissed (n : Nat) : (s.stamp n).2.mcMissed = s.mcMissed := rfl
@[simp] theorem State.stamp_dumps (n : Nat) : (s.stamp n).2.dumps = s.dumps := rfl
@[simp] theorem State.stamp_lost (n : Nat) : (s.stamp n).2.lost = s.lost := rfl
@[simp] theorem State.stamp_fatal (n : Nat) : (s.stamp n).2.fatal = s.fatal := rfl
@[simp] theorem State.stamp_stopped (n : Nat) : (s.stamp n).2.stopped = s.stopped := rfl
@[simp] theorem State.stamp_snapshots (n : Nat) : (s.stamp n).2.snapshots = s.snapshots := rfl

@[simp] theorem State.fresh_clock : s.fresh.2.clock = s.clock := rfl
@[simp] theorem State.fresh_skew : s.fresh.2.skew = s.skew := rfl
@[simp] theorem State.fresh_turn : s.fresh.2.turn = s.turn := rfl
@[simp] theorem State.fresh_owed : s.fresh.2.owed = s.owed := rfl
@[simp] theorem State.fresh_moving : s.fresh.2.moving = s.moving := rfl
@[simp] theorem State.fresh_updates : s.fresh.2.updates = s.updates := rfl
@[simp] theorem State.fresh_flash : s.fresh.2.flash = s.flash := rfl
@[simp] theorem State.fresh_temps : s.fresh.2.temps = s.temps := rfl
@[simp] theorem State.fresh_svc : s.fresh.2.svc = s.svc := rfl
@[simp] theorem State.fresh_requests : s.fresh.2.requests = s.requests := rfl
@[simp] theorem State.fresh_flits : s.fresh.2.flits = s.flits := rfl
@[simp] theorem State.fresh_linkFlits : s.fresh.2.linkFlits = s.linkFlits := rfl
@[simp] theorem State.fresh_stomping : s.fresh.2.stomping = s.stomping := rfl
@[simp] theorem State.fresh_ide : s.fresh.2.ide = s.ide := rfl
@[simp] theorem State.fresh_stamps : s.fresh.2.stamps = s.stamps := rfl
@[simp] theorem State.fresh_free : s.fresh.2.free = s.free := rfl
@[simp] theorem State.fresh_agenda : s.fresh.2.agenda = s.agenda := rfl
@[simp] theorem State.fresh_carry : s.fresh.2.carry = s.carry := rfl
@[simp] theorem State.fresh_timers : s.fresh.2.timers = s.timers := rfl
@[simp] theorem State.fresh_todo : s.fresh.2.todo = s.todo := rfl
@[simp] theorem State.fresh_cur : s.fresh.2.cur = s.cur := rfl
@[simp] theorem State.fresh_ctxs : s.fresh.2.ctxs = s.ctxs := rfl
@[simp] theorem State.fresh_cores : s.fresh.2.cores = s.cores := rfl
@[simp] theorem State.fresh_clusters : s.fresh.2.clusters = s.clusters := rfl
@[simp] theorem State.fresh_scratch : s.fresh.2.scratch = s.scratch := rfl
@[simp] theorem State.fresh_dram : s.fresh.2.dram = s.dram := rfl
@[simp] theorem State.fresh_sramTags : s.fresh.2.sramTags = s.sramTags := rfl
@[simp] theorem State.fresh_poison : s.fresh.2.poison = s.poison := rfl
@[simp] theorem State.fresh_stale : s.fresh.2.stale = s.stale := rfl
@[simp] theorem State.fresh_releases : s.fresh.2.releases = s.releases := rfl
@[simp] theorem State.fresh_acts : s.fresh.2.acts = s.acts := rfl
@[simp] theorem State.fresh_parts : s.fresh.2.parts = s.parts := rfl
@[simp] theorem State.fresh_transit : s.fresh.2.transit = s.transit := rfl
@[simp] theorem State.fresh_fab : s.fresh.2.fab = s.fab := rfl
@[simp] theorem State.fresh_peers : s.fresh.2.peers = s.peers := rfl
@[simp] theorem State.fresh_ports : s.fresh.2.ports = s.ports := rfl
@[simp] theorem State.fresh_remote : s.fresh.2.remote = s.remote := rfl
@[simp] theorem State.fresh_fn0 : s.fresh.2.fn0 = s.fn0 := rfl
@[simp] theorem State.fresh_lostmask : s.fresh.2.lostmask = s.lostmask := rfl
@[simp] theorem State.fresh_code : s.fresh.2.code = s.code := rfl
@[simp] theorem State.fresh_bootStage : s.fresh.2.bootStage = s.bootStage := rfl
@[simp] theorem State.fresh_bootReason : s.fresh.2.bootReason = s.bootReason := rfl
@[simp] theorem State.fresh_power : s.fresh.2.power = s.power := rfl
@[simp] theorem State.fresh_gating : s.fresh.2.gating = s.gating := rfl
@[simp] theorem State.fresh_hot : s.fresh.2.hot = s.hot := rfl
@[simp] theorem State.fresh_withheld : s.fresh.2.withheld = s.withheld := rfl
@[simp] theorem State.fresh_minVersion : s.fresh.2.minVersion = s.minVersion := rfl
@[simp] theorem State.fresh_measures : s.fresh.2.measures = s.measures := rfl
@[simp] theorem State.fresh_spdm : s.fresh.2.spdm = s.spdm := rfl
@[simp] theorem State.fresh_fn0Session : s.fresh.2.fn0Session = s.fn0Session := rfl
@[simp] theorem State.fresh_ideOn : s.fresh.2.ideOn = s.ideOn := rfl
@[simp] theorem State.fresh_served : s.fresh.2.served = s.served := rfl
@[simp] theorem State.fresh_mesh : s.fresh.2.mesh = s.mesh := rfl
@[simp] theorem State.fresh_forwards : s.fresh.2.forwards = s.forwards := rfl
@[simp] theorem State.fresh_outputs : s.fresh.2.outputs = s.outputs := rfl
@[simp] theorem State.fresh_scMissed : s.fresh.2.scMissed = s.scMissed := rfl
@[simp] theorem State.fresh_scFailed : s.fresh.2.scFailed = s.scFailed := rfl
@[simp] theorem State.fresh_mcMissed : s.fresh.2.mcMissed = s.mcMissed := rfl
@[simp] theorem State.fresh_dumps : s.fresh.2.dumps = s.dumps := rfl
@[simp] theorem State.fresh_lost : s.fresh.2.lost = s.lost := rfl
@[simp] theorem State.fresh_fatal : s.fresh.2.fatal = s.fatal := rfl
@[simp] theorem State.fresh_stopped : s.fresh.2.stopped = s.stopped := rfl
@[simp] theorem State.fresh_snapshots : s.fresh.2.snapshots = s.snapshots := rfl

/-! ## A context -/

variable (k : Ctx)

@[simp] theorem Ctx.advance_act : (k.advance).act = k.act := rfl
@[simp] theorem Ctx.advance_member : (k.advance).member = k.member := rfl
@[simp] theorem Ctx.advance_start : (k.advance).start = k.start := rfl
@[simp] theorem Ctx.advance_x : (k.advance).x = k.x := rfl
@[simp] theorem Ctx.advance_v : (k.advance).v = k.v := rfl
@[simp] theorem Ctx.advance_m : (k.advance).m = k.m := rfl
@[simp] theorem Ctx.advance_p : (k.advance).p = k.p := rfl
@[simp] theorem Ctx.advance_fullX : (k.advance).fullX = k.fullX := rfl
@[simp] theorem Ctx.advance_fullV : (k.advance).fullV = k.fullV := rfl
@[simp] theorem Ctx.advance_wait : (k.advance).wait = k.wait := rfl
@[simp] theorem Ctx.advance_pause : (k.advance).pause = k.pause := rfl
@[simp] theorem Ctx.advance_gap : (k.advance).gap = k.gap := rfl
@[simp] theorem Ctx.advance_busy : (k.advance).busy = k.busy := rfl
@[simp] theorem Ctx.advance_pend : (k.advance).pend = k.pend := rfl
@[simp] theorem Ctx.advance_vres : (k.advance).vres = k.vres := rfl
@[simp] theorem Ctx.advance_acqHold : (k.advance).acqHold = k.acqHold := rfl
@[simp] theorem Ctx.advance_fenceHold : (k.advance).fenceHold = k.fenceHold := rfl
@[simp] theorem Ctx.advance_cycleHold : (k.advance).cycleHold = k.cycleHold := rfl
@[simp] theorem Ctx.advance_heard : (k.advance).heard = k.heard := rfl
@[simp] theorem Ctx.advance_fenceTok : (k.advance).fenceTok = k.fenceTok := rfl
@[simp] theorem Ctx.advance_fflags : (k.advance).fflags = k.fflags := rfl
@[simp] theorem Ctx.advance_epc : (k.advance).epc = k.epc := rfl
@[simp] theorem Ctx.advance_enpc : (k.advance).enpc = k.enpc := rfl
@[simp] theorem Ctx.advance_cause : (k.advance).cause = k.cause := rfl
@[simp] theorem Ctx.advance_badaddr : (k.advance).badaddr = k.badaddr := rfl
@[simp] theorem Ctx.advance_vlane : (k.advance).vlane = k.vlane := rfl
@[simp] theorem Ctx.advance_denials : (k.advance).denials = k.denials := rfl
@[simp] theorem Ctx.advance_ustep : (k.advance).ustep = k.ustep := rfl
@[simp] theorem Ctx.advance_mxstep : (k.advance).mxstep = k.mxstep := rfl
@[simp] theorem Ctx.advance_tcm : (k.advance).tcm = k.tcm := rfl
@[simp] theorem Ctx.advance_sampleWait : (k.advance).sampleWait = k.sampleWait := rfl
@[simp] theorem Ctx.advance_samples : (k.advance).samples = k.samples := rfl

@[simp] theorem Ctx.transfer_act (t : Word) : (k.transfer t).act = k.act := rfl
@[simp] theorem Ctx.transfer_member (t : Word) : (k.transfer t).member = k.member := rfl
@[simp] theorem Ctx.transfer_start (t : Word) : (k.transfer t).start = k.start := rfl
@[simp] theorem Ctx.transfer_x (t : Word) : (k.transfer t).x = k.x := rfl
@[simp] theorem Ctx.transfer_v (t : Word) : (k.transfer t).v = k.v := rfl
@[simp] theorem Ctx.transfer_m (t : Word) : (k.transfer t).m = k.m := rfl
@[simp] theorem Ctx.transfer_p (t : Word) : (k.transfer t).p = k.p := rfl
@[simp] theorem Ctx.transfer_fullX (t : Word) : (k.transfer t).fullX = k.fullX := rfl
@[simp] theorem Ctx.transfer_fullV (t : Word) : (k.transfer t).fullV = k.fullV := rfl
@[simp] theorem Ctx.transfer_wait (t : Word) : (k.transfer t).wait = k.wait := rfl
@[simp] theorem Ctx.transfer_pause (t : Word) : (k.transfer t).pause = k.pause := rfl
@[simp] theorem Ctx.transfer_gap (t : Word) : (k.transfer t).gap = k.gap := rfl
@[simp] theorem Ctx.transfer_busy (t : Word) : (k.transfer t).busy = k.busy := rfl
@[simp] theorem Ctx.transfer_pend (t : Word) : (k.transfer t).pend = k.pend := rfl
@[simp] theorem Ctx.transfer_vres (t : Word) : (k.transfer t).vres = k.vres := rfl
@[simp] theorem Ctx.transfer_acqHold (t : Word) : (k.transfer t).acqHold = k.acqHold := rfl
@[simp] theorem Ctx.transfer_fenceHold (t : Word) : (k.transfer t).fenceHold = k.fenceHold := rfl
@[simp] theorem Ctx.transfer_cycleHold (t : Word) : (k.transfer t).cycleHold = k.cycleHold := rfl
@[simp] theorem Ctx.transfer_heard (t : Word) : (k.transfer t).heard = k.heard := rfl
@[simp] theorem Ctx.transfer_fenceTok (t : Word) : (k.transfer t).fenceTok = k.fenceTok := rfl
@[simp] theorem Ctx.transfer_fflags (t : Word) : (k.transfer t).fflags = k.fflags := rfl
@[simp] theorem Ctx.transfer_epc (t : Word) : (k.transfer t).epc = k.epc := rfl
@[simp] theorem Ctx.transfer_enpc (t : Word) : (k.transfer t).enpc = k.enpc := rfl
@[simp] theorem Ctx.transfer_cause (t : Word) : (k.transfer t).cause = k.cause := rfl
@[simp] theorem Ctx.transfer_badaddr (t : Word) : (k.transfer t).badaddr = k.badaddr := rfl
@[simp] theorem Ctx.transfer_vlane (t : Word) : (k.transfer t).vlane = k.vlane := rfl
@[simp] theorem Ctx.transfer_denials (t : Word) : (k.transfer t).denials = k.denials := rfl
@[simp] theorem Ctx.transfer_ustep (t : Word) : (k.transfer t).ustep = k.ustep := rfl
@[simp] theorem Ctx.transfer_mxstep (t : Word) : (k.transfer t).mxstep = k.mxstep := rfl
@[simp] theorem Ctx.transfer_tcm (t : Word) : (k.transfer t).tcm = k.tcm := rfl
@[simp] theorem Ctx.transfer_sampleWait (t : Word) : (k.transfer t).sampleWait = k.sampleWait := rfl
@[simp] theorem Ctx.transfer_samples (t : Word) : (k.transfer t).samples = k.samples := rfl

@[simp] theorem Ctx.take_act (t : Trap) : (k.take t).act = k.act := rfl
@[simp] theorem Ctx.take_member (t : Trap) : (k.take t).member = k.member := rfl
@[simp] theorem Ctx.take_start (t : Trap) : (k.take t).start = k.start := rfl
@[simp] theorem Ctx.take_x (t : Trap) : (k.take t).x = k.x := rfl
@[simp] theorem Ctx.take_v (t : Trap) : (k.take t).v = k.v := rfl
@[simp] theorem Ctx.take_m (t : Trap) : (k.take t).m = k.m := rfl
@[simp] theorem Ctx.take_p (t : Trap) : (k.take t).p = k.p := rfl
@[simp] theorem Ctx.take_fullX (t : Trap) : (k.take t).fullX = k.fullX := rfl
@[simp] theorem Ctx.take_fullV (t : Trap) : (k.take t).fullV = k.fullV := rfl
@[simp] theorem Ctx.take_pc (t : Trap) : (k.take t).pc = k.pc := rfl
@[simp] theorem Ctx.take_slot (t : Trap) : (k.take t).slot = k.slot := rfl
@[simp] theorem Ctx.take_wait (t : Trap) : (k.take t).wait = k.wait := rfl
@[simp] theorem Ctx.take_pause (t : Trap) : (k.take t).pause = k.pause := rfl
@[simp] theorem Ctx.take_gap (t : Trap) : (k.take t).gap = k.gap := rfl
@[simp] theorem Ctx.take_busy (t : Trap) : (k.take t).busy = k.busy := rfl
@[simp] theorem Ctx.take_pend (t : Trap) : (k.take t).pend = k.pend := rfl
@[simp] theorem Ctx.take_vres (t : Trap) : (k.take t).vres = k.vres := rfl
@[simp] theorem Ctx.take_acqHold (t : Trap) : (k.take t).acqHold = k.acqHold := rfl
@[simp] theorem Ctx.take_fenceHold (t : Trap) : (k.take t).fenceHold = k.fenceHold := rfl
@[simp] theorem Ctx.take_cycleHold (t : Trap) : (k.take t).cycleHold = k.cycleHold := rfl
@[simp] theorem Ctx.take_heard (t : Trap) : (k.take t).heard = k.heard := rfl
@[simp] theorem Ctx.take_fenceTok (t : Trap) : (k.take t).fenceTok = k.fenceTok := rfl
@[simp] theorem Ctx.take_fflags (t : Trap) : (k.take t).fflags = k.fflags := rfl
@[simp] theorem Ctx.take_vlane (t : Trap) : (k.take t).vlane = k.vlane := rfl
@[simp] theorem Ctx.take_denials (t : Trap) : (k.take t).denials = k.denials := rfl
@[simp] theorem Ctx.take_ustep (t : Trap) : (k.take t).ustep = k.ustep := rfl
@[simp] theorem Ctx.take_mxstep (t : Trap) : (k.take t).mxstep = k.mxstep := rfl
@[simp] theorem Ctx.take_tcm (t : Trap) : (k.take t).tcm = k.tcm := rfl
@[simp] theorem Ctx.take_sampleWait (t : Trap) : (k.take t).sampleWait = k.sampleWait := rfl
@[simp] theorem Ctx.take_samples (t : Trap) : (k.take t).samples = k.samples := rfl

@[simp] theorem Ctx.eret_act : (k.eret).act = k.act := rfl
@[simp] theorem Ctx.eret_member : (k.eret).member = k.member := rfl
@[simp] theorem Ctx.eret_start : (k.eret).start = k.start := rfl
@[simp] theorem Ctx.eret_x : (k.eret).x = k.x := rfl
@[simp] theorem Ctx.eret_v : (k.eret).v = k.v := rfl
@[simp] theorem Ctx.eret_m : (k.eret).m = k.m := rfl
@[simp] theorem Ctx.eret_p : (k.eret).p = k.p := rfl
@[simp] theorem Ctx.eret_fullX : (k.eret).fullX = k.fullX := rfl
@[simp] theorem Ctx.eret_fullV : (k.eret).fullV = k.fullV := rfl
@[simp] theorem Ctx.eret_wait : (k.eret).wait = k.wait := rfl
@[simp] theorem Ctx.eret_pause : (k.eret).pause = k.pause := rfl
@[simp] theorem Ctx.eret_gap : (k.eret).gap = k.gap := rfl
@[simp] theorem Ctx.eret_busy : (k.eret).busy = k.busy := rfl
@[simp] theorem Ctx.eret_pend : (k.eret).pend = k.pend := rfl
@[simp] theorem Ctx.eret_vres : (k.eret).vres = k.vres := rfl
@[simp] theorem Ctx.eret_acqHold : (k.eret).acqHold = k.acqHold := rfl
@[simp] theorem Ctx.eret_fenceHold : (k.eret).fenceHold = k.fenceHold := rfl
@[simp] theorem Ctx.eret_cycleHold : (k.eret).cycleHold = k.cycleHold := rfl
@[simp] theorem Ctx.eret_heard : (k.eret).heard = k.heard := rfl
@[simp] theorem Ctx.eret_fenceTok : (k.eret).fenceTok = k.fenceTok := rfl
@[simp] theorem Ctx.eret_fflags : (k.eret).fflags = k.fflags := rfl
@[simp] theorem Ctx.eret_epc : (k.eret).epc = k.epc := rfl
@[simp] theorem Ctx.eret_enpc : (k.eret).enpc = k.enpc := rfl
@[simp] theorem Ctx.eret_cause : (k.eret).cause = k.cause := rfl
@[simp] theorem Ctx.eret_badaddr : (k.eret).badaddr = k.badaddr := rfl
@[simp] theorem Ctx.eret_vlane : (k.eret).vlane = k.vlane := rfl
@[simp] theorem Ctx.eret_denials : (k.eret).denials = k.denials := rfl
@[simp] theorem Ctx.eret_ustep : (k.eret).ustep = k.ustep := rfl
@[simp] theorem Ctx.eret_mxstep : (k.eret).mxstep = k.mxstep := rfl
@[simp] theorem Ctx.eret_tcm : (k.eret).tcm = k.tcm := rfl
@[simp] theorem Ctx.eret_sampleWait : (k.eret).sampleWait = k.sampleWait := rfl
@[simp] theorem Ctx.eret_samples : (k.eret).samples = k.samples := rfl

@[simp] theorem Ctx.eretRe_act : (k.eretRe).act = k.act := rfl
@[simp] theorem Ctx.eretRe_member : (k.eretRe).member = k.member := rfl
@[simp] theorem Ctx.eretRe_start : (k.eretRe).start = k.start := rfl
@[simp] theorem Ctx.eretRe_x : (k.eretRe).x = k.x := rfl
@[simp] theorem Ctx.eretRe_v : (k.eretRe).v = k.v := rfl
@[simp] theorem Ctx.eretRe_m : (k.eretRe).m = k.m := rfl
@[simp] theorem Ctx.eretRe_p : (k.eretRe).p = k.p := rfl
@[simp] theorem Ctx.eretRe_fullX : (k.eretRe).fullX = k.fullX := rfl
@[simp] theorem Ctx.eretRe_fullV : (k.eretRe).fullV = k.fullV := rfl
@[simp] theorem Ctx.eretRe_wait : (k.eretRe).wait = k.wait := rfl
@[simp] theorem Ctx.eretRe_pause : (k.eretRe).pause = k.pause := rfl
@[simp] theorem Ctx.eretRe_gap : (k.eretRe).gap = k.gap := rfl
@[simp] theorem Ctx.eretRe_busy : (k.eretRe).busy = k.busy := rfl
@[simp] theorem Ctx.eretRe_pend : (k.eretRe).pend = k.pend := rfl
@[simp] theorem Ctx.eretRe_vres : (k.eretRe).vres = k.vres := rfl
@[simp] theorem Ctx.eretRe_acqHold : (k.eretRe).acqHold = k.acqHold := rfl
@[simp] theorem Ctx.eretRe_fenceHold : (k.eretRe).fenceHold = k.fenceHold := rfl
@[simp] theorem Ctx.eretRe_cycleHold : (k.eretRe).cycleHold = k.cycleHold := rfl
@[simp] theorem Ctx.eretRe_heard : (k.eretRe).heard = k.heard := rfl
@[simp] theorem Ctx.eretRe_fenceTok : (k.eretRe).fenceTok = k.fenceTok := rfl
@[simp] theorem Ctx.eretRe_fflags : (k.eretRe).fflags = k.fflags := rfl
@[simp] theorem Ctx.eretRe_epc : (k.eretRe).epc = k.epc := rfl
@[simp] theorem Ctx.eretRe_enpc : (k.eretRe).enpc = k.enpc := rfl
@[simp] theorem Ctx.eretRe_cause : (k.eretRe).cause = k.cause := rfl
@[simp] theorem Ctx.eretRe_badaddr : (k.eretRe).badaddr = k.badaddr := rfl
@[simp] theorem Ctx.eretRe_vlane : (k.eretRe).vlane = k.vlane := rfl
@[simp] theorem Ctx.eretRe_denials : (k.eretRe).denials = k.denials := rfl
@[simp] theorem Ctx.eretRe_ustep : (k.eretRe).ustep = k.ustep := rfl
@[simp] theorem Ctx.eretRe_mxstep : (k.eretRe).mxstep = k.mxstep := rfl
@[simp] theorem Ctx.eretRe_tcm : (k.eretRe).tcm = k.tcm := rfl
@[simp] theorem Ctx.eretRe_sampleWait : (k.eretRe).sampleWait = k.sampleWait := rfl
@[simp] theorem Ctx.eretRe_samples : (k.eretRe).samples = k.samples := rfl

@[simp] theorem Ctx.emptyV_act (r : BitVec 5) : (k.emptyV r).act = k.act := rfl
@[simp] theorem Ctx.emptyV_member (r : BitVec 5) : (k.emptyV r).member = k.member := rfl
@[simp] theorem Ctx.emptyV_start (r : BitVec 5) : (k.emptyV r).start = k.start := rfl
@[simp] theorem Ctx.emptyV_x (r : BitVec 5) : (k.emptyV r).x = k.x := rfl
@[simp] theorem Ctx.emptyV_v (r : BitVec 5) : (k.emptyV r).v = k.v := rfl
@[simp] theorem Ctx.emptyV_m (r : BitVec 5) : (k.emptyV r).m = k.m := rfl
@[simp] theorem Ctx.emptyV_p (r : BitVec 5) : (k.emptyV r).p = k.p := rfl
@[simp] theorem Ctx.emptyV_fullX (r : BitVec 5) : (k.emptyV r).fullX = k.fullX := rfl
@[simp] theorem Ctx.emptyV_pc (r : BitVec 5) : (k.emptyV r).pc = k.pc := rfl
@[simp] theorem Ctx.emptyV_slot (r : BitVec 5) : (k.emptyV r).slot = k.slot := rfl
@[simp] theorem Ctx.emptyV_wait (r : BitVec 5) : (k.emptyV r).wait = k.wait := rfl
@[simp] theorem Ctx.emptyV_pause (r : BitVec 5) : (k.emptyV r).pause = k.pause := rfl
@[simp] theorem Ctx.emptyV_gap (r : BitVec 5) : (k.emptyV r).gap = k.gap := rfl
@[simp] theorem Ctx.emptyV_busy (r : BitVec 5) : (k.emptyV r).busy = k.busy := rfl
@[simp] theorem Ctx.emptyV_pend (r : BitVec 5) : (k.emptyV r).pend = k.pend := rfl
@[simp] theorem Ctx.emptyV_vres (r : BitVec 5) : (k.emptyV r).vres = k.vres := rfl
@[simp] theorem Ctx.emptyV_acqHold (r : BitVec 5) : (k.emptyV r).acqHold = k.acqHold := rfl
@[simp] theorem Ctx.emptyV_fenceHold (r : BitVec 5) : (k.emptyV r).fenceHold = k.fenceHold := rfl
@[simp] theorem Ctx.emptyV_cycleHold (r : BitVec 5) : (k.emptyV r).cycleHold = k.cycleHold := rfl
@[simp] theorem Ctx.emptyV_heard (r : BitVec 5) : (k.emptyV r).heard = k.heard := rfl
@[simp] theorem Ctx.emptyV_fenceTok (r : BitVec 5) : (k.emptyV r).fenceTok = k.fenceTok := rfl
@[simp] theorem Ctx.emptyV_fflags (r : BitVec 5) : (k.emptyV r).fflags = k.fflags := rfl
@[simp] theorem Ctx.emptyV_epc (r : BitVec 5) : (k.emptyV r).epc = k.epc := rfl
@[simp] theorem Ctx.emptyV_enpc (r : BitVec 5) : (k.emptyV r).enpc = k.enpc := rfl
@[simp] theorem Ctx.emptyV_cause (r : BitVec 5) : (k.emptyV r).cause = k.cause := rfl
@[simp] theorem Ctx.emptyV_badaddr (r : BitVec 5) : (k.emptyV r).badaddr = k.badaddr := rfl
@[simp] theorem Ctx.emptyV_vlane (r : BitVec 5) : (k.emptyV r).vlane = k.vlane := rfl
@[simp] theorem Ctx.emptyV_denials (r : BitVec 5) : (k.emptyV r).denials = k.denials := rfl
@[simp] theorem Ctx.emptyV_ustep (r : BitVec 5) : (k.emptyV r).ustep = k.ustep := rfl
@[simp] theorem Ctx.emptyV_mxstep (r : BitVec 5) : (k.emptyV r).mxstep = k.mxstep := rfl
@[simp] theorem Ctx.emptyV_tcm (r : BitVec 5) : (k.emptyV r).tcm = k.tcm := rfl
@[simp] theorem Ctx.emptyV_sampleWait (r : BitVec 5) : (k.emptyV r).sampleWait = k.sampleWait := rfl
@[simp] theorem Ctx.emptyV_samples (r : BitVec 5) : (k.emptyV r).samples = k.samples := rfl

@[simp] theorem Ctx.emptyX_act (r : BitVec 6) : (k.emptyX r).act = k.act := by unfold Ctx.emptyX; split <;> rfl
@[simp] theorem Ctx.emptyX_member (r : BitVec 6) : (k.emptyX r).member = k.member := by unfold Ctx.emptyX; split <;> rfl
@[simp] theorem Ctx.emptyX_start (r : BitVec 6) : (k.emptyX r).start = k.start := by unfold Ctx.emptyX; split <;> rfl
@[simp] theorem Ctx.emptyX_x (r : BitVec 6) : (k.emptyX r).x = k.x := by unfold Ctx.emptyX; split <;> rfl
@[simp] theorem Ctx.emptyX_v (r : BitVec 6) : (k.emptyX r).v = k.v := by unfold Ctx.emptyX; split <;> rfl
@[simp] theorem Ctx.emptyX_m (r : BitVec 6) : (k.emptyX r).m = k.m := by unfold Ctx.emptyX; split <;> rfl
@[simp] theorem Ctx.emptyX_p (r : BitVec 6) : (k.emptyX r).p = k.p := by unfold Ctx.emptyX; split <;> rfl
@[simp] theorem Ctx.emptyX_fullV (r : BitVec 6) : (k.emptyX r).fullV = k.fullV := by unfold Ctx.emptyX; split <;> rfl
@[simp] theorem Ctx.emptyX_pc (r : BitVec 6) : (k.emptyX r).pc = k.pc := by unfold Ctx.emptyX; split <;> rfl
@[simp] theorem Ctx.emptyX_slot (r : BitVec 6) : (k.emptyX r).slot = k.slot := by unfold Ctx.emptyX; split <;> rfl
@[simp] theorem Ctx.emptyX_wait (r : BitVec 6) : (k.emptyX r).wait = k.wait := by unfold Ctx.emptyX; split <;> rfl
@[simp] theorem Ctx.emptyX_pause (r : BitVec 6) : (k.emptyX r).pause = k.pause := by unfold Ctx.emptyX; split <;> rfl
@[simp] theorem Ctx.emptyX_gap (r : BitVec 6) : (k.emptyX r).gap = k.gap := by unfold Ctx.emptyX; split <;> rfl
@[simp] theorem Ctx.emptyX_busy (r : BitVec 6) : (k.emptyX r).busy = k.busy := by unfold Ctx.emptyX; split <;> rfl
@[simp] theorem Ctx.emptyX_pend (r : BitVec 6) : (k.emptyX r).pend = k.pend := by unfold Ctx.emptyX; split <;> rfl
@[simp] theorem Ctx.emptyX_vres (r : BitVec 6) : (k.emptyX r).vres = k.vres := by unfold Ctx.emptyX; split <;> rfl
@[simp] theorem Ctx.emptyX_acqHold (r : BitVec 6) : (k.emptyX r).acqHold = k.acqHold := by unfold Ctx.emptyX; split <;> rfl
@[simp] theorem Ctx.emptyX_fenceHold (r : BitVec 6) : (k.emptyX r).fenceHold = k.fenceHold := by unfold Ctx.emptyX; split <;> rfl
@[simp] theorem Ctx.emptyX_cycleHold (r : BitVec 6) : (k.emptyX r).cycleHold = k.cycleHold := by unfold Ctx.emptyX; split <;> rfl
@[simp] theorem Ctx.emptyX_heard (r : BitVec 6) : (k.emptyX r).heard = k.heard := by unfold Ctx.emptyX; split <;> rfl
@[simp] theorem Ctx.emptyX_fenceTok (r : BitVec 6) : (k.emptyX r).fenceTok = k.fenceTok := by unfold Ctx.emptyX; split <;> rfl
@[simp] theorem Ctx.emptyX_fflags (r : BitVec 6) : (k.emptyX r).fflags = k.fflags := by unfold Ctx.emptyX; split <;> rfl
@[simp] theorem Ctx.emptyX_epc (r : BitVec 6) : (k.emptyX r).epc = k.epc := by unfold Ctx.emptyX; split <;> rfl
@[simp] theorem Ctx.emptyX_enpc (r : BitVec 6) : (k.emptyX r).enpc = k.enpc := by unfold Ctx.emptyX; split <;> rfl
@[simp] theorem Ctx.emptyX_cause (r : BitVec 6) : (k.emptyX r).cause = k.cause := by unfold Ctx.emptyX; split <;> rfl
@[simp] theorem Ctx.emptyX_badaddr (r : BitVec 6) : (k.emptyX r).badaddr = k.badaddr := by unfold Ctx.emptyX; split <;> rfl
@[simp] theorem Ctx.emptyX_vlane (r : BitVec 6) : (k.emptyX r).vlane = k.vlane := by unfold Ctx.emptyX; split <;> rfl
@[simp] theorem Ctx.emptyX_denials (r : BitVec 6) : (k.emptyX r).denials = k.denials := by unfold Ctx.emptyX; split <;> rfl
@[simp] theorem Ctx.emptyX_ustep (r : BitVec 6) : (k.emptyX r).ustep = k.ustep := by unfold Ctx.emptyX; split <;> rfl
@[simp] theorem Ctx.emptyX_mxstep (r : BitVec 6) : (k.emptyX r).mxstep = k.mxstep := by unfold Ctx.emptyX; split <;> rfl
@[simp] theorem Ctx.emptyX_tcm (r : BitVec 6) : (k.emptyX r).tcm = k.tcm := by unfold Ctx.emptyX; split <;> rfl
@[simp] theorem Ctx.emptyX_sampleWait (r : BitVec 6) : (k.emptyX r).sampleWait = k.sampleWait := by unfold Ctx.emptyX; split <;> rfl
@[simp] theorem Ctx.emptyX_samples (r : BitVec 6) : (k.emptyX r).samples = k.samples := by unfold Ctx.emptyX; split <;> rfl

@[simp] theorem Ctx.put_act (w : RegWrite) : (k.put w).act = k.act := by cases w <;> simp only [Ctx.put] <;> (try split) <;> rfl
@[simp] theorem Ctx.puts_act (ws : List RegWrite) : (k.puts ws).act = k.act := by
  unfold Ctx.puts; induction ws generalizing k with
  | nil => rfl
  | cons w r ih => simp [ih]
@[simp] theorem Ctx.put_member (w : RegWrite) : (k.put w).member = k.member := by cases w <;> simp only [Ctx.put] <;> (try split) <;> rfl
@[simp] theorem Ctx.puts_member (ws : List RegWrite) : (k.puts ws).member = k.member := by
  unfold Ctx.puts; induction ws generalizing k with
  | nil => rfl
  | cons w r ih => simp [ih]
@[simp] theorem Ctx.put_start (w : RegWrite) : (k.put w).start = k.start := by cases w <;> simp only [Ctx.put] <;> (try split) <;> rfl
@[simp] theorem Ctx.puts_start (ws : List RegWrite) : (k.puts ws).start = k.start := by
  unfold Ctx.puts; induction ws generalizing k with
  | nil => rfl
  | cons w r ih => simp [ih]
@[simp] theorem Ctx.put_pc (w : RegWrite) : (k.put w).pc = k.pc := by cases w <;> simp only [Ctx.put] <;> (try split) <;> rfl
@[simp] theorem Ctx.puts_pc (ws : List RegWrite) : (k.puts ws).pc = k.pc := by
  unfold Ctx.puts; induction ws generalizing k with
  | nil => rfl
  | cons w r ih => simp [ih]
@[simp] theorem Ctx.put_slot (w : RegWrite) : (k.put w).slot = k.slot := by cases w <;> simp only [Ctx.put] <;> (try split) <;> rfl
@[simp] theorem Ctx.puts_slot (ws : List RegWrite) : (k.puts ws).slot = k.slot := by
  unfold Ctx.puts; induction ws generalizing k with
  | nil => rfl
  | cons w r ih => simp [ih]
@[simp] theorem Ctx.put_wait (w : RegWrite) : (k.put w).wait = k.wait := by cases w <;> simp only [Ctx.put] <;> (try split) <;> rfl
@[simp] theorem Ctx.puts_wait (ws : List RegWrite) : (k.puts ws).wait = k.wait := by
  unfold Ctx.puts; induction ws generalizing k with
  | nil => rfl
  | cons w r ih => simp [ih]
@[simp] theorem Ctx.put_pause (w : RegWrite) : (k.put w).pause = k.pause := by cases w <;> simp only [Ctx.put] <;> (try split) <;> rfl
@[simp] theorem Ctx.puts_pause (ws : List RegWrite) : (k.puts ws).pause = k.pause := by
  unfold Ctx.puts; induction ws generalizing k with
  | nil => rfl
  | cons w r ih => simp [ih]
@[simp] theorem Ctx.put_gap (w : RegWrite) : (k.put w).gap = k.gap := by cases w <;> simp only [Ctx.put] <;> (try split) <;> rfl
@[simp] theorem Ctx.puts_gap (ws : List RegWrite) : (k.puts ws).gap = k.gap := by
  unfold Ctx.puts; induction ws generalizing k with
  | nil => rfl
  | cons w r ih => simp [ih]
@[simp] theorem Ctx.put_busy (w : RegWrite) : (k.put w).busy = k.busy := by cases w <;> simp only [Ctx.put] <;> (try split) <;> rfl
@[simp] theorem Ctx.puts_busy (ws : List RegWrite) : (k.puts ws).busy = k.busy := by
  unfold Ctx.puts; induction ws generalizing k with
  | nil => rfl
  | cons w r ih => simp [ih]
@[simp] theorem Ctx.put_pend (w : RegWrite) : (k.put w).pend = k.pend := by cases w <;> simp only [Ctx.put] <;> (try split) <;> rfl
@[simp] theorem Ctx.puts_pend (ws : List RegWrite) : (k.puts ws).pend = k.pend := by
  unfold Ctx.puts; induction ws generalizing k with
  | nil => rfl
  | cons w r ih => simp [ih]
@[simp] theorem Ctx.put_vres (w : RegWrite) : (k.put w).vres = k.vres := by cases w <;> simp only [Ctx.put] <;> (try split) <;> rfl
@[simp] theorem Ctx.puts_vres (ws : List RegWrite) : (k.puts ws).vres = k.vres := by
  unfold Ctx.puts; induction ws generalizing k with
  | nil => rfl
  | cons w r ih => simp [ih]
@[simp] theorem Ctx.put_acqHold (w : RegWrite) : (k.put w).acqHold = k.acqHold := by cases w <;> simp only [Ctx.put] <;> (try split) <;> rfl
@[simp] theorem Ctx.puts_acqHold (ws : List RegWrite) : (k.puts ws).acqHold = k.acqHold := by
  unfold Ctx.puts; induction ws generalizing k with
  | nil => rfl
  | cons w r ih => simp [ih]
@[simp] theorem Ctx.put_fenceHold (w : RegWrite) : (k.put w).fenceHold = k.fenceHold := by cases w <;> simp only [Ctx.put] <;> (try split) <;> rfl
@[simp] theorem Ctx.puts_fenceHold (ws : List RegWrite) : (k.puts ws).fenceHold = k.fenceHold := by
  unfold Ctx.puts; induction ws generalizing k with
  | nil => rfl
  | cons w r ih => simp [ih]
@[simp] theorem Ctx.put_cycleHold (w : RegWrite) : (k.put w).cycleHold = k.cycleHold := by cases w <;> simp only [Ctx.put] <;> (try split) <;> rfl
@[simp] theorem Ctx.puts_cycleHold (ws : List RegWrite) : (k.puts ws).cycleHold = k.cycleHold := by
  unfold Ctx.puts; induction ws generalizing k with
  | nil => rfl
  | cons w r ih => simp [ih]
@[simp] theorem Ctx.put_heard (w : RegWrite) : (k.put w).heard = k.heard := by cases w <;> simp only [Ctx.put] <;> (try split) <;> rfl
@[simp] theorem Ctx.puts_heard (ws : List RegWrite) : (k.puts ws).heard = k.heard := by
  unfold Ctx.puts; induction ws generalizing k with
  | nil => rfl
  | cons w r ih => simp [ih]
@[simp] theorem Ctx.put_fenceTok (w : RegWrite) : (k.put w).fenceTok = k.fenceTok := by cases w <;> simp only [Ctx.put] <;> (try split) <;> rfl
@[simp] theorem Ctx.puts_fenceTok (ws : List RegWrite) : (k.puts ws).fenceTok = k.fenceTok := by
  unfold Ctx.puts; induction ws generalizing k with
  | nil => rfl
  | cons w r ih => simp [ih]
@[simp] theorem Ctx.put_cause (w : RegWrite) : (k.put w).cause = k.cause := by cases w <;> simp only [Ctx.put] <;> (try split) <;> rfl
@[simp] theorem Ctx.puts_cause (ws : List RegWrite) : (k.puts ws).cause = k.cause := by
  unfold Ctx.puts; induction ws generalizing k with
  | nil => rfl
  | cons w r ih => simp [ih]
@[simp] theorem Ctx.put_badaddr (w : RegWrite) : (k.put w).badaddr = k.badaddr := by cases w <;> simp only [Ctx.put] <;> (try split) <;> rfl
@[simp] theorem Ctx.puts_badaddr (ws : List RegWrite) : (k.puts ws).badaddr = k.badaddr := by
  unfold Ctx.puts; induction ws generalizing k with
  | nil => rfl
  | cons w r ih => simp [ih]
@[simp] theorem Ctx.put_vlane (w : RegWrite) : (k.put w).vlane = k.vlane := by cases w <;> simp only [Ctx.put] <;> (try split) <;> rfl
@[simp] theorem Ctx.puts_vlane (ws : List RegWrite) : (k.puts ws).vlane = k.vlane := by
  unfold Ctx.puts; induction ws generalizing k with
  | nil => rfl
  | cons w r ih => simp [ih]
@[simp] theorem Ctx.put_denials (w : RegWrite) : (k.put w).denials = k.denials := by cases w <;> simp only [Ctx.put] <;> (try split) <;> rfl
@[simp] theorem Ctx.puts_denials (ws : List RegWrite) : (k.puts ws).denials = k.denials := by
  unfold Ctx.puts; induction ws generalizing k with
  | nil => rfl
  | cons w r ih => simp [ih]
@[simp] theorem Ctx.put_ustep (w : RegWrite) : (k.put w).ustep = k.ustep := by cases w <;> simp only [Ctx.put] <;> (try split) <;> rfl
@[simp] theorem Ctx.puts_ustep (ws : List RegWrite) : (k.puts ws).ustep = k.ustep := by
  unfold Ctx.puts; induction ws generalizing k with
  | nil => rfl
  | cons w r ih => simp [ih]
@[simp] theorem Ctx.put_mxstep (w : RegWrite) : (k.put w).mxstep = k.mxstep := by cases w <;> simp only [Ctx.put] <;> (try split) <;> rfl
@[simp] theorem Ctx.puts_mxstep (ws : List RegWrite) : (k.puts ws).mxstep = k.mxstep := by
  unfold Ctx.puts; induction ws generalizing k with
  | nil => rfl
  | cons w r ih => simp [ih]
@[simp] theorem Ctx.put_tcm (w : RegWrite) : (k.put w).tcm = k.tcm := by cases w <;> simp only [Ctx.put] <;> (try split) <;> rfl
@[simp] theorem Ctx.puts_tcm (ws : List RegWrite) : (k.puts ws).tcm = k.tcm := by
  unfold Ctx.puts; induction ws generalizing k with
  | nil => rfl
  | cons w r ih => simp [ih]
@[simp] theorem Ctx.put_sampleWait (w : RegWrite) : (k.put w).sampleWait = k.sampleWait := by cases w <;> simp only [Ctx.put] <;> (try split) <;> rfl
@[simp] theorem Ctx.puts_sampleWait (ws : List RegWrite) : (k.puts ws).sampleWait = k.sampleWait := by
  unfold Ctx.puts; induction ws generalizing k with
  | nil => rfl
  | cons w r ih => simp [ih]
@[simp] theorem Ctx.put_samples (w : RegWrite) : (k.put w).samples = k.samples := by cases w <;> simp only [Ctx.put] <;> (try split) <;> rfl
@[simp] theorem Ctx.puts_samples (ws : List RegWrite) : (k.puts ws).samples = k.samples := by
  unfold Ctx.puts; induction ws generalizing k with
  | nil => rfl
  | cons w r ih => simp [ih]

end Sys2Proof.Machine
end

