-- ==== Sys2Proof/Laws/Tables.lean ====
section
/-! SUPPORT. Laws of keyed tables and of the canonical memory: read after write, what a write leaves alone, the canonical form kept. -/

namespace Sys2Proof

variable {α β : Type}

/-! ## Tables -/

@[simp] theorem Tbl.find?_nil (k : Nat) : Tbl.find? ([] : Tbl α) k = none := rfl

@[simp] theorem Tbl.find?_set_self (t : Tbl α) (k : Nat) (v : α) : (Tbl.set t k v).find? k = some v := by
  induction t with
  | nil => simp [Tbl.set, Tbl.find?]
  | cons e r ih =>
    obtain ⟨k', v'⟩ := e
    simp only [Tbl.set]
    split
    · simp [Tbl.find?]
    · split
      · simp [Tbl.find?]
      · rename_i h; simp [Tbl.find?, Ne.symm h, ih]

theorem Tbl.find?_set_of_ne (t : Tbl α) {k j : Nat} (v : α) (h : j ≠ k) : (Tbl.set t k v).find? j = t.find? j := by
  induction t with
  | nil => simp [Tbl.set, Tbl.find?, h.symm]
  | cons e r ih =>
    obtain ⟨k', v'⟩ := e
    simp only [Tbl.set]
    split
    · simp [Tbl.find?, h.symm]
    · split
      · rename_i hk; subst hk; simp [Tbl.find?, h.symm]
      · simp only [Tbl.find?, ih]

@[simp] theorem Tbl.find?_modify (t : Tbl α) (k j : Nat) (f : α → α) :
    (Tbl.modify t k f).find? j = if j = k then (t.find? j).map f else t.find? j := by
  induction t with
  | nil => simp [Tbl.modify, Tbl.find?]
  | cons e r ih =>
    obtain ⟨k', v'⟩ := e
    simp only [Tbl.modify]
    by_cases hk : k' = k
    · subst hk
      by_cases hj : k' = j
      · subst hj; simp [Tbl.find?]
      · simp [Tbl.find?, hj, Ne.symm hj]
    · rw [if_neg hk]
      by_cases hj : k' = j
      · subst hj; simp [Tbl.find?, hk]
      · simp only [Tbl.find?, if_neg hj, ih]

@[simp] theorem Tbl.find?_mapVals (t : Tbl α) (j : Nat) (f : Nat → α → β) : (Tbl.mapVals t f).find? j = (t.find? j).map (f j) := by
  induction t with
  | nil => rfl
  | cons e r ih =>
    obtain ⟨k', v'⟩ := e
    simp only [Tbl.mapVals, List.map_cons, Tbl.find?] at *
    by_cases hk : k' = j
    · subst hk; simp
    · simp only [if_neg hk]; exact ih

/-- Two changes of one entry are one change. -/
theorem Tbl.modify_modify (t : Tbl α) (k : Nat) (f g : α → α) : Tbl.modify (Tbl.modify t k f) k g = Tbl.modify t k (g ∘ f) := by
  induction t with
  | nil => rfl
  | cons e r ih =>
    obtain ⟨k', v'⟩ := e
    by_cases hk : k' = k
    · simp [Tbl.modify, hk]
    · simp [Tbl.modify, hk, ih]

/-- A change of an entry that is absent changes nothing. -/
theorem Tbl.modify_of_none (t : Tbl α) (k : Nat) (f : α → α) (h : t.find? k = none) : Tbl.modify t k f = t := by
  induction t with
  | nil => rfl
  | cons e r ih =>
    obtain ⟨k', v'⟩ := e
    by_cases hk : k' = k
    · simp [Tbl.find?, hk] at h
    · simp only [Tbl.find?, if_neg hk] at h
      simp [Tbl.modify, hk, ih h]

namespace Machine

/-! ## Bytes and numbers -/

@[simp] theorem bytesOf_length (n v : Nat) : (bytesOf n v).length = n := by
  induction n generalizing v with
  | zero => rfl
  | succ k ih => simp [bytesOf, ih]

/-- The number that the n low bytes of a number spell is the number modulo 256 to the n. -/
theorem numOf_bytesOf (n v : Nat) : numOf (bytesOf n v) = v % 256 ^ n := by
  induction n generalizing v with
  | zero => simp [bytesOf, numOf, Nat.mod_one]
  | succ k ih =>
    simp only [bytesOf, numOf, ih, BitVec.toNat_ofNat]
    have h : (256 : Nat) ^ (k + 1) = 256 * 256 ^ k := by rw [Nat.pow_succ, Nat.mul_comm]
    rw [h, Nat.mod_mul]

/-! ## The canonical memory -/

/-- A lower bound may be lowered. -/
theorem Mem.above_none {lo : Option Nat} {m : Mem} (h : Mem.above lo m = true) : Mem.above none m = true := by
  cases m with
  | nil => rfl
  | cons e r => obtain ⟨a, b⟩ := e; simp_all [Mem.above]

theorem Mem.above_of_le {a c : Nat} {m : Mem} (hac : a ≤ c) (h : Mem.above (some c) m = true) : Mem.above (some a) m = true := by
  cases m with
  | nil => rfl
  | cons e r =>
    obtain ⟨x, b⟩ := e
    simp only [Mem.above, Bool.and_eq_true, decide_eq_true_eq] at *
    exact ⟨⟨by omega, h.1.2⟩, h.2⟩

/-- An address below everything listed reads as an unlisted one. -/
theorem Mem.get_of_above {m : Mem} {lo a : Nat} (h : Mem.above (some lo) m = true) (ha : a ≤ lo) : m.get a = unlisted := by
  induction m generalizing lo with
  | nil => rfl
  | cons e r ih =>
    obtain ⟨x, b⟩ := e
    simp only [Mem.above, Bool.and_eq_true, decide_eq_true_eq] at h
    have hx : x ≠ a := by omega
    simp only [Mem.get, if_neg hx]
    exact ih h.2 (by omega)

/-- A byte written reads back, whatever was there. -/
@[simp] theorem Mem.get_set_self (m : Mem) (a : Nat) (b : Byte) (h : m.wf = true) : (m.set a b).get a = b := by
  suffices ∀ lo, Mem.above lo m = true → (m.set a b).get a = b from this none h
  clear h
  induction m with
  | nil => intro _ _; simp only [Mem.set]; split <;> simp_all [Mem.get]
  | cons e r ih =>
    obtain ⟨x, y⟩ := e
    intro lo h
    simp only [Mem.above, Bool.and_eq_true, decide_eq_true_eq] at h
    simp only [Mem.set]
    split
    · rename_i hlt
      split
      · rename_i hb
        have hx : x ≠ a := by omega
        simp only [Mem.get, if_neg hx, hb]
        exact Mem.get_of_above h.2 (by omega)
      · simp [Mem.get]
    · split
      · rename_i heq
        subst heq
        split
        · rename_i hb; rw [hb]; exact Mem.get_of_above h.2 (by omega)
        · simp [Mem.get]
      · rename_i hne
        simp only [Mem.get, if_neg (Ne.symm hne)]
        exact ih _ h.2

/-- A write leaves every other byte. -/
theorem Mem.get_set_of_ne (m : Mem) {a c : Nat} (b : Byte) (h : c ≠ a) : (m.set a b).get c = m.get c := by
  induction m with
  | nil => simp only [Mem.set]; split <;> simp [Mem.get, h.symm]
  | cons e r ih =>
    obtain ⟨x, y⟩ := e
    simp only [Mem.set]
    split
    · split <;> simp [Mem.get, h.symm]
    · split
      · rename_i heq; subst heq
        split <;> simp [Mem.get, h.symm]
      · simp only [Mem.get, ih]

/-- A write of one byte keeps the canonical form. -/
theorem Mem.wf_set (m : Mem) (a : Nat) (b : Byte) (h : m.wf = true) : (m.set a b).wf = true := by
  suffices ∀ lo, (∀ l, lo = some l → l < a) → Mem.above lo m = true → Mem.above lo (m.set a b) = true from
    this none (by simp) h
  clear h
  induction m with
  | nil =>
    intro lo hlo _
    simp only [Mem.set]
    split
    · rfl
    · cases lo <;> simp_all [Mem.above]
  | cons e r ih =>
    obtain ⟨x, y⟩ := e
    intro lo hlo h
    have h0 := h
    simp only [Mem.above, Bool.and_eq_true, decide_eq_true_eq] at h
    simp only [Mem.set]
    split
    · split
      · exact h0
      · rename_i hlt hb
        cases lo with
        | none => simp_all [Mem.above]
        | some l => simp only [Mem.above, Bool.and_eq_true, decide_eq_true_eq]; exact ⟨⟨hlo l rfl, hb⟩, ⟨hlt, h.1.2⟩, h.2⟩
    · split
      · rename_i heq; subst heq
        split
        · cases lo with
          | none => exact Mem.above_none h.2
          | some l => exact Mem.above_of_le (Nat.le_of_lt (hlo l rfl)) h.2
        · rename_i hb
          simp only [Mem.above, Bool.and_eq_true, decide_eq_true_eq]
          exact ⟨⟨h.1.1, hb⟩, h.2⟩
      · rename_i h1 h2
        simp only [Mem.above, Bool.and_eq_true, decide_eq_true_eq]
        exact ⟨h.1, ih (some x) (by intro l hl; cases hl; omega) h.2⟩

theorem Mem.wf_write (bs : List Byte) (m : Mem) (a : Nat) (h : m.wf = true) : (m.write a bs).wf = true := by
  induction bs generalizing m a with
  | nil => exact h
  | cons b r ih => exact ih _ _ (Mem.wf_set _ _ _ h)

theorem Mem.wf_setNum (m : Mem) (a n v : Nat) (h : m.wf = true) : (m.setNum a n v).wf = true := Mem.wf_write _ _ _ h

/-- A filtered memory is canonical. -/
theorem Mem.wf_filter (m : Mem) (f : Host.Cell → Bool) (h : m.wf = true) : Mem.wf (m.filter f) = true := by
  suffices ∀ lo, Mem.above lo m = true → Mem.above lo (m.filter f) = true from this none h
  clear h
  induction m with
  | nil => intro _ _; rfl
  | cons e r ih =>
    obtain ⟨x, y⟩ := e
    intro lo h
    simp only [Mem.above, Bool.and_eq_true, decide_eq_true_eq] at h
    simp only [List.filter_cons]
    split
    · simp only [Mem.above, Bool.and_eq_true, decide_eq_true_eq]
      exact ⟨h.1, ih _ h.2⟩
    · cases lo with
      | none => exact Mem.above_none (ih _ h.2)
      | some l =>
        have : l < x := by simpa using h.1.1
        exact Mem.above_of_le (Nat.le_of_lt this) (ih _ h.2)

theorem Mem.wf_clear (m : Mem) (a n : Nat) (h : m.wf = true) : (m.clear a n).wf = true := Mem.wf_filter _ _ h

theorem Mem.wf_copy (m : Mem) (dst src n : Nat) (h : m.wf = true) : (m.copy dst src n).wf = true := by
  simp only [Mem.copy]
  generalize ((m.filter fun c => decide (src ≤ c.1) && decide (c.1 < src + n)).map fun c => (c.1 - src + dst, c.2)) = cells
  have h0 : (m.clear dst n).wf = true := Mem.wf_clear _ _ _ h
  revert h0
  generalize m.clear dst n = q
  intro h0
  induction cells generalizing q with
  | nil => exact h0
  | cons e r ih => exact ih _ (Mem.wf_set _ _ _ h0)

/-- A write leaves every byte outside it. -/
theorem Mem.get_write_outside (bs : List Byte) (m : Mem) (a c : Nat) (h : c < a ∨ a + bs.length ≤ c) : (m.write a bs).get c = m.get c := by
  induction bs generalizing m a with
  | nil => rfl
  | cons b r ih =>
    simp only [List.length_cons] at h
    simp only [Mem.write]
    rw [ih _ _ (by omega), Mem.get_set_of_ne _ _ (by omega)]

theorem Mem.get_setNum_outside (m : Mem) (a n v c : Nat) (h : c < a ∨ a + n ≤ c) : (m.setNum a n v).get c = m.get c :=
  Mem.get_write_outside _ _ _ _ (by simpa using h)

/-- Bytes written read back in order. -/
theorem Mem.read_write (bs : List Byte) (m : Mem) (a : Nat) (h : m.wf = true) : (m.write a bs).read a bs.length = bs := by
  induction bs generalizing m a with
  | nil => rfl
  | cons b r ih =>
    have hs := Mem.wf_set m a b h
    simp only [List.length_cons, Mem.read, Mem.write]
    rw [ih _ _ hs, Mem.get_write_outside r _ _ _ (by omega), Mem.get_set_self _ _ _ h]

theorem numOf_read (m : Mem) (a n : Nat) : numOf (m.read a n) = m.num a n := by
  induction n generalizing a with
  | zero => rfl
  | succ k ih => simp [Mem.read, numOf, Mem.num, ih]

/-- A number written reads back modulo its width. -/
theorem Mem.num_setNum (m : Mem) (a n v : Nat) (h : m.wf = true) : (m.setNum a n v).num a n = v % 256 ^ n := by
  rw [← numOf_read, Mem.setNum]
  have := Mem.read_write (bytesOf n v) m a h
  rw [bytesOf_length] at this
  rw [this, numOf_bytesOf]

/-- Reading elsewhere is not changed by a write. -/
theorem Mem.num_congr (m q : Mem) (a n : Nat) (h : ∀ c, a ≤ c → c < a + n → m.get c = q.get c) : m.num a n = q.num a n := by
  induction n generalizing a with
  | zero => rfl
  | succ k ih =>
    simp only [Mem.num]
    rw [h a (by omega) (by omega), ih (a + 1) fun c h1 h2 => h c (by omega) (by omega)]

end Machine

end Sys2Proof
end

