-- ==== Sys2Proof/Laws/Issue.lean ====
section
/-! SUPPORT. What issuing an instruction does, said once for every instruction: the body runs on the charged state, and charging, results
and the PC's advance change the issuing context and its core's counters only. -/

namespace Sys2Proof

open Machine

/-- The body of an instruction that is ready runs on the charged state. -/
theorem issue_ready {m : Mods} {n : Need} {ctl : Ctl} {s : State} {body : Nat → Ctx → State → State} {c : Nat} {k : Ctx}
    (hc : s.cur = some c) (hk : s.ctxs.find? c = some k) (he : s.eligible c k n = true) (hs : ctl = .none ∨ k.slot = none)
    (hg : k.pr m.guard ≠ m.sense) (hm : k.emptyInfo n = none) :
    issue m n ctl s body = .next (body c k (s.charge c m.gap.toNat m.sw)) := by
  have hb : (ctl != .none && k.slot.isSome) = false := by
    rcases hs with h | h <;> simp [h]
  simp [issue, hc, hk, he, hb, hg, hm]

/-- A context that is not eligible waits. -/
theorem issue_waits {m : Mods} {n : Need} {ctl : Ctl} {s : State} {body : Nat → Ctx → State → State} {c : Nat} {k : Ctx}
    (hc : s.cur = some c) (hk : s.ctxs.find? c = some k) (he : s.eligible c k n = false) :
    issue m n ctl s body = .next s := by
  simp [issue, hc, hk, he]

/-- Whatever happens, an instruction of a placed context answers a next state. -/
theorem issue_next {m : Mods} {n : Need} {ctl : Ctl} {s : State} {body : Nat → Ctx → State → State} {c : Nat} {k : Ctx}
    (hc : s.cur = some c) (hk : s.ctxs.find? c = some k) : ∃ t, issue m n ctl s body = .next t := by
  simp only [issue, hc, hk]
  repeat' split
  all_goals exact ⟨_, rfl⟩

@[simp] theorem find?_modCtx (s : State) (c d : Nat) (f : Ctx → Ctx) :
    (s.modCtx c f).ctxs.find? d = if d = c then (s.ctxs.find? d).map f else s.ctxs.find? d := by
  simp [State.modCtx]

/-! ## Only one context changes -/

theorem OnlyContext.refl (c : Nat) (s : State) : OnlyContext c s s := ⟨rfl, fun _ _ => rfl, fun _ _ => rfl⟩

theorem OnlyContext.trans {c : Nat} {s t u : State} (h : OnlyContext c s t) (g : OnlyContext c t u) : OnlyContext c s u := by
  obtain ⟨h1, h2, h3⟩ := h
  obtain ⟨g1, g2, g3⟩ := g
  refine ⟨?_, fun d hd => (g2 d hd).trans (h2 d hd), fun n hn => (g3 n hn).trans (h3 n hn)⟩
  rw [g1, h1]

theorem onlyContext_modCtx (s : State) (c : Nat) (f : Ctx → Ctx) : OnlyContext c s (s.modCtx c f) :=
  ⟨rfl, fun d hd => by simp [hd], fun _ _ => rfl⟩

theorem core_setCore_of_ne (s : State) {n j : Nat} (k : Core) (h : j ≠ n) : (s.setCore n k).core j = s.core j := by
  simp only [State.core, State.setCore, Tbl.get, Tbl.find?_set_of_ne _ _ h]
  rfl

theorem onlyContext_setCore (s : State) (c : Nat) (k : Core) : OnlyContext c s (s.setCore (coreOf c) k) :=
  ⟨rfl, fun _ _ => rfl, fun _ hn => core_setCore_of_ne s k hn⟩

/-- Charging an issue touches the context and its core's counters. -/
theorem onlyContext_charge (s : State) (c gap : Nat) (sw : Bool) : OnlyContext c s (s.charge c gap sw) := by
  unfold State.charge
  split
  · exact .refl c s
  · have h : OnlyContext c s ((s.modCtx c fun k => { k with gap := gap }).setCore (coreOf c)
        { (s.core (coreOf c)).bump 1 1 with
          issued := (s.core (coreOf c)).issued + 1, waits := setAt (s.core (coreOf c)).waits (c % 8) 0
          marks := setBit (s.core (coreOf c)).marks (c % 8) sw }) :=
      (onlyContext_modCtx s c _).trans (onlyContext_setCore _ c _)
    dsimp only
    split
    · exact h
    · split
      · exact h.trans (onlyContext_modCtx _ c _)
      · exact h

/-- What charging leaves of the context; its wait and mark stand in its core. -/
theorem charge_ctx {s : State} {c : Nat} {k : Ctx} (hk : s.ctxs.find? c = some k) (gap : Nat) (sw : Bool) :
    ∃ smp, (s.charge c gap sw).ctxs.find? c = some { k with gap := gap, samples := smp } := by
  unfold State.charge
  simp only [hk]
  split
  · exact ⟨k.samples, by simp [State.setCore, State.modCtx, hk]⟩
  · split
    · exact ⟨_, by simp [State.setCore, State.modCtx, hk, Ctx.addSample]; rfl⟩
    · exact ⟨k.samples, by simp [State.setCore, State.modCtx, hk]⟩

/-- A fixed-latency result and the advance of the PC touch the context alone. -/
theorem onlyContext_done (s : State) (c L : Nat) (ws : List RegWrite) : OnlyContext c s (s.done c L ws) :=
  (onlyContext_modCtx s c _).trans (onlyContext_modCtx _ c _)

/-- What they leave of it. -/
theorem done_ctx {s : State} {c : Nat} {k : Ctx} (hk : s.ctxs.find? c = some k) (L : Nat) (ws : List RegWrite) :
    (s.done c L ws).ctxs.find? c =
      some { k with pend := k.pend ++ [⟨s.clock + L - 1, ws⟩], pc := k.nextPc, slot := none } := by
  simp [State.done, State.result, State.advance, State.modCtx, hk, Ctx.advance, Ctx.nextPc]

@[simp] theorem charge_clock (s : State) (c gap : Nat) (sw : Bool) : (s.charge c gap sw).clock = s.clock := by
  rw [(onlyContext_charge s c gap sw).1]

end Sys2Proof
end

