-- ==== Sys2Proof/Laws/Dispatch.lean ====
section
/-! SUPPORT. Every instruction that has operands is performed by `issue` on what it asks for: the one fact about all of them from which
waiting, guards and traps of the frame follow. -/

namespace Sys2Proof

open Machine


set_option maxHeartbeats 4000000 in
/-- An instruction that asks for m, n and ctl issues with them (R150). -/
theorem exec_issue {i : Instr} {m : Mods} {n : Need} {ctl : Ctl} (h : i.asks = some (m, n, ctl)) (s : State) :
    ∃ body, exec i s = issue m n ctl s body := by
  cases i <;> simp only [Instr.asks, Option.some.injEq, Prod.mk.injEq, reduceCtorEq] at h
  all_goals obtain ⟨rfl, rfl, rfl⟩ := h

  all_goals simp only [exec, execAdd, execSub, execAnd, execOr, execXor, execAndn, execOrn, execShl, execShr, execSra, execRol,
    execRor, execMin, execMax, execMinu, execMaxu, execSel, execMov, execMul, execMulh, execMulhu, execDiv, execDivu, execRem,
    execRemu, execClz, execCtz, execPopc, execBswap, execAddi, execAndi, execOri, execXori, execShli, execShri, execSrai, execLi,
    execLih, execLea, execCmpEq, execCmpNe, execCmpLt, execCmpLe, execCmpLtu, execCmpLeu, execCmpEqImm, execCmpNeImm,
    execCmpLtImm, execCmpLeImm, execCmpLtuImm, execCmpLeuImm, execPand, execPor, execPxor, execPnot, execBr, execJmp, execCall,
    execCallx, execRet, execBrtagSet, execBrtagClr, execBrtagErr, execLoop, execFaddF32, execFsubF32, execFmulF32, execFmaF32,
    execFmsF32, execFnmaF32, execFdivF32, execFsqrtF32, execFminF32, execFmaxF32, execFabsF32, execFnegF32, execFcmpEqF32,
    execFcmpLtF32, execFcmpLeF32, execFcmpUnF32, execFclsF32, execCvt, execVaddI32, execVsubI32, execVmulI32, execVmulhI32,
    execVmulhUi32, execVminI32, execVmaxI32, execVminUi32, execVmaxUi32, execVabsI32, execVnegI32, execVaddF32, execVsubF32,
    execVmulF32, execVfmaF32, execVfmsF32, execVminF32, execVmaxF32, execVabsF32, execVnegF32, execVand, execVor, execVxor,
    execVandn, execVshl, execVshr, execVsra, execVcmpEqI32, execVcmpNeI32, execVcmpLtI32, execVcmpLeI32, execVcmpLtUi32,
    execVcmpLeUi32, execVcmpEqF32, execVcmpLtF32, execVcmpLeF32, execVcmpUnF32, execVsel, execVsplat, execVsplatI, execVmov,
    execVext, execVins, execVperm, execVshufl, execVrot, execVredaddI32, execVredaddF32, execVredminI32, execVredminUi32,
    execVredminF32, execVredmaxI32, execVredmaxUi32, execVredmaxF32, execVcvtLf8, execVdotLf8, execVscanAddI32, execVscanAddF32, execVscanMinI32,
    execVscanMinUi32, execVscanMinF32, execVscanMaxI32, execVscanMaxUi32, execVscanMaxF32, execMand, execMor, execMxor, execMnot,
    execMpop, execMfirst, execMset, execM2pAny, execM2pAll, execVcvt, execVld, execVst, execVlds, execVsts, execVgather,
    execVscatter, execVldUnpTf6, execVldUnpI4, execVldUnpUi4, execVstPkTf6, execVstPkI4, execVstPkUi4, execLdI8, execLdUi8,
    execLdI16, execLdUi16, execLdI32, execLdUi32, execLd64, execSt8, execSt16, execSt32, execSt64, execPref, execLdAcq, execStRel,
    execAmoAdd, execAmoAnd, execAmoOr, execAmoXor, execAmoMin, execAmoMax, execAmoMinu, execAmoMaxu, execAmoSwap, execAmoCas,
    execAmoFaddF32, execFenceThr, execFenceGang, execFenceDev, execFenceXd, execBarArrive, execBarWait, execBarSync, execBarJoin,
    execBarLeave, execBarMissing, execTagWaitAny, execTagWaitAll, execTagWaitAnyXd, execTagWaitAllXd, execTagFirst, execTagTest,
    execTagClr, execCp, execCpDec, execCpFill, execCpFabRd, execCpFabWr, execCpFabRed, execCpFabSig, execCpSub, execCpSlot,
    execCpUnsub, execMxCtx, execMxCtxSt, execMxZero, execMxMm, execMxMms, execMxConv, execMxGmm, execMxLd, execMxSt, execMxPri,
    execSnd, execSndp, execSpawn, execLink, execUnlink, execMon, execDemon, execExit, execKill, execExitmail, execRetire,
    execTxnAbort, execTxnAbortDrop, execTxnExcl, execRdsr, execWrsr, execTrap, execEret, execEretRe, execEbreak, execPark,
    execIcinv, execIcinvAll, execTlbinv, execTlbinvAll, opInv, opBrtag, op1, opImm, opShift, opDiv, opCmp, opCmpImm, opP, opF3,
    opF1, opFcmp, vop1, vfop, vfop3, vfcmp, vscan, mop, vpk]
  all_goals exact ⟨_, rfl⟩

end Sys2Proof
end

