-- ==== Sys2Proof/Laws/PerInstr.lean ====
section
/-! SUPPORT. Decoding the word of an instruction gives the instruction back: the facts about fields, one lemma per operand shape, one
lemma per constructor. -/

set_option linter.unusedSimpArgs false
set_option linter.unusedTactic false
set_option linter.unreachableTactic false

namespace Sys2Proof

/-! ## Fields of appended bit vectors -/

theorem extract_append_hi {n m : Nat} (x : BitVec n) (y : BitVec m) (s l : Nat) (h : m ≤ s) :
    (x ++ y).extractLsb' s l = x.extractLsb' (s - m) l := by
  apply BitVec.eq_of_getLsbD_eq
  intro i hi
  have h1 : ¬ s + i < m := by omega
  have h2 : s + i - m = s - m + i := by omega
  simp [BitVec.getLsbD_extractLsb', BitVec.getLsbD_append, h1, h2]
theorem extract_append_lo {n m : Nat} (x : BitVec n) (y : BitVec m) (s l : Nat) (h : s + l ≤ m) :
    (x ++ y).extractLsb' s l = y.extractLsb' s l := by
  apply BitVec.eq_of_getLsbD_eq
  intro i hi
  have h1 : s + i < m := by omega
  simp [BitVec.getLsbD_extractLsb', BitVec.getLsbD_append, h1]
theorem getLsbD_append_hi {n m : Nat} (x : BitVec n) (y : BitVec m) (s : Nat) (h : m ≤ s) :
    (x ++ y).getLsbD s = x.getLsbD (s - m) := by simp [BitVec.getLsbD_append, Nat.not_lt.2 h]
theorem getLsbD_append_lo {n m : Nat} (x : BitVec n) (y : BitVec m) (s : Nat) (h : s < m) :
    (x ++ y).getLsbD s = y.getLsbD s := by simp [BitVec.getLsbD_append, h]
theorem extract_all {n : Nat} (x : BitVec n) : x.extractLsb' 0 n = x := by simp
theorem getLsbD_ofBool_zero (b : Bool) : (BitVec.ofBool b).getLsbD 0 = b := by cases b <;> rfl
theorem extract_lo {n m : Nat} (x : BitVec n) (y : BitVec m) : (x ++ y).extractLsb' 0 m = y :=
  (extract_append_lo _ _ _ _ (by omega)).trans (extract_all _)

/-! ## The fields of a word -/

theorem word_major (maj fn a b c : BitVec 8) (m : Mods) (imm : BitVec 32) :
    (word maj fn a b c m imm).extractLsb' 88 8 = maj := by
  unfold word
  repeat first
    | exact extract_all _
    | exact (extract_append_lo _ _ _ _ (by decide)).trans (extract_all _)
    | refine (extract_append_hi _ _ _ _ (by decide)).trans ?_
theorem word_function (maj fn a b c : BitVec 8) (m : Mods) (imm : BitVec 32) :
    (word maj fn a b c m imm).extractLsb' 80 8 = fn := by
  unfold word
  repeat first
    | exact extract_all _
    | exact (extract_append_lo _ _ _ _ (by decide)).trans (extract_all _)
    | refine (extract_append_hi _ _ _ _ (by decide)).trans ?_
theorem word_a (maj fn a b c : BitVec 8) (m : Mods) (imm : BitVec 32) :
    (word maj fn a b c m imm).extractLsb' 72 8 = a := by
  unfold word
  repeat first
    | exact extract_all _
    | exact (extract_append_lo _ _ _ _ (by decide)).trans (extract_all _)
    | refine (extract_append_hi _ _ _ _ (by decide)).trans ?_
theorem word_b (maj fn a b c : BitVec 8) (m : Mods) (imm : BitVec 32) :
    (word maj fn a b c m imm).extractLsb' 64 8 = b := by
  unfold word
  repeat first
    | exact extract_all _
    | exact (extract_append_lo _ _ _ _ (by decide)).trans (extract_all _)
    | refine (extract_append_hi _ _ _ _ (by decide)).trans ?_
theorem word_c (maj fn a b c : BitVec 8) (m : Mods) (imm : BitVec 32) :
    (word maj fn a b c m imm).extractLsb' 56 8 = c := by
  unfold word
  repeat first
    | exact extract_all _
    | exact (extract_append_lo _ _ _ _ (by decide)).trans (extract_all _)
    | refine (extract_append_hi _ _ _ _ (by decide)).trans ?_
theorem word_guard (maj fn a b c : BitVec 8) (m : Mods) (imm : BitVec 32) :
    (word maj fn a b c m imm).extractLsb' 52 4 = m.guard := by
  unfold word
  repeat first
    | exact extract_all _
    | exact (extract_append_lo _ _ _ _ (by decide)).trans (extract_all _)
    | refine (extract_append_hi _ _ _ _ (by decide)).trans ?_
theorem word_imm (maj fn a b c : BitVec 8) (m : Mods) (imm : BitVec 32) :
    (word maj fn a b c m imm).extractLsb' 16 32 = imm := by
  unfold word
  repeat first
    | exact extract_all _
    | exact (extract_append_lo _ _ _ _ (by decide)).trans (extract_all _)
    | refine (extract_append_hi _ _ _ _ (by decide)).trans ?_
theorem word_gap (maj fn a b c : BitVec 8) (m : Mods) (imm : BitVec 32) :
    (word maj fn a b c m imm).extractLsb' 12 4 = m.gap := by
  unfold word
  repeat first
    | exact extract_all _
    | exact (extract_append_lo _ _ _ _ (by decide)).trans (extract_all _)
    | refine (extract_append_hi _ _ _ _ (by decide)).trans ?_
theorem word_hint (maj fn a b c : BitVec 8) (m : Mods) (imm : BitVec 32) :
    (word maj fn a b c m imm).extractLsb' 0 11 = m.hint := by
  unfold word
  repeat first
    | exact extract_all _
    | exact (extract_append_lo _ _ _ _ (by decide)).trans (extract_all _)
    | refine (extract_append_hi _ _ _ _ (by decide)).trans ?_
theorem word_sense (maj fn a b c : BitVec 8) (m : Mods) (imm : BitVec 32) :
    (word maj fn a b c m imm).getLsbD 51 = m.sense := by
  unfold word
  repeat first
    | exact getLsbD_ofBool_zero _
    | exact (getLsbD_append_lo _ _ _ (by decide)).trans (getLsbD_ofBool_zero _)
    | refine (getLsbD_append_hi _ _ _ (by decide)).trans ?_
theorem word_eaB (maj fn a b c : BitVec 8) (m : Mods) (imm : BitVec 32) :
    (word maj fn a b c m imm).getLsbD 50 = m.eaB := by
  unfold word
  repeat first
    | exact getLsbD_ofBool_zero _
    | exact (getLsbD_append_lo _ _ _ (by decide)).trans (getLsbD_ofBool_zero _)
    | refine (getLsbD_append_hi _ _ _ (by decide)).trans ?_
theorem word_eaC (maj fn a b c : BitVec 8) (m : Mods) (imm : BitVec 32) :
    (word maj fn a b c m imm).getLsbD 49 = m.eaC := by
  unfold word
  repeat first
    | exact getLsbD_ofBool_zero _
    | exact (getLsbD_append_lo _ _ _ (by decide)).trans (getLsbD_ofBool_zero _)
    | refine (getLsbD_append_hi _ _ _ (by decide)).trans ?_
theorem word_sw (maj fn a b c : BitVec 8) (m : Mods) (imm : BitVec 32) :
    (word maj fn a b c m imm).getLsbD 11 = m.sw := by
  unfold word
  repeat first
    | exact getLsbD_ofBool_zero _
    | exact (getLsbD_append_lo _ _ _ (by decide)).trans (getLsbD_ofBool_zero _)
    | refine (getLsbD_append_hi _ _ _ (by decide)).trans ?_
theorem word_escape (maj fn a b c : BitVec 8) (m : Mods) (imm : BitVec 32) :
    (word maj fn a b c m imm).getLsbD 48 = false := by
  unfold word
  repeat first
    | exact (getLsbD_append_lo _ _ _ (by decide)).trans (by decide)
    | refine (getLsbD_append_hi _ _ _ (by decide)).trans ?_
theorem fieldsOf_word (maj fn a b c : BitVec 8) (m : Mods) (imm : BitVec 32) :
    fieldsOf (word maj fn a b c m imm) = ⟨a, b, c, m, imm⟩ := by
  simp only [fieldsOf, word_a, word_b, word_c, word_guard, word_sense, word_eaB, word_eaC, word_gap, word_sw, word_hint, word_imm]
/-- A word of an assigned pair whose operands are accepted decodes to its instruction (R150). -/
theorem decode_word {maj fn a b c : BitVec 8} {m : Mods} {imm : BitVec 32} {i : Instr} (h : maj.toNat < 0xF0)
    (hd : decodeMajor maj.toNat fn.toNat ⟨a, b, c, m, imm⟩ = some (some i)) :
    decode (word maj fn a b c m imm) = .ok i := by
  simp only [decode, word_major, word_function, word_escape, fieldsOf_word, hd, if_neg (Nat.not_le.2 h)]
  simp

/-! ## Operand bytes and parts of imm32 -/

@[simp] theorem xReg_xByte (r : BitVec 6) : xReg (xByte r) = some r := by revert r; decide
@[simp] theorem vReg_vByte (r : BitVec 5) : vReg (vByte r) = some r := by revert r; decide
@[simp] theorem pReg_pByte (r : BitVec 4) : pReg (pByte r) = some r := by revert r; decide
@[simp] theorem mReg_mByte (r : BitVec 3) : mReg (mByte r) = some r := by revert r; decide
@[simp] theorem tileName_aByte (r : BitVec 1) : tileName (aByte r) = some r := by revert r; decide
@[simp] theorem unused_noByte : unused noByte = some () := rfl
theorem vReg_xByte (r : BitVec 6) : vReg (xByte r) = none := by revert r; decide
@[simp] theorem vxReg_vxByte (c : VX) : vxReg (vxByte c) = some c := by
  cases c <;> simp [vxReg, vxByte, vReg_xByte]
theorem vxReg_vByte (r : BitVec 5) : vxReg (vByte r) = some (.v r) := vxReg_vxByte (.v r)
theorem vxReg_xByte (r : BitVec 6) : vxReg (xByte r) = some (.x r) := vxReg_vxByte (.x r)
theorem vByte_ne (r : BitVec 5) : vByte r ≠ 0xFF := by revert r; decide
theorem xByte_ne (r : BitVec 6) : xByte r ≠ 0xFF := by revert r; decide
theorem zeroBits_of {i : BitVec 32} {lo len : Nat} (h : i.extractLsb' lo len = 0) : zeroBits i lo len = some () := if_pos h
@[simp] theorem zeroBits_zero (lo len : Nat) : zeroBits (0 : BitVec 32) lo len = some () :=
  zeroBits_of (by simp)
/-- The mask control byte reads back, whatever stands above it (R200). -/
theorem maskOf_enc (k : VMask) (u : BitVec 24) : maskOf (u ++ k.enc) = some k := by
  have e (s l : Nat) (h : s + l ≤ 8) : BitVec.extractLsb' s l (u ++ k.enc) = k.enc.extractLsb' s l :=
    extract_append_lo u k.enc s l h
  have g (s : Nat) (h : s < 8) : BitVec.getLsbD (u ++ k.enc) s = k.enc.getLsbD s := getLsbD_append_lo u k.enc s h
  have r : maskOf (u ++ k.enc) = maskOf (0#24 ++ k.enc) := by
    have e0 (s l : Nat) (h : s + l ≤ 8) : BitVec.extractLsb' s l (0#24 ++ k.enc) = k.enc.extractLsb' s l :=
      extract_append_lo _ k.enc s l h
    have g0 (s : Nat) (h : s < 8) : BitVec.getLsbD (0#24 ++ k.enc) s = k.enc.getLsbD s := getLsbD_append_lo _ k.enc s h
    simp only [maskOf, e 3 3 (by decide), e 0 3 (by decide), e 0 7 (by decide), g 7 (by decide), g 6 (by decide),
      e0 3 3 (by decide), e0 0 3 (by decide), e0 0 7 (by decide), g0 7 (by decide), g0 6 (by decide)]
  rw [r]
  cases k with
  | all => decide
  | on zi sel =>
    clear r e g
    revert zi sel
    decide

/-! ## One lemma per operand shape -/

theorem dec_xXX (o : XXX) : Fields.xXX ⟨xByte o.a, xByte o.b, xByte o.c, o.m, 0⟩ = some o := by
  simp only [Fields.xXX, xReg_xByte, vReg_vByte, pReg_pByte, mReg_mByte, tileName_aByte, unused_noByte, vxReg_vxByte, vxReg_vByte, vxReg_xByte, zeroBits_zero, Option.bind_eq_bind, Option.bind_some, Option.pure_def, Option.map_some]
theorem dec_selOp (o : SelOp) : Fields.selOp ⟨xByte o.a, xByte o.b, xByte o.c, o.m, 0#28 ++ o.p⟩ = some o := by
  have h0 : zeroBits (0#28 ++ o.p) 4 28 = some () := by
    refine zeroBits_of ?_
    repeat first
      | exact extract_all _
      | decide
      | exact (extract_append_lo _ _ _ _ (by decide)).trans (extract_all _)
      | refine (extract_append_hi _ _ _ _ (by decide)).trans ?_
      | refine (extract_append_lo _ _ _ _ (by decide)).trans ?_
  have h1 : BitVec.extractLsb' 0 4 (0#28 ++ o.p) = o.p := by
    repeat first
      | exact extract_all _
      | decide
      | exact (extract_append_lo _ _ _ _ (by decide)).trans (extract_all _)
      | refine (extract_append_hi _ _ _ _ (by decide)).trans ?_
      | refine (extract_append_lo _ _ _ _ (by decide)).trans ?_
  simp only [Fields.selOp, xReg_xByte, vReg_vByte, pReg_pByte, mReg_mByte, tileName_aByte, unused_noByte, vxReg_vxByte, vxReg_vByte, vxReg_xByte, zeroBits_zero, Option.bind_eq_bind, Option.bind_some, Option.pure_def, Option.map_some, h0, h1]
theorem dec_xX (o : XX) : Fields.xX ⟨xByte o.a, xByte o.b, noByte, o.m, 0⟩ = some o := by
  simp only [Fields.xX, xReg_xByte, vReg_vByte, pReg_pByte, mReg_mByte, tileName_aByte, unused_noByte, vxReg_vxByte, vxReg_vByte, vxReg_xByte, zeroBits_zero, Option.bind_eq_bind, Option.bind_some, Option.pure_def, Option.map_some]
theorem dec_xXImm (o : XXImm) : Fields.xXImm ⟨xByte o.a, xByte o.b, noByte, o.m, o.imm⟩ = some o := by
  simp only [Fields.xXImm, xReg_xByte, vReg_vByte, pReg_pByte, mReg_mByte, tileName_aByte, unused_noByte, vxReg_vxByte, vxReg_vByte, vxReg_xByte, zeroBits_zero, Option.bind_eq_bind, Option.bind_some, Option.pure_def, Option.map_some]
theorem dec_xXSh (o : XXSh) : Fields.xXSh ⟨xByte o.a, xByte o.b, noByte, o.m, 0#26 ++ o.n⟩ = some o := by
  have h0 : zeroBits (0#26 ++ o.n) 6 26 = some () := by
    refine zeroBits_of ?_
    repeat first
      | exact extract_all _
      | decide
      | exact (extract_append_lo _ _ _ _ (by decide)).trans (extract_all _)
      | refine (extract_append_hi _ _ _ _ (by decide)).trans ?_
      | refine (extract_append_lo _ _ _ _ (by decide)).trans ?_
  have h1 : BitVec.extractLsb' 0 6 (0#26 ++ o.n) = o.n := by
    repeat first
      | exact extract_all _
      | decide
      | exact (extract_append_lo _ _ _ _ (by decide)).trans (extract_all _)
      | refine (extract_append_hi _ _ _ _ (by decide)).trans ?_
      | refine (extract_append_lo _ _ _ _ (by decide)).trans ?_
  simp only [Fields.xXSh, xReg_xByte, vReg_vByte, pReg_pByte, mReg_mByte, tileName_aByte, unused_noByte, vxReg_vxByte, vxReg_vByte, vxReg_xByte, zeroBits_zero, Option.bind_eq_bind, Option.bind_some, Option.pure_def, Option.map_some, h0, h1]
theorem dec_xImm (o : XImm) : Fields.xImm ⟨xByte o.a, noByte, noByte, o.m, o.imm⟩ = some o := by
  simp only [Fields.xImm, xReg_xByte, vReg_vByte, pReg_pByte, mReg_mByte, tileName_aByte, unused_noByte, vxReg_vxByte, vxReg_vByte, vxReg_xByte, zeroBits_zero, Option.bind_eq_bind, Option.bind_some, Option.pure_def, Option.map_some]
theorem dec_loopArgs (o : XImm) (h : o.a ≠ 0) : Fields.loopArgs ⟨xByte o.a, noByte, noByte, o.m, o.imm⟩ = some o := by
  simp only [Fields.loopArgs, xReg_xByte, vReg_vByte, pReg_pByte, mReg_mByte, tileName_aByte, unused_noByte, vxReg_vxByte, vxReg_vByte, vxReg_xByte, zeroBits_zero, Option.bind_eq_bind, Option.bind_some, Option.pure_def, Option.map_some, if_neg h]
theorem dec_leaOp (o : LeaOp) : Fields.leaOp ⟨xByte o.a, xByte o.b, xByte o.c, o.m, o.imm⟩ o.scale = some o := by
  simp only [Fields.leaOp, xReg_xByte, vReg_vByte, pReg_pByte, mReg_mByte, tileName_aByte, unused_noByte, vxReg_vxByte, vxReg_vByte, vxReg_xByte, zeroBits_zero, Option.bind_eq_bind, Option.bind_some, Option.pure_def, Option.map_some]
theorem dec_pXX (o : PXX) : Fields.pXX ⟨pByte o.a, xByte o.b, xByte o.c, o.m, 0⟩ = some o := by
  simp only [Fields.pXX, xReg_xByte, vReg_vByte, pReg_pByte, mReg_mByte, tileName_aByte, unused_noByte, vxReg_vxByte, vxReg_vByte, vxReg_xByte, zeroBits_zero, Option.bind_eq_bind, Option.bind_some, Option.pure_def, Option.map_some]
theorem dec_pXImm (o : PXImm) : Fields.pXImm ⟨pByte o.a, xByte o.b, noByte, o.m, o.imm⟩ = some o := by
  simp only [Fields.pXImm, xReg_xByte, vReg_vByte, pReg_pByte, mReg_mByte, tileName_aByte, unused_noByte, vxReg_vxByte, vxReg_vByte, vxReg_xByte, zeroBits_zero, Option.bind_eq_bind, Option.bind_some, Option.pure_def, Option.map_some]
theorem dec_pPP (o : PPP) : Fields.pPP ⟨pByte o.a, pByte o.b, pByte o.c, o.m, 0⟩ = some o := by
  simp only [Fields.pPP, xReg_xByte, vReg_vByte, pReg_pByte, mReg_mByte, tileName_aByte, unused_noByte, vxReg_vxByte, vxReg_vByte, vxReg_xByte, zeroBits_zero, Option.bind_eq_bind, Option.bind_some, Option.pure_def, Option.map_some]
theorem dec_pP (o : PP) : Fields.pP ⟨pByte o.a, pByte o.b, noByte, o.m, 0⟩ = some o := by
  simp only [Fields.pP, xReg_xByte, vReg_vByte, pReg_pByte, mReg_mByte, tileName_aByte, unused_noByte, vxReg_vxByte, vxReg_vByte, vxReg_xByte, zeroBits_zero, Option.bind_eq_bind, Option.bind_some, Option.pure_def, Option.map_some]
theorem dec_immOp (o : ImmOp) : Fields.immOp ⟨noByte, noByte, noByte, o.m, o.imm⟩ = some o := by
  simp only [Fields.immOp, xReg_xByte, vReg_vByte, pReg_pByte, mReg_mByte, tileName_aByte, unused_noByte, vxReg_vxByte, vxReg_vByte, vxReg_xByte, zeroBits_zero, Option.bind_eq_bind, Option.bind_some, Option.pure_def, Option.map_some]
theorem dec_xOp (o : XOp) : Fields.xOp ⟨xByte o.a, noByte, noByte, o.m, 0⟩ = some o := by
  simp only [Fields.xOp, xReg_xByte, vReg_vByte, pReg_pByte, mReg_mByte, tileName_aByte, unused_noByte, vxReg_vxByte, vxReg_vByte, vxReg_xByte, zeroBits_zero, Option.bind_eq_bind, Option.bind_some, Option.pure_def, Option.map_some]
theorem dec_tagBr (o : TagBr) : Fields.tagBr ⟨noByte, noByte, noByte, o.m, o.t ++ o.d⟩ = some o := by
  have h0 : BitVec.extractLsb' 26 6 (o.t ++ o.d) = o.t := by
    repeat first
      | exact extract_all _
      | decide
      | exact (extract_append_lo _ _ _ _ (by decide)).trans (extract_all _)
      | refine (extract_append_hi _ _ _ _ (by decide)).trans ?_
      | refine (extract_append_lo _ _ _ _ (by decide)).trans ?_
  have h1 : BitVec.extractLsb' 0 26 (o.t ++ o.d) = o.d := by
    repeat first
      | exact extract_all _
      | decide
      | exact (extract_append_lo _ _ _ _ (by decide)).trans (extract_all _)
      | refine (extract_append_hi _ _ _ _ (by decide)).trans ?_
      | refine (extract_append_lo _ _ _ _ (by decide)).trans ?_
  simp only [Fields.tagBr, xReg_xByte, vReg_vByte, pReg_pByte, mReg_mByte, tileName_aByte, unused_noByte, vxReg_vxByte, vxReg_vByte, vxReg_xByte, zeroBits_zero, Option.bind_eq_bind, Option.bind_some, Option.pure_def, Option.map_some, h0, h1]
theorem dec_cvtOp (o : CvtOp) : Fields.cvtOp ⟨xByte o.a, xByte o.b, noByte, o.m, 0⟩ o.rm o.dst o.src = some o := by
  simp only [Fields.cvtOp, xReg_xByte, vReg_vByte, pReg_pByte, mReg_mByte, tileName_aByte, unused_noByte, vxReg_vxByte, vxReg_vByte, vxReg_xByte, zeroBits_zero, Option.bind_eq_bind, Option.bind_some, Option.pure_def, Option.map_some]
theorem dec_v3 (o : V3) : Fields.v3 ⟨vByte o.a, vByte o.b, vxByte o.c, o.m, 0#24 ++ o.k.enc⟩ = some o := by
  have h0 : maskOf (0#24 ++ o.k.enc) = some o.k := maskOf_enc _ _
  have h1 : zeroBits (0#24 ++ o.k.enc) 8 24 = some () := by
    refine zeroBits_of ?_
    repeat first
      | exact extract_all _
      | decide
      | exact (extract_append_lo _ _ _ _ (by decide)).trans (extract_all _)
      | refine (extract_append_hi _ _ _ _ (by decide)).trans ?_
      | refine (extract_append_lo _ _ _ _ (by decide)).trans ?_
  simp only [Fields.v3, xReg_xByte, vReg_vByte, pReg_pByte, mReg_mByte, tileName_aByte, unused_noByte, vxReg_vxByte, vxReg_vByte, vxReg_xByte, zeroBits_zero, Option.bind_eq_bind, Option.bind_some, Option.pure_def, Option.map_some, h0, h1]
theorem dec_v2 (o : V2) : Fields.v2 ⟨vByte o.a, vByte o.b, noByte, o.m, 0#24 ++ o.k.enc⟩ = some o := by
  have h0 : maskOf (0#24 ++ o.k.enc) = some o.k := maskOf_enc _ _
  have h1 : zeroBits (0#24 ++ o.k.enc) 8 24 = some () := by
    refine zeroBits_of ?_
    repeat first
      | exact extract_all _
      | decide
      | exact (extract_append_lo _ _ _ _ (by decide)).trans (extract_all _)
      | refine (extract_append_hi _ _ _ _ (by decide)).trans ?_
      | refine (extract_append_lo _ _ _ _ (by decide)).trans ?_
  simp only [Fields.v2, xReg_xByte, vReg_vByte, pReg_pByte, mReg_mByte, tileName_aByte, unused_noByte, vxReg_vxByte, vxReg_vByte, vxReg_xByte, zeroBits_zero, Option.bind_eq_bind, Option.bind_some, Option.pure_def, Option.map_some, h0, h1]
theorem dec_vCmpOp (o : VCmpOp) : Fields.vCmpOp ⟨mByte o.a, vByte o.b, vxByte o.c, o.m, 0#24 ++ o.k.enc⟩ = some o := by
  have h0 : maskOf (0#24 ++ o.k.enc) = some o.k := maskOf_enc _ _
  have h1 : zeroBits (0#24 ++ o.k.enc) 8 24 = some () := by
    refine zeroBits_of ?_
    repeat first
      | exact extract_all _
      | decide
      | exact (extract_append_lo _ _ _ _ (by decide)).trans (extract_all _)
      | refine (extract_append_hi _ _ _ _ (by decide)).trans ?_
      | refine (extract_append_lo _ _ _ _ (by decide)).trans ?_
  simp only [Fields.vCmpOp, xReg_xByte, vReg_vByte, pReg_pByte, mReg_mByte, tileName_aByte, unused_noByte, vxReg_vxByte, vxReg_vByte, vxReg_xByte, zeroBits_zero, Option.bind_eq_bind, Option.bind_some, Option.pure_def, Option.map_some, h0, h1]
theorem dec_vSelOp (o : VSelOp) : Fields.vSelOp ⟨vByte o.a, vByte o.b, vByte o.c, o.m, 0#29 ++ o.n⟩ = some o := by
  have h0 : zeroBits (0#29 ++ o.n) 3 29 = some () := by
    refine zeroBits_of ?_
    repeat first
      | exact extract_all _
      | decide
      | exact (extract_append_lo _ _ _ _ (by decide)).trans (extract_all _)
      | refine (extract_append_hi _ _ _ _ (by decide)).trans ?_
      | refine (extract_append_lo _ _ _ _ (by decide)).trans ?_
  have h1 : BitVec.extractLsb' 0 3 (0#29 ++ o.n) = o.n := by
    repeat first
      | exact extract_all _
      | decide
      | exact (extract_append_lo _ _ _ _ (by decide)).trans (extract_all _)
      | refine (extract_append_hi _ _ _ _ (by decide)).trans ?_
      | refine (extract_append_lo _ _ _ _ (by decide)).trans ?_
  simp only [Fields.vSelOp, xReg_xByte, vReg_vByte, pReg_pByte, mReg_mByte, tileName_aByte, unused_noByte, vxReg_vxByte, vxReg_vByte, vxReg_xByte, zeroBits_zero, Option.bind_eq_bind, Option.bind_some, Option.pure_def, Option.map_some, h0, h1]
theorem dec_vSplatOp (o : VSplatOp) : Fields.vSplatOp ⟨vByte o.a, xByte o.b, noByte, o.m, 0#24 ++ o.k.enc⟩ = some o := by
  have h0 : maskOf (0#24 ++ o.k.enc) = some o.k := maskOf_enc _ _
  have h1 : zeroBits (0#24 ++ o.k.enc) 8 24 = some () := by
    refine zeroBits_of ?_
    repeat first
      | exact extract_all _
      | decide
      | exact (extract_append_lo _ _ _ _ (by decide)).trans (extract_all _)
      | refine (extract_append_hi _ _ _ _ (by decide)).trans ?_
      | refine (extract_append_lo _ _ _ _ (by decide)).trans ?_
  simp only [Fields.vSplatOp, xReg_xByte, vReg_vByte, pReg_pByte, mReg_mByte, tileName_aByte, unused_noByte, vxReg_vxByte, vxReg_vByte, vxReg_xByte, zeroBits_zero, Option.bind_eq_bind, Option.bind_some, Option.pure_def, Option.map_some, h0, h1]
theorem dec_vSplatI (o : VSplatI) : Fields.vSplatI ⟨vByte o.a, noByte, noByte, o.m, o.imm⟩ = some o := by
  simp only [Fields.vSplatI, xReg_xByte, vReg_vByte, pReg_pByte, mReg_mByte, tileName_aByte, unused_noByte, vxReg_vxByte, vxReg_vByte, vxReg_xByte, zeroBits_zero, Option.bind_eq_bind, Option.bind_some, Option.pure_def, Option.map_some]
theorem dec_vVV (o : VVV) : Fields.vVV ⟨vByte o.a, vByte o.b, vByte o.c, o.m, 0#24 ++ o.k.enc⟩ = some o := by
  have h0 : maskOf (0#24 ++ o.k.enc) = some o.k := maskOf_enc _ _
  have h1 : zeroBits (0#24 ++ o.k.enc) 8 24 = some () := by
    refine zeroBits_of ?_
    repeat first
      | exact extract_all _
      | decide
      | exact (extract_append_lo _ _ _ _ (by decide)).trans (extract_all _)
      | refine (extract_append_hi _ _ _ _ (by decide)).trans ?_
      | refine (extract_append_lo _ _ _ _ (by decide)).trans ?_
  simp only [Fields.vVV, xReg_xByte, vReg_vByte, pReg_pByte, mReg_mByte, tileName_aByte, unused_noByte, vxReg_vxByte, vxReg_vByte, vxReg_xByte, zeroBits_zero, Option.bind_eq_bind, Option.bind_some, Option.pure_def, Option.map_some, h0, h1]
theorem dec_vShufOp (o : VShufOp) : Fields.vShufOp ⟨vByte o.a, vByte o.b, vByte o.c, o.m, 0#22 ++ o.pat ++ o.k.enc⟩ = some o := by
  have h0 : maskOf (0#22 ++ o.pat ++ o.k.enc) = some o.k := maskOf_enc _ _
  have h1 : zeroBits (0#22 ++ o.pat ++ o.k.enc) 10 22 = some () := by
    refine zeroBits_of ?_
    repeat first
      | exact extract_all _
      | decide
      | exact (extract_append_lo _ _ _ _ (by decide)).trans (extract_all _)
      | refine (extract_append_hi _ _ _ _ (by decide)).trans ?_
      | refine (extract_append_lo _ _ _ _ (by decide)).trans ?_
  have h2 : BitVec.extractLsb' 8 2 (0#22 ++ o.pat ++ o.k.enc) = o.pat := by
    repeat first
      | exact extract_all _
      | decide
      | exact (extract_append_lo _ _ _ _ (by decide)).trans (extract_all _)
      | refine (extract_append_hi _ _ _ _ (by decide)).trans ?_
      | refine (extract_append_lo _ _ _ _ (by decide)).trans ?_
  simp only [Fields.vShufOp, xReg_xByte, vReg_vByte, pReg_pByte, mReg_mByte, tileName_aByte, unused_noByte, vxReg_vxByte, vxReg_vByte, vxReg_xByte, zeroBits_zero, Option.bind_eq_bind, Option.bind_some, Option.pure_def, Option.map_some, h0, h1, h2]
theorem dec_vRedOp (o : VRedOp) : Fields.vRedOp ⟨xByte o.a, vByte o.b, noByte, o.m, 0#24 ++ o.k.enc⟩ = some o := by
  have h0 : maskOf (0#24 ++ o.k.enc) = some o.k := maskOf_enc _ _
  have h1 : zeroBits (0#24 ++ o.k.enc) 8 24 = some () := by
    refine zeroBits_of ?_
    repeat first
      | exact extract_all _
      | decide
      | exact (extract_append_lo _ _ _ _ (by decide)).trans (extract_all _)
      | refine (extract_append_hi _ _ _ _ (by decide)).trans ?_
      | refine (extract_append_lo _ _ _ _ (by decide)).trans ?_
  simp only [Fields.vRedOp, xReg_xByte, vReg_vByte, pReg_pByte, mReg_mByte, tileName_aByte, unused_noByte, vxReg_vxByte, vxReg_vByte, vxReg_xByte, zeroBits_zero, Option.bind_eq_bind, Option.bind_some, Option.pure_def, Option.map_some, h0, h1]
theorem dec_mMM (o : MMM) : Fields.mMM ⟨mByte o.a, mByte o.b, mByte o.c, o.m, 0⟩ = some o := by
  simp only [Fields.mMM, xReg_xByte, vReg_vByte, pReg_pByte, mReg_mByte, tileName_aByte, unused_noByte, vxReg_vxByte, vxReg_vByte, vxReg_xByte, zeroBits_zero, Option.bind_eq_bind, Option.bind_some, Option.pure_def, Option.map_some]
theorem dec_mM (o : MM) : Fields.mM ⟨mByte o.a, mByte o.b, noByte, o.m, 0⟩ = some o := by
  simp only [Fields.mM, xReg_xByte, vReg_vByte, pReg_pByte, mReg_mByte, tileName_aByte, unused_noByte, vxReg_vxByte, vxReg_vByte, vxReg_xByte, zeroBits_zero, Option.bind_eq_bind, Option.bind_some, Option.pure_def, Option.map_some]
theorem dec_xM (o : XM) : Fields.xM ⟨xByte o.a, mByte o.b, noByte, o.m, 0⟩ = some o := by
  simp only [Fields.xM, xReg_xByte, vReg_vByte, pReg_pByte, mReg_mByte, tileName_aByte, unused_noByte, vxReg_vxByte, vxReg_vByte, vxReg_xByte, zeroBits_zero, Option.bind_eq_bind, Option.bind_some, Option.pure_def, Option.map_some]
theorem dec_pM (o : PM) : Fields.pM ⟨pByte o.a, mByte o.b, noByte, o.m, 0⟩ = some o := by
  simp only [Fields.pM, xReg_xByte, vReg_vByte, pReg_pByte, mReg_mByte, tileName_aByte, unused_noByte, vxReg_vxByte, vxReg_vByte, vxReg_xByte, zeroBits_zero, Option.bind_eq_bind, Option.bind_some, Option.pure_def, Option.map_some]
theorem dec_vCvtOp (o : VCvtOp) (h : (partOk o.src o.spart && partOk o.dst o.dpart) = true) : Fields.vCvtOp ⟨vByte o.a, vByte o.b, noByte, o.m, 0#20 ++ o.dpart ++ o.spart ++ o.k.enc⟩ o.rm o.dst o.src = some o := by
  have h0 : maskOf (0#20 ++ o.dpart ++ o.spart ++ o.k.enc) = some o.k := maskOf_enc _ _
  have h1 : zeroBits (0#20 ++ o.dpart ++ o.spart ++ o.k.enc) 12 20 = some () := by
    refine zeroBits_of ?_
    repeat first
      | exact extract_all _
      | decide
      | exact (extract_append_lo _ _ _ _ (by decide)).trans (extract_all _)
      | refine (extract_append_hi _ _ _ _ (by decide)).trans ?_
      | refine (extract_append_lo _ _ _ _ (by decide)).trans ?_
  have h2 : BitVec.extractLsb' 8 2 (0#20 ++ o.dpart ++ o.spart ++ o.k.enc) = o.spart := by
    repeat first
      | exact extract_all _
      | decide
      | exact (extract_append_lo _ _ _ _ (by decide)).trans (extract_all _)
      | refine (extract_append_hi _ _ _ _ (by decide)).trans ?_
      | refine (extract_append_lo _ _ _ _ (by decide)).trans ?_
  have h3 : BitVec.extractLsb' 10 2 (0#20 ++ o.dpart ++ o.spart ++ o.k.enc) = o.dpart := by
    repeat first
      | exact extract_all _
      | decide
      | exact (extract_append_lo _ _ _ _ (by decide)).trans (extract_all _)
      | refine (extract_append_hi _ _ _ _ (by decide)).trans ?_
      | refine (extract_append_lo _ _ _ _ (by decide)).trans ?_
  simp only [Fields.vCvtOp, xReg_xByte, vReg_vByte, pReg_pByte, mReg_mByte, tileName_aByte, unused_noByte, vxReg_vxByte, vxReg_vByte, vxReg_xByte, zeroBits_zero, Option.bind_eq_bind, Option.bind_some, Option.pure_def, Option.map_some, h0, h1, h2, h3, if_pos h]
theorem dec_vMemOp (o : VMemOp) : Fields.vMemOp ⟨vByte o.a, xByte o.b, noByte, o.m, o.d ++ o.k.enc⟩ = some o := by
  have h0 : maskOf (o.d ++ o.k.enc) = some o.k := maskOf_enc _ _
  have h1 : BitVec.extractLsb' 8 24 (o.d ++ o.k.enc) = o.d := by
    repeat first
      | exact extract_all _
      | decide
      | exact (extract_append_lo _ _ _ _ (by decide)).trans (extract_all _)
      | refine (extract_append_hi _ _ _ _ (by decide)).trans ?_
      | refine (extract_append_lo _ _ _ _ (by decide)).trans ?_
  simp only [Fields.vMemOp, xReg_xByte, vReg_vByte, pReg_pByte, mReg_mByte, tileName_aByte, unused_noByte, vxReg_vxByte, vxReg_vByte, vxReg_xByte, zeroBits_zero, Option.bind_eq_bind, Option.bind_some, Option.pure_def, Option.map_some, h0, h1]
theorem dec_vStrOp (o : VStrOp) : Fields.vStrOp ⟨vByte o.a, xByte o.b, xByte o.c, o.m, o.d ++ o.k.enc⟩ = some o := by
  have h0 : maskOf (o.d ++ o.k.enc) = some o.k := maskOf_enc _ _
  have h1 : BitVec.extractLsb' 8 24 (o.d ++ o.k.enc) = o.d := by
    repeat first
      | exact extract_all _
      | decide
      | exact (extract_append_lo _ _ _ _ (by decide)).trans (extract_all _)
      | refine (extract_append_hi _ _ _ _ (by decide)).trans ?_
      | refine (extract_append_lo _ _ _ _ (by decide)).trans ?_
  simp only [Fields.vStrOp, xReg_xByte, vReg_vByte, pReg_pByte, mReg_mByte, tileName_aByte, unused_noByte, vxReg_vxByte, vxReg_vByte, vxReg_xByte, zeroBits_zero, Option.bind_eq_bind, Option.bind_some, Option.pure_def, Option.map_some, h0, h1]
theorem dec_vGsOp (o : VGsOp) : Fields.vGsOp ⟨vByte o.a, xByte o.b, vByte o.c, o.m, 0#22 ++ o.scale ++ o.k.enc⟩ = some o := by
  have h0 : maskOf (0#22 ++ o.scale ++ o.k.enc) = some o.k := maskOf_enc _ _
  have h1 : zeroBits (0#22 ++ o.scale ++ o.k.enc) 10 22 = some () := by
    refine zeroBits_of ?_
    repeat first
      | exact extract_all _
      | decide
      | exact (extract_append_lo _ _ _ _ (by decide)).trans (extract_all _)
      | refine (extract_append_hi _ _ _ _ (by decide)).trans ?_
      | refine (extract_append_lo _ _ _ _ (by decide)).trans ?_
  have h2 : BitVec.extractLsb' 8 2 (0#22 ++ o.scale ++ o.k.enc) = o.scale := by
    repeat first
      | exact extract_all _
      | decide
      | exact (extract_append_lo _ _ _ _ (by decide)).trans (extract_all _)
      | refine (extract_append_hi _ _ _ _ (by decide)).trans ?_
      | refine (extract_append_lo _ _ _ _ (by decide)).trans ?_
  simp only [Fields.vGsOp, xReg_xByte, vReg_vByte, pReg_pByte, mReg_mByte, tileName_aByte, unused_noByte, vxReg_vxByte, vxReg_vByte, vxReg_xByte, zeroBits_zero, Option.bind_eq_bind, Option.bind_some, Option.pure_def, Option.map_some, h0, h1, h2]
theorem dec_vLf8Op (o : VLf8Op) : Fields.vLf8Op ⟨vByte o.a, vByte o.b, noByte, o.m, 0#22 ++ o.spart ++ o.k.enc⟩ = some o := by
  have h0 : maskOf (0#22 ++ o.spart ++ o.k.enc) = some o.k := maskOf_enc _ _
  have h1 : zeroBits (0#22 ++ o.spart ++ o.k.enc) 10 22 = some () := by
    refine zeroBits_of ?_
    repeat first
      | exact extract_all _
      | decide
      | exact (extract_append_lo _ _ _ _ (by decide)).trans (extract_all _)
      | refine (extract_append_hi _ _ _ _ (by decide)).trans ?_
      | refine (extract_append_lo _ _ _ _ (by decide)).trans ?_
  have h2 : BitVec.extractLsb' 8 2 (0#22 ++ o.spart ++ o.k.enc) = o.spart := by
    repeat first
      | exact extract_all _
      | decide
      | exact (extract_append_lo _ _ _ _ (by decide)).trans (extract_all _)
      | refine (extract_append_hi _ _ _ _ (by decide)).trans ?_
      | refine (extract_append_lo _ _ _ _ (by decide)).trans ?_
  simp only [Fields.vLf8Op, xReg_xByte, vReg_vByte, pReg_pByte, mReg_mByte, tileName_aByte, unused_noByte, vxReg_vxByte, vxReg_vByte, vxReg_xByte, zeroBits_zero, Option.bind_eq_bind, Option.bind_some, Option.pure_def, Option.map_some, h0, h1, h2]
theorem dec_prefOp (o : PrefOp) : Fields.prefOp ⟨noByte, xByte o.b, noByte, o.m, o.imm⟩ = some o := by
  simp only [Fields.prefOp, xReg_xByte, vReg_vByte, pReg_pByte, mReg_mByte, tileName_aByte, unused_noByte, vxReg_vxByte, vxReg_vByte, vxReg_xByte, zeroBits_zero, Option.bind_eq_bind, Option.bind_some, Option.pure_def, Option.map_some]
theorem dec_acqOp (o : AcqOp) : Fields.acqOp ⟨xByte o.a, xByte o.b, noByte, o.m, o.imm⟩ o.dev o.w64 = some o := by
  simp only [Fields.acqOp, xReg_xByte, vReg_vByte, pReg_pByte, mReg_mByte, tileName_aByte, unused_noByte, vxReg_vxByte, vxReg_vByte, vxReg_xByte, zeroBits_zero, Option.bind_eq_bind, Option.bind_some, Option.pure_def, Option.map_some]
theorem dec_amoArgs (o : AmoArgs) : Fields.amoArgs ⟨xByte o.a, xByte o.b, xByte o.c, o.m, o.imm⟩ o.dev o.ord o.w64 = some o := by
  simp only [Fields.amoArgs, xReg_xByte, vReg_vByte, pReg_pByte, mReg_mByte, tileName_aByte, unused_noByte, vxReg_vxByte, vxReg_vByte, vxReg_xByte, zeroBits_zero, Option.bind_eq_bind, Option.bind_some, Option.pure_def, Option.map_some]
theorem dec_amoFArgs (o : AmoFArgs) : Fields.amoFArgs ⟨xByte o.a, xByte o.b, xByte o.c, o.m, o.imm⟩ o.dev o.ord = some o := by
  simp only [Fields.amoFArgs, xReg_xByte, vReg_vByte, pReg_pByte, mReg_mByte, tileName_aByte, unused_noByte, vxReg_vxByte, vxReg_vByte, vxReg_xByte, zeroBits_zero, Option.bind_eq_bind, Option.bind_some, Option.pure_def, Option.map_some]
theorem dec_noneOp (o : NoneOp) : Fields.noneOp ⟨noByte, noByte, noByte, o.m, 0⟩ = some o := by
  simp only [Fields.noneOp, xReg_xByte, vReg_vByte, pReg_pByte, mReg_mByte, tileName_aByte, unused_noByte, vxReg_vxByte, vxReg_vByte, vxReg_xByte, zeroBits_zero, Option.bind_eq_bind, Option.bind_some, Option.pure_def, Option.map_some]
theorem dec_barOp (o : BarOp) : Fields.barOp ⟨noByte, noByte, noByte, o.m, 0#29 ++ o.n⟩ = some o := by
  have h0 : zeroBits (0#29 ++ o.n) 3 29 = some () := by
    refine zeroBits_of ?_
    repeat first
      | exact extract_all _
      | decide
      | exact (extract_append_lo _ _ _ _ (by decide)).trans (extract_all _)
      | refine (extract_append_hi _ _ _ _ (by decide)).trans ?_
      | refine (extract_append_lo _ _ _ _ (by decide)).trans ?_
  have h1 : BitVec.extractLsb' 0 3 (0#29 ++ o.n) = o.n := by
    repeat first
      | exact extract_all _
      | decide
      | exact (extract_append_lo _ _ _ _ (by decide)).trans (extract_all _)
      | refine (extract_append_hi _ _ _ _ (by decide)).trans ?_
      | refine (extract_append_lo _ _ _ _ (by decide)).trans ?_
  simp only [Fields.barOp, xReg_xByte, vReg_vByte, pReg_pByte, mReg_mByte, tileName_aByte, unused_noByte, vxReg_vxByte, vxReg_vByte, vxReg_xByte, zeroBits_zero, Option.bind_eq_bind, Option.bind_some, Option.pure_def, Option.map_some, h0, h1]
theorem dec_barXOp (o : BarXOp) : Fields.barXOp ⟨xByte o.a, noByte, noByte, o.m, 0#29 ++ o.n⟩ = some o := by
  have h0 : zeroBits (0#29 ++ o.n) 3 29 = some () := by
    refine zeroBits_of ?_
    repeat first
      | exact extract_all _
      | decide
      | exact (extract_append_lo _ _ _ _ (by decide)).trans (extract_all _)
      | refine (extract_append_hi _ _ _ _ (by decide)).trans ?_
      | refine (extract_append_lo _ _ _ _ (by decide)).trans ?_
  have h1 : BitVec.extractLsb' 0 3 (0#29 ++ o.n) = o.n := by
    repeat first
      | exact extract_all _
      | decide
      | exact (extract_append_lo _ _ _ _ (by decide)).trans (extract_all _)
      | refine (extract_append_hi _ _ _ _ (by decide)).trans ?_
      | refine (extract_append_lo _ _ _ _ (by decide)).trans ?_
  simp only [Fields.barXOp, xReg_xByte, vReg_vByte, pReg_pByte, mReg_mByte, tileName_aByte, unused_noByte, vxReg_vxByte, vxReg_vByte, vxReg_xByte, zeroBits_zero, Option.bind_eq_bind, Option.bind_some, Option.pure_def, Option.map_some, h0, h1]
theorem dec_xN6 (o : XN6) : Fields.xN6 ⟨xByte o.a, noByte, noByte, o.m, 0#26 ++ o.n⟩ = some o := by
  have h0 : zeroBits (0#26 ++ o.n) 6 26 = some () := by
    refine zeroBits_of ?_
    repeat first
      | exact extract_all _
      | decide
      | exact (extract_append_lo _ _ _ _ (by decide)).trans (extract_all _)
      | refine (extract_append_hi _ _ _ _ (by decide)).trans ?_
      | refine (extract_append_lo _ _ _ _ (by decide)).trans ?_
  have h1 : BitVec.extractLsb' 0 6 (0#26 ++ o.n) = o.n := by
    repeat first
      | exact extract_all _
      | decide
      | exact (extract_append_lo _ _ _ _ (by decide)).trans (extract_all _)
      | refine (extract_append_hi _ _ _ _ (by decide)).trans ?_
      | refine (extract_append_lo _ _ _ _ (by decide)).trans ?_
  simp only [Fields.xN6, xReg_xByte, vReg_vByte, pReg_pByte, mReg_mByte, tileName_aByte, unused_noByte, vxReg_vxByte, vxReg_vByte, vxReg_xByte, zeroBits_zero, Option.bind_eq_bind, Option.bind_some, Option.pure_def, Option.map_some, h0, h1]
theorem dec_cpOp (o : CpOp) : Fields.cpOp ⟨xByte o.a, xByte o.b, xByte o.c, o.m, 0#26 ++ o.t⟩ = some o := by
  have h0 : zeroBits (0#26 ++ o.t) 6 26 = some () := by
    refine zeroBits_of ?_
    repeat first
      | exact extract_all _
      | decide
      | exact (extract_append_lo _ _ _ _ (by decide)).trans (extract_all _)
      | refine (extract_append_hi _ _ _ _ (by decide)).trans ?_
      | refine (extract_append_lo _ _ _ _ (by decide)).trans ?_
  have h1 : BitVec.extractLsb' 0 6 (0#26 ++ o.t) = o.t := by
    repeat first
      | exact extract_all _
      | decide
      | exact (extract_append_lo _ _ _ _ (by decide)).trans (extract_all _)
      | refine (extract_append_hi _ _ _ _ (by decide)).trans ?_
      | refine (extract_append_lo _ _ _ _ (by decide)).trans ?_
  simp only [Fields.cpOp, xReg_xByte, vReg_vByte, pReg_pByte, mReg_mByte, tileName_aByte, unused_noByte, vxReg_vxByte, vxReg_vByte, vxReg_xByte, zeroBits_zero, Option.bind_eq_bind, Option.bind_some, Option.pure_def, Option.map_some, h0, h1]
theorem dec_cpDecOp (o : CpDecOp) : Fields.cpDecOp ⟨xByte o.a, xByte o.b, xByte o.c, o.m, 0#16 ++ o.key ++ 1#2 ++ o.t⟩ = some o := by
  have h0 : zeroBits (0#16 ++ o.key ++ 1#2 ++ o.t) 7 1 = some () := by
    refine zeroBits_of ?_
    repeat first
      | exact extract_all _
      | decide
      | exact (extract_append_lo _ _ _ _ (by decide)).trans (extract_all _)
      | refine (extract_append_hi _ _ _ _ (by decide)).trans ?_
      | refine (extract_append_lo _ _ _ _ (by decide)).trans ?_
  have h1 : zeroBits (0#16 ++ o.key ++ 1#2 ++ o.t) 16 16 = some () := by
    refine zeroBits_of ?_
    repeat first
      | exact extract_all _
      | decide
      | exact (extract_append_lo _ _ _ _ (by decide)).trans (extract_all _)
      | refine (extract_append_hi _ _ _ _ (by decide)).trans ?_
      | refine (extract_append_lo _ _ _ _ (by decide)).trans ?_
  have h2 : BitVec.extractLsb' 0 6 (0#16 ++ o.key ++ 1#2 ++ o.t) = o.t := by
    repeat first
      | exact extract_all _
      | decide
      | exact (extract_append_lo _ _ _ _ (by decide)).trans (extract_all _)
      | refine (extract_append_hi _ _ _ _ (by decide)).trans ?_
      | refine (extract_append_lo _ _ _ _ (by decide)).trans ?_
  have h3 : BitVec.extractLsb' 8 8 (0#16 ++ o.key ++ 1#2 ++ o.t) = o.key := by
    repeat first
      | exact extract_all _
      | decide
      | exact (extract_append_lo _ _ _ _ (by decide)).trans (extract_all _)
      | refine (extract_append_hi _ _ _ _ (by decide)).trans ?_
      | refine (extract_append_lo _ _ _ _ (by decide)).trans ?_
  simp only [Fields.cpDecOp, xReg_xByte, vReg_vByte, pReg_pByte, mReg_mByte, tileName_aByte, unused_noByte, vxReg_vxByte, vxReg_vByte, vxReg_xByte, zeroBits_zero, Option.bind_eq_bind, Option.bind_some, Option.pure_def, Option.map_some, h0, h1, h2, h3]
theorem dec_fabOp (o : FabOp) : Fields.fabOp ⟨xByte o.a, xByte o.b, xByte o.c, o.m, 0#25 ++ BitVec.ofBool o.rlx ++ o.t⟩ = some o := by
  have h0 : zeroBits (0#25 ++ BitVec.ofBool o.rlx ++ o.t) 7 25 = some () := by
    refine zeroBits_of ?_
    repeat first
      | exact extract_all _
      | decide
      | exact (extract_append_lo _ _ _ _ (by decide)).trans (extract_all _)
      | refine (extract_append_hi _ _ _ _ (by decide)).trans ?_
      | refine (extract_append_lo _ _ _ _ (by decide)).trans ?_
  have h1 : BitVec.extractLsb' 0 6 (0#25 ++ BitVec.ofBool o.rlx ++ o.t) = o.t := by
    repeat first
      | exact extract_all _
      | decide
      | exact (extract_append_lo _ _ _ _ (by decide)).trans (extract_all _)
      | refine (extract_append_hi _ _ _ _ (by decide)).trans ?_
      | refine (extract_append_lo _ _ _ _ (by decide)).trans ?_
  have h2 : BitVec.getLsbD (0#25 ++ BitVec.ofBool o.rlx ++ o.t) 6 = o.rlx := by
    repeat first
      | exact getLsbD_ofBool_zero _
      | decide
      | refine (getLsbD_append_lo _ _ _ (by decide)).trans ?_
      | refine (getLsbD_append_hi _ _ _ (by decide)).trans ?_
  simp only [Fields.fabOp, xReg_xByte, vReg_vByte, pReg_pByte, mReg_mByte, tileName_aByte, unused_noByte, vxReg_vxByte, vxReg_vByte, vxReg_xByte, zeroBits_zero, Option.bind_eq_bind, Option.bind_some, Option.pure_def, Option.map_some, h0, h1, h2]
theorem dec_fabRedOp (o : FabRedOp) (h : o.op.toNat < 6) : Fields.fabRedOp ⟨xByte o.a, xByte o.b, xByte o.c, o.m, 0#21 ++ o.op ++ 0#1 ++ BitVec.ofBool o.rlx ++ o.t⟩ = some o := by
  have h0 : zeroBits (0#21 ++ o.op ++ 0#1 ++ BitVec.ofBool o.rlx ++ o.t) 7 1 = some () := by
    refine zeroBits_of ?_
    repeat first
      | exact extract_all _
      | decide
      | exact (extract_append_lo _ _ _ _ (by decide)).trans (extract_all _)
      | refine (extract_append_hi _ _ _ _ (by decide)).trans ?_
      | refine (extract_append_lo _ _ _ _ (by decide)).trans ?_
  have h1 : zeroBits (0#21 ++ o.op ++ 0#1 ++ BitVec.ofBool o.rlx ++ o.t) 11 21 = some () := by
    refine zeroBits_of ?_
    repeat first
      | exact extract_all _
      | decide
      | exact (extract_append_lo _ _ _ _ (by decide)).trans (extract_all _)
      | refine (extract_append_hi _ _ _ _ (by decide)).trans ?_
      | refine (extract_append_lo _ _ _ _ (by decide)).trans ?_
  have h2 : BitVec.extractLsb' 0 6 (0#21 ++ o.op ++ 0#1 ++ BitVec.ofBool o.rlx ++ o.t) = o.t := by
    repeat first
      | exact extract_all _
      | decide
      | exact (extract_append_lo _ _ _ _ (by decide)).trans (extract_all _)
      | refine (extract_append_hi _ _ _ _ (by decide)).trans ?_
      | refine (extract_append_lo _ _ _ _ (by decide)).trans ?_
  have h3 : BitVec.extractLsb' 8 3 (0#21 ++ o.op ++ 0#1 ++ BitVec.ofBool o.rlx ++ o.t) = o.op := by
    repeat first
      | exact extract_all _
      | decide
      | exact (extract_append_lo _ _ _ _ (by decide)).trans (extract_all _)
      | refine (extract_append_hi _ _ _ _ (by decide)).trans ?_
      | refine (extract_append_lo _ _ _ _ (by decide)).trans ?_
  have h4 : BitVec.getLsbD (0#21 ++ o.op ++ 0#1 ++ BitVec.ofBool o.rlx ++ o.t) 6 = o.rlx := by
    repeat first
      | exact getLsbD_ofBool_zero _
      | decide
      | refine (getLsbD_append_lo _ _ _ (by decide)).trans ?_
      | refine (getLsbD_append_hi _ _ _ (by decide)).trans ?_
  simp only [Fields.fabRedOp, xReg_xByte, vReg_vByte, pReg_pByte, mReg_mByte, tileName_aByte, unused_noByte, vxReg_vxByte, vxReg_vByte, vxReg_xByte, zeroBits_zero, Option.bind_eq_bind, Option.bind_some, Option.pure_def, Option.map_some, h0, h1, h2, h3, h4, if_pos h]
theorem dec_spawnOp (o : SpawnOp) (h : o.mode ≠ 3) : Fields.spawnOp ⟨xByte o.a, xByte o.b, xByte o.c, o.m, 0#29 ++ o.mode ++ BitVec.ofBool o.sup⟩ = some o := by
  have h0 : zeroBits (0#29 ++ o.mode ++ BitVec.ofBool o.sup) 3 29 = some () := by
    refine zeroBits_of ?_
    repeat first
      | exact extract_all _
      | decide
      | exact (extract_append_lo _ _ _ _ (by decide)).trans (extract_all _)
      | refine (extract_append_hi _ _ _ _ (by decide)).trans ?_
      | refine (extract_append_lo _ _ _ _ (by decide)).trans ?_
  have h1 : BitVec.extractLsb' 1 2 (0#29 ++ o.mode ++ BitVec.ofBool o.sup) = o.mode := by
    repeat first
      | exact extract_all _
      | decide
      | exact (extract_append_lo _ _ _ _ (by decide)).trans (extract_all _)
      | refine (extract_append_hi _ _ _ _ (by decide)).trans ?_
      | refine (extract_append_lo _ _ _ _ (by decide)).trans ?_
  have h2 : BitVec.getLsbD (0#29 ++ o.mode ++ BitVec.ofBool o.sup) 0 = o.sup := by
    repeat first
      | exact getLsbD_ofBool_zero _
      | decide
      | refine (getLsbD_append_lo _ _ _ (by decide)).trans ?_
      | refine (getLsbD_append_hi _ _ _ (by decide)).trans ?_
  simp only [Fields.spawnOp, xReg_xByte, vReg_vByte, pReg_pByte, mReg_mByte, tileName_aByte, unused_noByte, vxReg_vxByte, vxReg_vByte, vxReg_xByte, zeroBits_zero, Option.bind_eq_bind, Option.bind_some, Option.pure_def, Option.map_some, h0, h1, h2, if_neg h]
theorem dec_flagOp (o : FlagOp) : Fields.flagOp ⟨noByte, noByte, noByte, o.m, 0#31 ++ BitVec.ofBool o.v⟩ = some o := by
  have h0 : zeroBits (0#31 ++ BitVec.ofBool o.v) 1 31 = some () := by
    refine zeroBits_of ?_
    repeat first
      | exact extract_all _
      | decide
      | exact (extract_append_lo _ _ _ _ (by decide)).trans (extract_all _)
      | refine (extract_append_hi _ _ _ _ (by decide)).trans ?_
      | refine (extract_append_lo _ _ _ _ (by decide)).trans ?_
  have h1 : BitVec.getLsbD (0#31 ++ BitVec.ofBool o.v) 0 = o.v := by
    repeat first
      | exact getLsbD_ofBool_zero _
      | decide
      | refine (getLsbD_append_lo _ _ _ (by decide)).trans ?_
      | refine (getLsbD_append_hi _ _ _ (by decide)).trans ?_
  simp only [Fields.flagOp, xReg_xByte, vReg_vByte, pReg_pByte, mReg_mByte, tileName_aByte, unused_noByte, vxReg_vxByte, vxReg_vByte, vxReg_xByte, zeroBits_zero, Option.bind_eq_bind, Option.bind_some, Option.pure_def, Option.map_some, h0, h1]
theorem dec_n16 (o : N16) : Fields.n16 ⟨noByte, noByte, noByte, o.m, 0#16 ++ o.n⟩ = some o := by
  have h0 : zeroBits (0#16 ++ o.n) 16 16 = some () := by
    refine zeroBits_of ?_
    repeat first
      | exact extract_all _
      | decide
      | exact (extract_append_lo _ _ _ _ (by decide)).trans (extract_all _)
      | refine (extract_append_hi _ _ _ _ (by decide)).trans ?_
      | refine (extract_append_lo _ _ _ _ (by decide)).trans ?_
  have h1 : BitVec.extractLsb' 0 16 (0#16 ++ o.n) = o.n := by
    repeat first
      | exact extract_all _
      | decide
      | exact (extract_append_lo _ _ _ _ (by decide)).trans (extract_all _)
      | refine (extract_append_hi _ _ _ _ (by decide)).trans ?_
      | refine (extract_append_lo _ _ _ _ (by decide)).trans ?_
  simp only [Fields.n16, xReg_xByte, vReg_vByte, pReg_pByte, mReg_mByte, tileName_aByte, unused_noByte, vxReg_vxByte, vxReg_vByte, vxReg_xByte, zeroBits_zero, Option.bind_eq_bind, Option.bind_some, Option.pure_def, Option.map_some, h0, h1]
theorem dec_mxPriOp (o : MxPriOp) : Fields.mxPriOp ⟨noByte, noByte, noByte, o.m, 0#14 ++ o.n ++ 0#16⟩ = some o := by
  have h0 : zeroBits (0#14 ++ o.n ++ 0#16) 18 14 = some () := by
    refine zeroBits_of ?_
    repeat first
      | exact extract_all _
      | decide
      | exact (extract_append_lo _ _ _ _ (by decide)).trans (extract_all _)
      | refine (extract_append_hi _ _ _ _ (by decide)).trans ?_
      | refine (extract_append_lo _ _ _ _ (by decide)).trans ?_
  have h1 : zeroBits (0#14 ++ o.n ++ 0#16) 0 16 = some () := by
    refine zeroBits_of ?_
    repeat first
      | exact extract_all _
      | decide
      | exact (extract_append_lo _ _ _ _ (by decide)).trans (extract_all _)
      | refine (extract_append_hi _ _ _ _ (by decide)).trans ?_
      | refine (extract_append_lo _ _ _ _ (by decide)).trans ?_
  have h2 : BitVec.extractLsb' 16 2 (0#14 ++ o.n ++ 0#16) = o.n := by
    repeat first
      | exact extract_all _
      | decide
      | exact (extract_append_lo _ _ _ _ (by decide)).trans (extract_all _)
      | refine (extract_append_hi _ _ _ _ (by decide)).trans ?_
      | refine (extract_append_lo _ _ _ _ (by decide)).trans ?_
  simp only [Fields.mxPriOp, xReg_xByte, vReg_vByte, pReg_pByte, mReg_mByte, tileName_aByte, unused_noByte, vxReg_vxByte, vxReg_vByte, vxReg_xByte, zeroBits_zero, Option.bind_eq_bind, Option.bind_some, Option.pure_def, Option.map_some, h0, h1, h2]
theorem dec_vShOp_v (o : VShOp) (r : BitVec 5) (h : o.c = .v r) :
    Fields.vShOp ⟨vByte o.a, vByte o.b, vByte r, o.m, 0#24 ++ o.k.enc⟩ = some o := by
  have h0 : maskOf (0#24 ++ o.k.enc) = some o.k := maskOf_enc _ _
  have h1 : zeroBits (0#24 ++ o.k.enc) 8 24 = some () := by
    refine zeroBits_of ?_
    repeat first
      | exact extract_all _
      | decide
      | exact (extract_append_lo _ _ _ _ (by decide)).trans (extract_all _)
      | refine (extract_append_hi _ _ _ _ (by decide)).trans ?_
      | refine (extract_append_lo _ _ _ _ (by decide)).trans ?_
  simp only [Fields.vShOp, if_neg (vByte_ne r), xReg_xByte, vReg_vByte, pReg_pByte, mReg_mByte, tileName_aByte, unused_noByte, vxReg_vxByte, vxReg_vByte, vxReg_xByte, zeroBits_zero, Option.bind_eq_bind, Option.bind_some, Option.pure_def, Option.map_some, h0, h1, ← h]
theorem dec_vShOp_x (o : VShOp) (r : BitVec 6) (h : o.c = .x r) :
    Fields.vShOp ⟨vByte o.a, vByte o.b, xByte r, o.m, 0#24 ++ o.k.enc⟩ = some o := by
  have h0 : maskOf (0#24 ++ o.k.enc) = some o.k := maskOf_enc _ _
  have h1 : zeroBits (0#24 ++ o.k.enc) 8 24 = some () := by
    refine zeroBits_of ?_
    repeat first
      | exact extract_all _
      | decide
      | exact (extract_append_lo _ _ _ _ (by decide)).trans (extract_all _)
      | refine (extract_append_hi _ _ _ _ (by decide)).trans ?_
      | refine (extract_append_lo _ _ _ _ (by decide)).trans ?_
  simp only [Fields.vShOp, if_neg (xByte_ne r), xReg_xByte, vReg_vByte, pReg_pByte, mReg_mByte, tileName_aByte, unused_noByte, vxReg_vxByte, vxReg_vByte, vxReg_xByte, zeroBits_zero, Option.bind_eq_bind, Option.bind_some, Option.pure_def, Option.map_some, h0, h1, ← h]
theorem dec_vShOp_imm (o : VShOp) (n : BitVec 5) (h : o.c = .imm n) :
    Fields.vShOp ⟨vByte o.a, vByte o.b, noByte, o.m, 0#19 ++ n ++ o.k.enc⟩ = some o := by
  have h0 : maskOf (0#19 ++ n ++ o.k.enc) = some o.k := maskOf_enc _ _
  have h1 : zeroBits (0#19 ++ n ++ o.k.enc) 13 19 = some () := by
    refine zeroBits_of ?_
    repeat first
      | exact extract_all _
      | decide
      | exact (extract_append_lo _ _ _ _ (by decide)).trans (extract_all _)
      | refine (extract_append_hi _ _ _ _ (by decide)).trans ?_
      | refine (extract_append_lo _ _ _ _ (by decide)).trans ?_
  have h2 : BitVec.extractLsb' 8 5 (0#19 ++ n ++ o.k.enc) = n := by
    repeat first
      | exact extract_all _
      | decide
      | exact (extract_append_lo _ _ _ _ (by decide)).trans (extract_all _)
      | refine (extract_append_hi _ _ _ _ (by decide)).trans ?_
      | refine (extract_append_lo _ _ _ _ (by decide)).trans ?_
  simp only [Fields.vShOp, noByte, if_true, xReg_xByte, vReg_vByte, pReg_pByte, mReg_mByte, tileName_aByte, unused_noByte, vxReg_vxByte, vxReg_vByte, vxReg_xByte, zeroBits_zero, Option.bind_eq_bind, Option.bind_some, Option.pure_def, Option.map_some, h0, h1, h2, ← h]
theorem dec_vRotOp_x (o : VRotOp) (r : BitVec 6) (h : o.n = .x r) :
    Fields.vRotOp ⟨vByte o.a, vByte o.b, xByte r, o.m, 0#24 ++ o.k.enc⟩ = some o := by
  have h0 : maskOf (0#24 ++ o.k.enc) = some o.k := maskOf_enc _ _
  have h1 : zeroBits (0#24 ++ o.k.enc) 8 24 = some () := by
    refine zeroBits_of ?_
    repeat first
      | exact extract_all _
      | decide
      | exact (extract_append_lo _ _ _ _ (by decide)).trans (extract_all _)
      | refine (extract_append_hi _ _ _ _ (by decide)).trans ?_
      | refine (extract_append_lo _ _ _ _ (by decide)).trans ?_
  simp only [Fields.vRotOp, if_neg (xByte_ne r), xReg_xByte, vReg_vByte, pReg_pByte, mReg_mByte, tileName_aByte, unused_noByte, vxReg_vxByte, vxReg_vByte, vxReg_xByte, zeroBits_zero, Option.bind_eq_bind, Option.bind_some, Option.pure_def, Option.map_some, h0, h1, ← h]
theorem dec_vRotOp_imm (o : VRotOp) (n : BitVec 4) (h : o.n = .imm n) :
    Fields.vRotOp ⟨vByte o.a, vByte o.b, noByte, o.m, 0#20 ++ n ++ o.k.enc⟩ = some o := by
  have h0 : maskOf (0#20 ++ n ++ o.k.enc) = some o.k := maskOf_enc _ _
  have h1 : zeroBits (0#20 ++ n ++ o.k.enc) 12 20 = some () := by
    refine zeroBits_of ?_
    repeat first
      | exact extract_all _
      | decide
      | exact (extract_append_lo _ _ _ _ (by decide)).trans (extract_all _)
      | refine (extract_append_hi _ _ _ _ (by decide)).trans ?_
      | refine (extract_append_lo _ _ _ _ (by decide)).trans ?_
  have h2 : BitVec.extractLsb' 8 4 (0#20 ++ n ++ o.k.enc) = n := by
    repeat first
      | exact extract_all _
      | decide
      | exact (extract_append_lo _ _ _ _ (by decide)).trans (extract_all _)
      | refine (extract_append_hi _ _ _ _ (by decide)).trans ?_
      | refine (extract_append_lo _ _ _ _ (by decide)).trans ?_
  simp only [Fields.vRotOp, noByte, if_true, xReg_xByte, vReg_vByte, pReg_pByte, mReg_mByte, tileName_aByte, unused_noByte, vxReg_vxByte, vxReg_vByte, vxReg_xByte, zeroBits_zero, Option.bind_eq_bind, Option.bind_some, Option.pure_def, Option.map_some, h0, h1, h2, ← h]
theorem laneNo_x (a b : BitVec 8) (m : Mods) (r : BitVec 6) : Fields.laneNo ⟨a, b, xByte r, m, 0⟩ = some (.x r) := by
  simp only [Fields.laneNo, if_neg (xByte_ne r), xReg_xByte, vReg_vByte, pReg_pByte, mReg_mByte, tileName_aByte, unused_noByte, vxReg_vxByte, vxReg_vByte, vxReg_xByte, zeroBits_zero, Option.bind_eq_bind, Option.bind_some, Option.pure_def, Option.map_some]
theorem laneNo_imm (a b : BitVec 8) (m : Mods) (n : BitVec 4) : Fields.laneNo ⟨a, b, noByte, m, 0#28 ++ n⟩ = some (.imm n) := by
  have h0 : zeroBits (0#28 ++ n) 4 28 = some () := by
    refine zeroBits_of ?_
    repeat first
      | exact extract_all _
      | decide
      | exact (extract_append_lo _ _ _ _ (by decide)).trans (extract_all _)
      | refine (extract_append_hi _ _ _ _ (by decide)).trans ?_
      | refine (extract_append_lo _ _ _ _ (by decide)).trans ?_
  have h1 : BitVec.extractLsb' 0 4 (0#28 ++ n) = n := by
    repeat first
      | exact extract_all _
      | decide
      | exact (extract_append_lo _ _ _ _ (by decide)).trans (extract_all _)
      | refine (extract_append_hi _ _ _ _ (by decide)).trans ?_
      | refine (extract_append_lo _ _ _ _ (by decide)).trans ?_
  simp only [Fields.laneNo, noByte, if_true, xReg_xByte, vReg_vByte, pReg_pByte, mReg_mByte, tileName_aByte, unused_noByte, vxReg_vxByte, vxReg_vByte, vxReg_xByte, zeroBits_zero, Option.bind_eq_bind, Option.bind_some, Option.pure_def, Option.map_some, h0, h1]
theorem dec_vExtOp_x (o : VExtOp) (r : BitVec 6) (h : o.n = .x r) : Fields.vExtOp ⟨xByte o.a, vByte o.b, xByte r, o.m, 0⟩ = some o := by
  simp only [Fields.vExtOp, laneNo_x, xReg_xByte, vReg_vByte, pReg_pByte, mReg_mByte, tileName_aByte, unused_noByte, vxReg_vxByte, vxReg_vByte, vxReg_xByte, zeroBits_zero, Option.bind_eq_bind, Option.bind_some, Option.pure_def, Option.map_some, ← h]
theorem dec_vExtOp_imm (o : VExtOp) (n : BitVec 4) (h : o.n = .imm n) :
    Fields.vExtOp ⟨xByte o.a, vByte o.b, noByte, o.m, 0#28 ++ n⟩ = some o := by
  simp only [Fields.vExtOp, laneNo_imm, xReg_xByte, vReg_vByte, pReg_pByte, mReg_mByte, tileName_aByte, unused_noByte, vxReg_vxByte, vxReg_vByte, vxReg_xByte, zeroBits_zero, Option.bind_eq_bind, Option.bind_some, Option.pure_def, Option.map_some, ← h]
theorem dec_vInsOp_x (o : VInsOp) (r : BitVec 6) (h : o.n = .x r) : Fields.vInsOp ⟨vByte o.a, xByte o.b, xByte r, o.m, 0⟩ = some o := by
  simp only [Fields.vInsOp, laneNo_x, xReg_xByte, vReg_vByte, pReg_pByte, mReg_mByte, tileName_aByte, unused_noByte, vxReg_vxByte, vxReg_vByte, vxReg_xByte, zeroBits_zero, Option.bind_eq_bind, Option.bind_some, Option.pure_def, Option.map_some, ← h]
theorem dec_vInsOp_imm (o : VInsOp) (n : BitVec 4) (h : o.n = .imm n) :
    Fields.vInsOp ⟨vByte o.a, xByte o.b, noByte, o.m, 0#28 ++ n⟩ = some o := by
  simp only [Fields.vInsOp, laneNo_imm, xReg_xByte, vReg_vByte, pReg_pByte, mReg_mByte, tileName_aByte, unused_noByte, vxReg_vxByte, vxReg_vByte, vxReg_xByte, zeroBits_zero, Option.bind_eq_bind, Option.bind_some, Option.pure_def, Option.map_some, ← h]
theorem dec_mSetOp_x (o : MSetOp) (r : BitVec 6) (h : o.s = .x r) : Fields.mSetOp ⟨mByte o.a, xByte r, noByte, o.m, 0⟩ = some o := by
  simp only [Fields.mSetOp, if_neg (xByte_ne r), xReg_xByte, vReg_vByte, pReg_pByte, mReg_mByte, tileName_aByte, unused_noByte, vxReg_vxByte, vxReg_vByte, vxReg_xByte, zeroBits_zero, Option.bind_eq_bind, Option.bind_some, Option.pure_def, Option.map_some, ← h]
theorem dec_mSetOp_imm (o : MSetOp) (n : BitVec 16) (h : o.s = .imm n) :
    Fields.mSetOp ⟨mByte o.a, noByte, noByte, o.m, 0#16 ++ n⟩ = some o := by
  have h0 : zeroBits (0#16 ++ n) 16 16 = some () := by
    refine zeroBits_of ?_
    repeat first
      | exact extract_all _
      | decide
      | exact (extract_append_lo _ _ _ _ (by decide)).trans (extract_all _)
      | refine (extract_append_hi _ _ _ _ (by decide)).trans ?_
      | refine (extract_append_lo _ _ _ _ (by decide)).trans ?_
  have h1 : BitVec.extractLsb' 0 16 (0#16 ++ n) = n := by
    repeat first
      | exact extract_all _
      | decide
      | exact (extract_append_lo _ _ _ _ (by decide)).trans (extract_all _)
      | refine (extract_append_hi _ _ _ _ (by decide)).trans ?_
      | refine (extract_append_lo _ _ _ _ (by decide)).trans ?_
  have hu : unused (0xFF : BitVec 8) = some () := rfl
  simp only [Fields.mSetOp, noByte, hu, if_true, xReg_xByte, vReg_vByte, pReg_pByte, mReg_mByte, tileName_aByte, unused_noByte, vxReg_vxByte, vxReg_vByte, vxReg_xByte, zeroBits_zero, Option.bind_eq_bind, Option.bind_some, Option.pure_def, Option.map_some, h0, h1, ← h]
/-- The franking and tag fields read back, whatever stands above them (R270). -/
theorem mxTail_enc (a b c : BitVec 8) (m : Mods) (u : BitVec 16) (t : MxTail) : Fields.mxTail ⟨a, b, c, m, u ++ t.enc⟩ = some t := by
  obtain ⟨far, tag⟩ := t
  have e (s l : Nat) (h : s + l ≤ 16) : BitVec.extractLsb' s l (u ++ MxTail.enc ⟨far, tag⟩) = (MxTail.enc ⟨far, tag⟩).extractLsb' s l :=
    extract_append_lo u _ s l h
  have g (s : Nat) (h : s < 16) : BitVec.getLsbD (u ++ MxTail.enc ⟨far, tag⟩) s = (MxTail.enc ⟨far, tag⟩).getLsbD s :=
    getLsbD_append_lo u _ s h
  have z : (MxTail.enc ⟨far, tag⟩).extractLsb' 14 2 = 0 := by
    unfold MxTail.enc
    repeat first
      | exact extract_all _
      | decide
      | exact (extract_append_lo _ _ _ _ (by decide)).trans (extract_all _)
      | refine (extract_append_hi _ _ _ _ (by decide)).trans ?_
      | refine (extract_append_lo _ _ _ _ (by decide)).trans ?_
  have f : (MxTail.enc ⟨far, tag⟩).extractLsb' 8 6 = far.getD 0 := by
    unfold MxTail.enc
    repeat first
      | exact extract_all _
      | decide
      | exact (extract_append_lo _ _ _ _ (by decide)).trans (extract_all _)
      | refine (extract_append_hi _ _ _ _ (by decide)).trans ?_
      | refine (extract_append_lo _ _ _ _ (by decide)).trans ?_
  have n : (MxTail.enc ⟨far, tag⟩).extractLsb' 0 6 = tag.getD 0 := by
    unfold MxTail.enc
    repeat first
      | exact extract_all _
      | decide
      | exact (extract_append_lo _ _ _ _ (by decide)).trans (extract_all _)
      | refine (extract_append_hi _ _ _ _ (by decide)).trans ?_
      | refine (extract_append_lo _ _ _ _ (by decide)).trans ?_
  have hf : (MxTail.enc ⟨far, tag⟩).getLsbD 6 = far.isSome := by
    unfold MxTail.enc
    repeat first
      | exact getLsbD_ofBool_zero _
      | decide
      | refine (getLsbD_append_lo _ _ _ (by decide)).trans ?_
      | refine (getLsbD_append_hi _ _ _ (by decide)).trans ?_
  have ht : (MxTail.enc ⟨far, tag⟩).getLsbD 7 = tag.isSome := by
    unfold MxTail.enc
    repeat first
      | exact getLsbD_ofBool_zero _
      | decide
      | refine (getLsbD_append_lo _ _ _ (by decide)).trans ?_
      | refine (getLsbD_append_hi _ _ _ (by decide)).trans ?_
  have hz : zeroBits (u ++ MxTail.enc ⟨far, tag⟩) 14 2 = some () := zeroBits_of ((e 14 2 (by decide)).trans z)
  simp only [Fields.mxTail, hz, g 6 (by decide), g 7 (by decide), hf, ht, e 8 6 (by decide), e 0 6 (by decide), f, n]
  have z8 (h : far = none) : zeroBits (u ++ MxTail.enc ⟨far, tag⟩) 8 6 = some () :=
    zeroBits_of ((e 8 6 (by decide)).trans (f.trans (by rw [h]; rfl)))
  have z0 (h : tag = none) : zeroBits (u ++ MxTail.enc ⟨far, tag⟩) 0 6 = some () :=
    zeroBits_of ((e 0 6 (by decide)).trans (n.trans (by rw [h]; rfl)))
  cases far with
  | none =>
    simp only [z8 rfl]
    cases tag with
    | none => simp only [z0 rfl]; rfl
    | some t => rfl
  | some f =>
    cases tag with
    | none => simp only [z0 rfl]; rfl
    | some t => rfl
theorem dec_mxB (o : MxB) : Fields.mxB ⟨noByte, xByte o.b, noByte, o.m, 0#16 ++ o.tl.enc⟩ = some o := by
  have h0 : zeroBits (0#16 ++ o.tl.enc) 16 16 = some () := by
    refine zeroBits_of ?_
    repeat first
      | exact extract_all _
      | decide
      | exact (extract_append_lo _ _ _ _ (by decide)).trans (extract_all _)
      | refine (extract_append_hi _ _ _ _ (by decide)).trans ?_
      | refine (extract_append_lo _ _ _ _ (by decide)).trans ?_
  have ht : Fields.mxTail ⟨noByte, xByte o.b, noByte, o.m, 0#16 ++ o.tl.enc⟩ = some o.tl := mxTail_enc _ _ _ _ _ _
  simp only [Fields.mxB, ht, xReg_xByte, vReg_vByte, pReg_pByte, mReg_mByte, tileName_aByte, unused_noByte, vxReg_vxByte, vxReg_vByte, vxReg_xByte, zeroBits_zero, Option.bind_eq_bind, Option.bind_some, Option.pure_def, Option.map_some, h0]
theorem dec_mxCtxStOp (o : MxCtxStOp) : Fields.mxCtxStOp ⟨noByte, xByte o.b, noByte, o.m, 0#15 ++ BitVec.ofBool o.clr ++ o.tl.enc⟩ = some o := by
  have h0 : zeroBits (0#15 ++ BitVec.ofBool o.clr ++ o.tl.enc) 17 15 = some () := by
    refine zeroBits_of ?_
    repeat first
      | exact extract_all _
      | decide
      | exact (extract_append_lo _ _ _ _ (by decide)).trans (extract_all _)
      | refine (extract_append_hi _ _ _ _ (by decide)).trans ?_
      | refine (extract_append_lo _ _ _ _ (by decide)).trans ?_
  have h1 : BitVec.getLsbD (0#15 ++ BitVec.ofBool o.clr ++ o.tl.enc) 16 = o.clr := by
    repeat first
      | exact getLsbD_ofBool_zero _
      | decide
      | refine (getLsbD_append_lo _ _ _ (by decide)).trans ?_
      | refine (getLsbD_append_hi _ _ _ (by decide)).trans ?_
  have ht : Fields.mxTail ⟨noByte, xByte o.b, noByte, o.m, 0#15 ++ BitVec.ofBool o.clr ++ o.tl.enc⟩ = some o.tl := mxTail_enc _ _ _ _ _ _
  simp only [Fields.mxCtxStOp, ht, xReg_xByte, vReg_vByte, pReg_pByte, mReg_mByte, tileName_aByte, unused_noByte, vxReg_vxByte, vxReg_vByte, vxReg_xByte, zeroBits_zero, Option.bind_eq_bind, Option.bind_some, Option.pure_def, Option.map_some, h0, h1]
theorem dec_mxT (o : MxT) : Fields.mxT ⟨aByte o.tile, noByte, noByte, o.m, 0#16 ++ o.tl.enc⟩ = some o := by
  have h0 : zeroBits (0#16 ++ o.tl.enc) 16 16 = some () := by
    refine zeroBits_of ?_
    repeat first
      | exact extract_all _
      | decide
      | exact (extract_append_lo _ _ _ _ (by decide)).trans (extract_all _)
      | refine (extract_append_hi _ _ _ _ (by decide)).trans ?_
      | refine (extract_append_lo _ _ _ _ (by decide)).trans ?_
  have ht : Fields.mxTail ⟨aByte o.tile, noByte, noByte, o.m, 0#16 ++ o.tl.enc⟩ = some o.tl := mxTail_enc _ _ _ _ _ _
  simp only [Fields.mxT, ht, xReg_xByte, vReg_vByte, pReg_pByte, mReg_mByte, tileName_aByte, unused_noByte, vxReg_vxByte, vxReg_vByte, vxReg_xByte, zeroBits_zero, Option.bind_eq_bind, Option.bind_some, Option.pure_def, Option.map_some, h0]
theorem dec_mxMm (o : MxMm) (h : o.k ≠ 0) : Fields.mxMm ⟨aByte o.tile, xByte o.b, xByte o.c, o.m, o.k ++ o.tl.enc⟩ = some o := by
  have h0 : BitVec.extractLsb' 16 16 (o.k ++ o.tl.enc) = o.k := by
    repeat first
      | exact extract_all _
      | decide
      | exact (extract_append_lo _ _ _ _ (by decide)).trans (extract_all _)
      | refine (extract_append_hi _ _ _ _ (by decide)).trans ?_
      | refine (extract_append_lo _ _ _ _ (by decide)).trans ?_
  have ht : Fields.mxTail ⟨aByte o.tile, xByte o.b, xByte o.c, o.m, o.k ++ o.tl.enc⟩ = some o.tl := mxTail_enc _ _ _ _ _ _
  simp only [Fields.mxMm, ht, xReg_xByte, vReg_vByte, pReg_pByte, mReg_mByte, tileName_aByte, unused_noByte, vxReg_vxByte, vxReg_vByte, vxReg_xByte, zeroBits_zero, Option.bind_eq_bind, Option.bind_some, Option.pure_def, Option.map_some, h0, if_neg h]
theorem dec_mxGmm (o : MxMm) (h : o.k ≠ 0) (hk : o.k.toNat ≤ 32768) :
    Fields.mxGmm ⟨aByte o.tile, xByte o.b, xByte o.c, o.m, o.k ++ o.tl.enc⟩ = some o := by
  simp only [Fields.mxGmm, dec_mxMm o h, Option.bind_eq_bind, Option.bind_some, if_pos hk]
theorem dec_mxConvOp (o : MxConvOp) : Fields.mxConvOp ⟨aByte o.tile, xByte o.b, xByte o.c, o.m, 0#16 ++ o.tl.enc⟩ = some o := by
  have h0 : zeroBits (0#16 ++ o.tl.enc) 16 16 = some () := by
    refine zeroBits_of ?_
    repeat first
      | exact extract_all _
      | decide
      | exact (extract_append_lo _ _ _ _ (by decide)).trans (extract_all _)
      | refine (extract_append_hi _ _ _ _ (by decide)).trans ?_
      | refine (extract_append_lo _ _ _ _ (by decide)).trans ?_
  have ht : Fields.mxTail ⟨aByte o.tile, xByte o.b, xByte o.c, o.m, 0#16 ++ o.tl.enc⟩ = some o.tl := mxTail_enc _ _ _ _ _ _
  simp only [Fields.mxConvOp, ht, xReg_xByte, vReg_vByte, pReg_pByte, mReg_mByte, tileName_aByte, unused_noByte, vxReg_vxByte, vxReg_vByte, vxReg_xByte, zeroBits_zero, Option.bind_eq_bind, Option.bind_some, Option.pure_def, Option.map_some, h0]
theorem dec_mxLdSt (o : MxLdSt) (h : o.fmt.toNat ≤ 0xA) : Fields.mxLdSt ⟨aByte o.tile, xByte o.b, noByte, o.m, 0#12 ++ o.fmt ++ o.tl.enc⟩ = some o := by
  have h0 : zeroBits (0#12 ++ o.fmt ++ o.tl.enc) 20 12 = some () := by
    refine zeroBits_of ?_
    repeat first
      | exact extract_all _
      | decide
      | exact (extract_append_lo _ _ _ _ (by decide)).trans (extract_all _)
      | refine (extract_append_hi _ _ _ _ (by decide)).trans ?_
      | refine (extract_append_lo _ _ _ _ (by decide)).trans ?_
  have h1 : BitVec.extractLsb' 16 4 (0#12 ++ o.fmt ++ o.tl.enc) = o.fmt := by
    repeat first
      | exact extract_all _
      | decide
      | exact (extract_append_lo _ _ _ _ (by decide)).trans (extract_all _)
      | refine (extract_append_hi _ _ _ _ (by decide)).trans ?_
      | refine (extract_append_lo _ _ _ _ (by decide)).trans ?_
  have ht : Fields.mxTail ⟨aByte o.tile, xByte o.b, noByte, o.m, 0#12 ++ o.fmt ++ o.tl.enc⟩ = some o.tl := mxTail_enc _ _ _ _ _ _
  simp only [Fields.mxLdSt, ht, xReg_xByte, vReg_vByte, pReg_pByte, mReg_mByte, tileName_aByte, unused_noByte, vxReg_vxByte, vxReg_vByte, vxReg_xByte, zeroBits_zero, Option.bind_eq_bind, Option.bind_some, Option.pure_def, Option.map_some, h0, h1, if_pos h]
theorem sysRegOf_number (r : SysReg) : sysRegOf r.number.toNat = some r := by cases r <;> rfl
theorem dec_srOp (o : SrOp) : Fields.srOp ⟨xByte o.a, noByte, noByte, o.m, 0#20 ++ o.r.number⟩ = some o := by
  have h0 : zeroBits (0#20 ++ o.r.number) 12 20 = some () := by
    refine zeroBits_of ?_
    repeat first
      | exact extract_all _
      | decide
      | exact (extract_append_lo _ _ _ _ (by decide)).trans (extract_all _)
      | refine (extract_append_hi _ _ _ _ (by decide)).trans ?_
      | refine (extract_append_lo _ _ _ _ (by decide)).trans ?_
  have h1 : BitVec.extractLsb' 0 12 (0#20 ++ o.r.number) = o.r.number := by
    repeat first
      | exact extract_all _
      | decide
      | exact (extract_append_lo _ _ _ _ (by decide)).trans (extract_all _)
      | refine (extract_append_hi _ _ _ _ (by decide)).trans ?_
      | refine (extract_append_lo _ _ _ _ (by decide)).trans ?_
  simp only [Fields.srOp, xReg_xByte, vReg_vByte, pReg_pByte, mReg_mByte, tileName_aByte, unused_noByte, vxReg_vxByte, vxReg_vByte, vxReg_xByte, zeroBits_zero, Option.bind_eq_bind, Option.bind_some, Option.pure_def, Option.map_some, h0, h1, sysRegOf_number]
theorem dec_wrArgs (o : SrOp) (h : o.r.writable = true) :
    Fields.wrArgs ⟨xByte o.a, noByte, noByte, o.m, 0#20 ++ o.r.number⟩ = some o := by
  simp only [Fields.wrArgs, dec_srOp, Option.bind_eq_bind, Option.bind_some, if_pos h]

/-! ## One lemma per constructor -/

namespace Laws.RoundTrip

/-- The word of a well-formed instruction decodes to it; an event of the table has no word. -/
def Statement (i : Instr) : Prop := i.wf = true → decode (encode i) = .ok i ∨ ∃ e : Event, i = e.toInstr

theorem of_shape {α : Type} {x : Option α} {o : α} {f : α → Instr} {maj fn a b c : BitVec 8} {m : Mods} {imm : BitVec 32}
    (h : maj.toNat < 0xF0) (hd : decodeMajor maj.toNat fn.toNat ⟨a, b, c, m, imm⟩ = some (x.map f))
    (he : encode (f o) = word maj fn a b c m imm) (hx : (f o).wf = true → x = some o) : Statement (f o) :=
  fun hw => .inl (he ▸ decode_word h (hd.trans (by rw [hx hw]; rfl)))

theorem add (o : XXX) : Statement (.add o) :=
  of_shape (f := .add) (by decide) rfl rfl fun _ => dec_xXX o
theorem sub (o : XXX) : Statement (.sub o) :=
  of_shape (f := .sub) (by decide) rfl rfl fun _ => dec_xXX o
theorem and (o : XXX) : Statement (.and o) :=
  of_shape (f := .and) (by decide) rfl rfl fun _ => dec_xXX o
theorem or (o : XXX) : Statement (.or o) :=
  of_shape (f := .or) (by decide) rfl rfl fun _ => dec_xXX o
theorem xor (o : XXX) : Statement (.xor o) :=
  of_shape (f := .xor) (by decide) rfl rfl fun _ => dec_xXX o
theorem andn (o : XXX) : Statement (.andn o) :=
  of_shape (f := .andn) (by decide) rfl rfl fun _ => dec_xXX o
theorem orn (o : XXX) : Statement (.orn o) :=
  of_shape (f := .orn) (by decide) rfl rfl fun _ => dec_xXX o
theorem shl (o : XXX) : Statement (.shl o) :=
  of_shape (f := .shl) (by decide) rfl rfl fun _ => dec_xXX o
theorem shr (o : XXX) : Statement (.shr o) :=
  of_shape (f := .shr) (by decide) rfl rfl fun _ => dec_xXX o
theorem sra (o : XXX) : Statement (.sra o) :=
  of_shape (f := .sra) (by decide) rfl rfl fun _ => dec_xXX o
theorem rol (o : XXX) : Statement (.rol o) :=
  of_shape (f := .rol) (by decide) rfl rfl fun _ => dec_xXX o
theorem ror (o : XXX) : Statement (.ror o) :=
  of_shape (f := .ror) (by decide) rfl rfl fun _ => dec_xXX o
theorem min (o : XXX) : Statement (.min o) :=
  of_shape (f := .min) (by decide) rfl rfl fun _ => dec_xXX o
theorem max (o : XXX) : Statement (.max o) :=
  of_shape (f := .max) (by decide) rfl rfl fun _ => dec_xXX o
theorem minu (o : XXX) : Statement (.minu o) :=
  of_shape (f := .minu) (by decide) rfl rfl fun _ => dec_xXX o
theorem maxu (o : XXX) : Statement (.maxu o) :=
  of_shape (f := .maxu) (by decide) rfl rfl fun _ => dec_xXX o
theorem sel (o : SelOp) : Statement (.sel o) :=
  of_shape (f := .sel) (by decide) rfl rfl fun _ => dec_selOp o
theorem mov (o : XX) : Statement (.mov o) :=
  of_shape (f := .mov) (by decide) rfl rfl fun _ => dec_xX o
theorem mul (o : XXX) : Statement (.mul o) :=
  of_shape (f := .mul) (by decide) rfl rfl fun _ => dec_xXX o
theorem mulh (o : XXX) : Statement (.mulh o) :=
  of_shape (f := .mulh) (by decide) rfl rfl fun _ => dec_xXX o
theorem mulhu (o : XXX) : Statement (.mulhu o) :=
  of_shape (f := .mulhu) (by decide) rfl rfl fun _ => dec_xXX o
theorem div (o : XXX) : Statement (.div o) :=
  of_shape (f := .div) (by decide) rfl rfl fun _ => dec_xXX o
theorem divu (o : XXX) : Statement (.divu o) :=
  of_shape (f := .divu) (by decide) rfl rfl fun _ => dec_xXX o
theorem rem (o : XXX) : Statement (.rem o) :=
  of_shape (f := .rem) (by decide) rfl rfl fun _ => dec_xXX o
theorem remu (o : XXX) : Statement (.remu o) :=
  of_shape (f := .remu) (by decide) rfl rfl fun _ => dec_xXX o
theorem clz (o : XX) : Statement (.clz o) :=
  of_shape (f := .clz) (by decide) rfl rfl fun _ => dec_xX o
theorem ctz (o : XX) : Statement (.ctz o) :=
  of_shape (f := .ctz) (by decide) rfl rfl fun _ => dec_xX o
theorem popc (o : XX) : Statement (.popc o) :=
  of_shape (f := .popc) (by decide) rfl rfl fun _ => dec_xX o
theorem bswap (o : XX) : Statement (.bswap o) :=
  of_shape (f := .bswap) (by decide) rfl rfl fun _ => dec_xX o
theorem addi (o : XXImm) : Statement (.addi o) :=
  of_shape (f := .addi) (by decide) rfl rfl fun _ => dec_xXImm o
theorem andi (o : XXImm) : Statement (.andi o) :=
  of_shape (f := .andi) (by decide) rfl rfl fun _ => dec_xXImm o
theorem ori (o : XXImm) : Statement (.ori o) :=
  of_shape (f := .ori) (by decide) rfl rfl fun _ => dec_xXImm o
theorem xori (o : XXImm) : Statement (.xori o) :=
  of_shape (f := .xori) (by decide) rfl rfl fun _ => dec_xXImm o
theorem shli (o : XXSh) : Statement (.shli o) :=
  of_shape (f := .shli) (by decide) rfl rfl fun _ => dec_xXSh o
theorem shri (o : XXSh) : Statement (.shri o) :=
  of_shape (f := .shri) (by decide) rfl rfl fun _ => dec_xXSh o
theorem srai (o : XXSh) : Statement (.srai o) :=
  of_shape (f := .srai) (by decide) rfl rfl fun _ => dec_xXSh o
theorem li (o : XImm) : Statement (.li o) :=
  of_shape (f := .li) (by decide) rfl rfl fun _ => dec_xImm o
theorem lih (o : XImm) : Statement (.lih o) :=
  of_shape (f := .lih) (by decide) rfl rfl fun _ => dec_xImm o
theorem lea_function (s : BitVec 2) : (0#6 ++ s).toNat < 4 ∧ BitVec.ofNat 2 (0#6 ++ s).toNat = s := by revert s; decide
theorem lea (o : LeaOp) : Statement (.lea o) := of_shape (f := .lea) (maj := 0x06) (fn := 0#6 ++ o.scale)
    (x := Fields.leaOp ⟨xByte o.a, xByte o.b, xByte o.c, o.m, o.imm⟩ o.scale) (by decide)
    (show decodeLea (0#6 ++ o.scale).toNat _ = _ by unfold decodeLea; rw [if_pos (lea_function o.scale).1, (lea_function o.scale).2]) rfl fun _ => dec_leaOp o
theorem cmpEq (o : PXX) : Statement (.cmpEq o) :=
  of_shape (f := .cmpEq) (by decide) rfl rfl fun _ => dec_pXX o
theorem cmpNe (o : PXX) : Statement (.cmpNe o) :=
  of_shape (f := .cmpNe) (by decide) rfl rfl fun _ => dec_pXX o
theorem cmpLt (o : PXX) : Statement (.cmpLt o) :=
  of_shape (f := .cmpLt) (by decide) rfl rfl fun _ => dec_pXX o
theorem cmpLe (o : PXX) : Statement (.cmpLe o) :=
  of_shape (f := .cmpLe) (by decide) rfl rfl fun _ => dec_pXX o
theorem cmpLtu (o : PXX) : Statement (.cmpLtu o) :=
  of_shape (f := .cmpLtu) (by decide) rfl rfl fun _ => dec_pXX o
theorem cmpLeu (o : PXX) : Statement (.cmpLeu o) :=
  of_shape (f := .cmpLeu) (by decide) rfl rfl fun _ => dec_pXX o
theorem cmpEqImm (o : PXImm) : Statement (.cmpEqImm o) :=
  of_shape (f := .cmpEqImm) (by decide) rfl rfl fun _ => dec_pXImm o
theorem cmpNeImm (o : PXImm) : Statement (.cmpNeImm o) :=
  of_shape (f := .cmpNeImm) (by decide) rfl rfl fun _ => dec_pXImm o
theorem cmpLtImm (o : PXImm) : Statement (.cmpLtImm o) :=
  of_shape (f := .cmpLtImm) (by decide) rfl rfl fun _ => dec_pXImm o
theorem cmpLeImm (o : PXImm) : Statement (.cmpLeImm o) :=
  of_shape (f := .cmpLeImm) (by decide) rfl rfl fun _ => dec_pXImm o
theorem cmpLtuImm (o : PXImm) : Statement (.cmpLtuImm o) :=
  of_shape (f := .cmpLtuImm) (by decide) rfl rfl fun _ => dec_pXImm o
theorem cmpLeuImm (o : PXImm) : Statement (.cmpLeuImm o) :=
  of_shape (f := .cmpLeuImm) (by decide) rfl rfl fun _ => dec_pXImm o
theorem pand (o : PPP) : Statement (.pand o) :=
  of_shape (f := .pand) (by decide) rfl rfl fun _ => dec_pPP o
theorem por (o : PPP) : Statement (.por o) :=
  of_shape (f := .por) (by decide) rfl rfl fun _ => dec_pPP o
theorem pxor (o : PPP) : Statement (.pxor o) :=
  of_shape (f := .pxor) (by decide) rfl rfl fun _ => dec_pPP o
theorem pnot (o : PP) : Statement (.pnot o) :=
  of_shape (f := .pnot) (by decide) rfl rfl fun _ => dec_pP o
theorem br (o : ImmOp) : Statement (.br o) :=
  of_shape (f := .br) (by decide) rfl rfl fun _ => dec_immOp o
theorem jmp (o : XImm) : Statement (.jmp o) :=
  of_shape (f := .jmp) (by decide) rfl rfl fun _ => dec_xImm o
theorem call (o : XImm) : Statement (.call o) :=
  of_shape (f := .call) (by decide) rfl rfl fun _ => dec_xImm o
theorem callx (o : XXImm) : Statement (.callx o) :=
  of_shape (f := .callx) (by decide) rfl rfl fun _ => dec_xXImm o
theorem ret (o : XOp) : Statement (.ret o) :=
  of_shape (f := .ret) (by decide) rfl rfl fun _ => dec_xOp o
theorem brtagSet (o : TagBr) : Statement (.brtagSet o) :=
  of_shape (f := .brtagSet) (by decide) rfl rfl fun _ => dec_tagBr o
theorem brtagClr (o : TagBr) : Statement (.brtagClr o) :=
  of_shape (f := .brtagClr) (by decide) rfl rfl fun _ => dec_tagBr o
theorem brtagErr (o : TagBr) : Statement (.brtagErr o) :=
  of_shape (f := .brtagErr) (by decide) rfl rfl fun _ => dec_tagBr o
theorem loop (o : XImm) : Statement (.loop o) := of_shape (f := .loop) (by decide) rfl rfl fun h => dec_loopArgs o (by simpa [Instr.wf] using h)
theorem faddF32 (o : XXX) : Statement (.faddF32 o) :=
  of_shape (f := .faddF32) (by decide) rfl rfl fun _ => dec_xXX o
theorem fsubF32 (o : XXX) : Statement (.fsubF32 o) :=
  of_shape (f := .fsubF32) (by decide) rfl rfl fun _ => dec_xXX o
theorem fmulF32 (o : XXX) : Statement (.fmulF32 o) :=
  of_shape (f := .fmulF32) (by decide) rfl rfl fun _ => dec_xXX o
theorem fmaF32 (o : XXX) : Statement (.fmaF32 o) :=
  of_shape (f := .fmaF32) (by decide) rfl rfl fun _ => dec_xXX o
theorem fmsF32 (o : XXX) : Statement (.fmsF32 o) :=
  of_shape (f := .fmsF32) (by decide) rfl rfl fun _ => dec_xXX o
theorem fnmaF32 (o : XXX) : Statement (.fnmaF32 o) :=
  of_shape (f := .fnmaF32) (by decide) rfl rfl fun _ => dec_xXX o
theorem fdivF32 (o : XXX) : Statement (.fdivF32 o) :=
  of_shape (f := .fdivF32) (by decide) rfl rfl fun _ => dec_xXX o
theorem fsqrtF32 (o : XX) : Statement (.fsqrtF32 o) :=
  of_shape (f := .fsqrtF32) (by decide) rfl rfl fun _ => dec_xX o
theorem fminF32 (o : XXX) : Statement (.fminF32 o) :=
  of_shape (f := .fminF32) (by decide) rfl rfl fun _ => dec_xXX o
theorem fmaxF32 (o : XXX) : Statement (.fmaxF32 o) :=
  of_shape (f := .fmaxF32) (by decide) rfl rfl fun _ => dec_xXX o
theorem fabsF32 (o : XX) : Statement (.fabsF32 o) :=
  of_shape (f := .fabsF32) (by decide) rfl rfl fun _ => dec_xX o
theorem fnegF32 (o : XX) : Statement (.fnegF32 o) :=
  of_shape (f := .fnegF32) (by decide) rfl rfl fun _ => dec_xX o
theorem fcmpEqF32 (o : PXX) : Statement (.fcmpEqF32 o) :=
  of_shape (f := .fcmpEqF32) (by decide) rfl rfl fun _ => dec_pXX o
theorem fcmpLtF32 (o : PXX) : Statement (.fcmpLtF32 o) :=
  of_shape (f := .fcmpLtF32) (by decide) rfl rfl fun _ => dec_pXX o
theorem fcmpLeF32 (o : PXX) : Statement (.fcmpLeF32 o) :=
  of_shape (f := .fcmpLeF32) (by decide) rfl rfl fun _ => dec_pXX o
theorem fcmpUnF32 (o : PXX) : Statement (.fcmpUnF32 o) :=
  of_shape (f := .fcmpUnF32) (by decide) rfl rfl fun _ => dec_pXX o
theorem fclsF32 (o : XX) : Statement (.fclsF32 o) :=
  of_shape (f := .fclsF32) (by decide) rfl rfl fun _ => dec_xX o
theorem cvt_function (rm : BitVec 2) (d s : BitVec 3) :
    (BitVec.ofNat 8 (rm ++ d ++ s).toNat).extractLsb' 3 3 = d ∧ (BitVec.ofNat 8 (rm ++ d ++ s).toNat).extractLsb' 0 3 = s ∧
      (BitVec.ofNat 8 (rm ++ d ++ s).toNat).extractLsb' 6 2 = rm := by revert rm d s; decide
theorem cvt (o : CvtOp) : Statement (.cvt o) := fun hw => of_shape (f := .cvt) (maj := 0x32) (fn := o.rm ++ o.dst ++ o.src) (x := Fields.cvtOp ⟨xByte o.a, xByte o.b, noByte, o.m, 0⟩ o.rm o.dst o.src) (by decide)
    (show decodeCvt (o.rm ++ o.dst ++ o.src).toNat _ = _ by
      have n := cvt_function o.rm o.dst o.src
      have w : o.dst ≠ o.src := by simpa [Instr.wf] using hw
      simp only [decodeCvt, n.1, n.2.1, n.2.2, if_neg w]) rfl (fun _ => dec_cvtOp o) hw
theorem vaddI32 (o : V3) : Statement (.vaddI32 o) :=
  of_shape (f := .vaddI32) (by decide) rfl rfl fun _ => dec_v3 o
theorem vsubI32 (o : V3) : Statement (.vsubI32 o) :=
  of_shape (f := .vsubI32) (by decide) rfl rfl fun _ => dec_v3 o
theorem vmulI32 (o : V3) : Statement (.vmulI32 o) :=
  of_shape (f := .vmulI32) (by decide) rfl rfl fun _ => dec_v3 o
theorem vmulhI32 (o : V3) : Statement (.vmulhI32 o) :=
  of_shape (f := .vmulhI32) (by decide) rfl rfl fun _ => dec_v3 o
theorem vmulhUi32 (o : V3) : Statement (.vmulhUi32 o) :=
  of_shape (f := .vmulhUi32) (by decide) rfl rfl fun _ => dec_v3 o
theorem vminI32 (o : V3) : Statement (.vminI32 o) :=
  of_shape (f := .vminI32) (by decide) rfl rfl fun _ => dec_v3 o
theorem vmaxI32 (o : V3) : Statement (.vmaxI32 o) :=
  of_shape (f := .vmaxI32) (by decide) rfl rfl fun _ => dec_v3 o
theorem vminUi32 (o : V3) : Statement (.vminUi32 o) :=
  of_shape (f := .vminUi32) (by decide) rfl rfl fun _ => dec_v3 o
theorem vmaxUi32 (o : V3) : Statement (.vmaxUi32 o) :=
  of_shape (f := .vmaxUi32) (by decide) rfl rfl fun _ => dec_v3 o
theorem vabsI32 (o : V2) : Statement (.vabsI32 o) :=
  of_shape (f := .vabsI32) (by decide) rfl rfl fun _ => dec_v2 o
theorem vnegI32 (o : V2) : Statement (.vnegI32 o) :=
  of_shape (f := .vnegI32) (by decide) rfl rfl fun _ => dec_v2 o
theorem vaddF32 (o : V3) : Statement (.vaddF32 o) :=
  of_shape (f := .vaddF32) (by decide) rfl rfl fun _ => dec_v3 o
theorem vsubF32 (o : V3) : Statement (.vsubF32 o) :=
  of_shape (f := .vsubF32) (by decide) rfl rfl fun _ => dec_v3 o
theorem vmulF32 (o : V3) : Statement (.vmulF32 o) :=
  of_shape (f := .vmulF32) (by decide) rfl rfl fun _ => dec_v3 o
theorem vfmaF32 (o : V3) : Statement (.vfmaF32 o) :=
  of_shape (f := .vfmaF32) (by decide) rfl rfl fun _ => dec_v3 o
theorem vfmsF32 (o : V3) : Statement (.vfmsF32 o) :=
  of_shape (f := .vfmsF32) (by decide) rfl rfl fun _ => dec_v3 o
theorem vminF32 (o : V3) : Statement (.vminF32 o) :=
  of_shape (f := .vminF32) (by decide) rfl rfl fun _ => dec_v3 o
theorem vmaxF32 (o : V3) : Statement (.vmaxF32 o) :=
  of_shape (f := .vmaxF32) (by decide) rfl rfl fun _ => dec_v3 o
theorem vabsF32 (o : V2) : Statement (.vabsF32 o) :=
  of_shape (f := .vabsF32) (by decide) rfl rfl fun _ => dec_v2 o
theorem vnegF32 (o : V2) : Statement (.vnegF32 o) :=
  of_shape (f := .vnegF32) (by decide) rfl rfl fun _ => dec_v2 o
theorem vand (o : V3) : Statement (.vand o) :=
  of_shape (f := .vand) (by decide) rfl rfl fun _ => dec_v3 o
theorem vor (o : V3) : Statement (.vor o) :=
  of_shape (f := .vor) (by decide) rfl rfl fun _ => dec_v3 o
theorem vxor (o : V3) : Statement (.vxor o) :=
  of_shape (f := .vxor) (by decide) rfl rfl fun _ => dec_v3 o
theorem vandn (o : V3) : Statement (.vandn o) :=
  of_shape (f := .vandn) (by decide) rfl rfl fun _ => dec_v3 o
theorem vshl (o : VShOp) : Statement (.vshl o) := by
  obtain ⟨m, a, b, c, k⟩ := o
  cases c with
  | v r => exact of_shape (f := .vshl) (by decide) rfl rfl fun _ => dec_vShOp_v ⟨m, a, b, .v r, k⟩ r rfl
  | x r => exact of_shape (f := .vshl) (by decide) rfl rfl fun _ => dec_vShOp_x ⟨m, a, b, .x r, k⟩ r rfl
  | imm r => exact of_shape (f := .vshl) (by decide) rfl rfl fun _ => dec_vShOp_imm ⟨m, a, b, .imm r, k⟩ r rfl
theorem vshr (o : VShOp) : Statement (.vshr o) := by
  obtain ⟨m, a, b, c, k⟩ := o
  cases c with
  | v r => exact of_shape (f := .vshr) (by decide) rfl rfl fun _ => dec_vShOp_v ⟨m, a, b, .v r, k⟩ r rfl
  | x r => exact of_shape (f := .vshr) (by decide) rfl rfl fun _ => dec_vShOp_x ⟨m, a, b, .x r, k⟩ r rfl
  | imm r => exact of_shape (f := .vshr) (by decide) rfl rfl fun _ => dec_vShOp_imm ⟨m, a, b, .imm r, k⟩ r rfl
theorem vsra (o : VShOp) : Statement (.vsra o) := by
  obtain ⟨m, a, b, c, k⟩ := o
  cases c with
  | v r => exact of_shape (f := .vsra) (by decide) rfl rfl fun _ => dec_vShOp_v ⟨m, a, b, .v r, k⟩ r rfl
  | x r => exact of_shape (f := .vsra) (by decide) rfl rfl fun _ => dec_vShOp_x ⟨m, a, b, .x r, k⟩ r rfl
  | imm r => exact of_shape (f := .vsra) (by decide) rfl rfl fun _ => dec_vShOp_imm ⟨m, a, b, .imm r, k⟩ r rfl
theorem vcmpEqI32 (o : VCmpOp) : Statement (.vcmpEqI32 o) :=
  of_shape (f := .vcmpEqI32) (by decide) rfl rfl fun _ => dec_vCmpOp o
theorem vcmpNeI32 (o : VCmpOp) : Statement (.vcmpNeI32 o) :=
  of_shape (f := .vcmpNeI32) (by decide) rfl rfl fun _ => dec_vCmpOp o
theorem vcmpLtI32 (o : VCmpOp) : Statement (.vcmpLtI32 o) :=
  of_shape (f := .vcmpLtI32) (by decide) rfl rfl fun _ => dec_vCmpOp o
theorem vcmpLeI32 (o : VCmpOp) : Statement (.vcmpLeI32 o) :=
  of_shape (f := .vcmpLeI32) (by decide) rfl rfl fun _ => dec_vCmpOp o
theorem vcmpLtUi32 (o : VCmpOp) : Statement (.vcmpLtUi32 o) :=
  of_shape (f := .vcmpLtUi32) (by decide) rfl rfl fun _ => dec_vCmpOp o
theorem vcmpLeUi32 (o : VCmpOp) : Statement (.vcmpLeUi32 o) :=
  of_shape (f := .vcmpLeUi32) (by decide) rfl rfl fun _ => dec_vCmpOp o
theorem vcmpEqF32 (o : VCmpOp) : Statement (.vcmpEqF32 o) :=
  of_shape (f := .vcmpEqF32) (by decide) rfl rfl fun _ => dec_vCmpOp o
theorem vcmpLtF32 (o : VCmpOp) : Statement (.vcmpLtF32 o) :=
  of_shape (f := .vcmpLtF32) (by decide) rfl rfl fun _ => dec_vCmpOp o
theorem vcmpLeF32 (o : VCmpOp) : Statement (.vcmpLeF32 o) :=
  of_shape (f := .vcmpLeF32) (by decide) rfl rfl fun _ => dec_vCmpOp o
theorem vcmpUnF32 (o : VCmpOp) : Statement (.vcmpUnF32 o) :=
  of_shape (f := .vcmpUnF32) (by decide) rfl rfl fun _ => dec_vCmpOp o
theorem vsel (o : VSelOp) : Statement (.vsel o) :=
  of_shape (f := .vsel) (by decide) rfl rfl fun _ => dec_vSelOp o
theorem vsplat (o : VSplatOp) : Statement (.vsplat o) :=
  of_shape (f := .vsplat) (by decide) rfl rfl fun _ => dec_vSplatOp o
theorem vsplatI (o : VSplatI) : Statement (.vsplatI o) :=
  of_shape (f := .vsplatI) (by decide) rfl rfl fun _ => dec_vSplatI o
theorem vmov (o : V2) : Statement (.vmov o) :=
  of_shape (f := .vmov) (by decide) rfl rfl fun _ => dec_v2 o
theorem vext (o : VExtOp) : Statement (.vext o) := by
  obtain ⟨m, a, b, n⟩ := o
  cases n with
  | x r => exact of_shape (f := .vext) (by decide) rfl rfl fun _ => dec_vExtOp_x ⟨m, a, b, .x r⟩ r rfl
  | imm r => exact of_shape (f := .vext) (by decide) rfl rfl fun _ => dec_vExtOp_imm ⟨m, a, b, .imm r⟩ r rfl
theorem vins (o : VInsOp) : Statement (.vins o) := by
  obtain ⟨m, a, b, n⟩ := o
  cases n with
  | x r => exact of_shape (f := .vins) (by decide) rfl rfl fun _ => dec_vInsOp_x ⟨m, a, b, .x r⟩ r rfl
  | imm r => exact of_shape (f := .vins) (by decide) rfl rfl fun _ => dec_vInsOp_imm ⟨m, a, b, .imm r⟩ r rfl
theorem vperm (o : VVV) : Statement (.vperm o) :=
  of_shape (f := .vperm) (by decide) rfl rfl fun _ => dec_vVV o
theorem vshufl (o : VShufOp) : Statement (.vshufl o) :=
  of_shape (f := .vshufl) (by decide) rfl rfl fun _ => dec_vShufOp o
theorem vrot (o : VRotOp) : Statement (.vrot o) := by
  obtain ⟨m, a, b, n, k⟩ := o
  cases n with
  | x r => exact of_shape (f := .vrot) (by decide) rfl rfl fun _ => dec_vRotOp_x ⟨m, a, b, .x r, k⟩ r rfl
  | imm r => exact of_shape (f := .vrot) (by decide) rfl rfl fun _ => dec_vRotOp_imm ⟨m, a, b, .imm r, k⟩ r rfl
theorem vredaddI32 (o : VRedOp) : Statement (.vredaddI32 o) :=
  of_shape (f := .vredaddI32) (by decide) rfl rfl fun _ => dec_vRedOp o
theorem vredaddF32 (o : VRedOp) : Statement (.vredaddF32 o) :=
  of_shape (f := .vredaddF32) (by decide) rfl rfl fun _ => dec_vRedOp o
theorem vredminI32 (o : VRedOp) : Statement (.vredminI32 o) :=
  of_shape (f := .vredminI32) (by decide) rfl rfl fun _ => dec_vRedOp o
theorem vredminUi32 (o : VRedOp) : Statement (.vredminUi32 o) :=
  of_shape (f := .vredminUi32) (by decide) rfl rfl fun _ => dec_vRedOp o
theorem vredminF32 (o : VRedOp) : Statement (.vredminF32 o) :=
  of_shape (f := .vredminF32) (by decide) rfl rfl fun _ => dec_vRedOp o
theorem vredmaxI32 (o : VRedOp) : Statement (.vredmaxI32 o) :=
  of_shape (f := .vredmaxI32) (by decide) rfl rfl fun _ => dec_vRedOp o
theorem vredmaxUi32 (o : VRedOp) : Statement (.vredmaxUi32 o) :=
  of_shape (f := .vredmaxUi32) (by decide) rfl rfl fun _ => dec_vRedOp o
theorem vredmaxF32 (o : VRedOp) : Statement (.vredmaxF32 o) :=
  of_shape (f := .vredmaxF32) (by decide) rfl rfl fun _ => dec_vRedOp o
theorem vscanAddI32 (o : V2) : Statement (.vscanAddI32 o) :=
  of_shape (f := .vscanAddI32) (by decide) rfl rfl fun _ => dec_v2 o
theorem vscanAddF32 (o : V2) : Statement (.vscanAddF32 o) :=
  of_shape (f := .vscanAddF32) (by decide) rfl rfl fun _ => dec_v2 o
theorem vscanMinI32 (o : V2) : Statement (.vscanMinI32 o) :=
  of_shape (f := .vscanMinI32) (by decide) rfl rfl fun _ => dec_v2 o
theorem vscanMinUi32 (o : V2) : Statement (.vscanMinUi32 o) :=
  of_shape (f := .vscanMinUi32) (by decide) rfl rfl fun _ => dec_v2 o
theorem vscanMinF32 (o : V2) : Statement (.vscanMinF32 o) :=
  of_shape (f := .vscanMinF32) (by decide) rfl rfl fun _ => dec_v2 o
theorem vscanMaxI32 (o : V2) : Statement (.vscanMaxI32 o) :=
  of_shape (f := .vscanMaxI32) (by decide) rfl rfl fun _ => dec_v2 o
theorem vscanMaxUi32 (o : V2) : Statement (.vscanMaxUi32 o) :=
  of_shape (f := .vscanMaxUi32) (by decide) rfl rfl fun _ => dec_v2 o
theorem vscanMaxF32 (o : V2) : Statement (.vscanMaxF32 o) :=
  of_shape (f := .vscanMaxF32) (by decide) rfl rfl fun _ => dec_v2 o
theorem mand (o : MMM) : Statement (.mand o) :=
  of_shape (f := .mand) (by decide) rfl rfl fun _ => dec_mMM o
theorem mor (o : MMM) : Statement (.mor o) :=
  of_shape (f := .mor) (by decide) rfl rfl fun _ => dec_mMM o
theorem mxor (o : MMM) : Statement (.mxor o) :=
  of_shape (f := .mxor) (by decide) rfl rfl fun _ => dec_mMM o
theorem mnot (o : MM) : Statement (.mnot o) :=
  of_shape (f := .mnot) (by decide) rfl rfl fun _ => dec_mM o
theorem mpop (o : XM) : Statement (.mpop o) :=
  of_shape (f := .mpop) (by decide) rfl rfl fun _ => dec_xM o
theorem mfirst (o : XM) : Statement (.mfirst o) :=
  of_shape (f := .mfirst) (by decide) rfl rfl fun _ => dec_xM o
theorem mset (o : MSetOp) : Statement (.mset o) := by
  obtain ⟨m, a, s⟩ := o
  cases s with
  | x r => exact of_shape (f := .mset) (by decide) rfl rfl fun _ => dec_mSetOp_x ⟨m, a, .x r⟩ r rfl
  | imm r => exact of_shape (f := .mset) (by decide) rfl rfl fun _ => dec_mSetOp_imm ⟨m, a, .imm r⟩ r rfl
theorem m2pAny (o : PM) : Statement (.m2pAny o) :=
  of_shape (f := .m2pAny) (by decide) rfl rfl fun _ => dec_pM o
theorem m2pAll (o : PM) : Statement (.m2pAll o) :=
  of_shape (f := .m2pAll) (by decide) rfl rfl fun _ => dec_pM o
theorem vcvt (o : VCvtOp) : Statement (.vcvt o) := fun hw => by
  have w : o.dst ≠ o.src ∧ (partOk o.src o.spart && partOk o.dst o.dpart) = true := by
    simpa [Instr.wf, and_assoc] using hw
  exact of_shape (f := .vcvt) (maj := 0x47) (fn := o.rm ++ o.dst ++ o.src)
    (x := Fields.vCvtOp ⟨vByte o.a, vByte o.b, noByte, o.m, 0#20 ++ o.dpart ++ o.spart ++ o.k.enc⟩ o.rm o.dst o.src) (by decide)
    (show decodeVcvt (o.rm ++ o.dst ++ o.src).toNat _ = _ by
      have n := cvt_function o.rm o.dst o.src
      simp only [decodeVcvt, n.1, n.2.1, n.2.2, if_neg w.1]) rfl (fun _ => dec_vCvtOp o w.2) hw
theorem vld (o : VMemOp) : Statement (.vld o) :=
  of_shape (f := .vld) (by decide) rfl rfl fun _ => dec_vMemOp o
theorem vst (o : VMemOp) : Statement (.vst o) :=
  of_shape (f := .vst) (by decide) rfl rfl fun _ => dec_vMemOp o
theorem vlds (o : VStrOp) : Statement (.vlds o) :=
  of_shape (f := .vlds) (by decide) rfl rfl fun _ => dec_vStrOp o
theorem vsts (o : VStrOp) : Statement (.vsts o) :=
  of_shape (f := .vsts) (by decide) rfl rfl fun _ => dec_vStrOp o
theorem vgather (o : VGsOp) : Statement (.vgather o) :=
  of_shape (f := .vgather) (by decide) rfl rfl fun _ => dec_vGsOp o
theorem vscatter (o : VGsOp) : Statement (.vscatter o) :=
  of_shape (f := .vscatter) (by decide) rfl rfl fun _ => dec_vGsOp o
theorem vldUnpTf6 (o : VMemOp) : Statement (.vldUnpTf6 o) :=
  of_shape (f := .vldUnpTf6) (by decide) rfl rfl fun _ => dec_vMemOp o
theorem vldUnpI4 (o : VMemOp) : Statement (.vldUnpI4 o) :=
  of_shape (f := .vldUnpI4) (by decide) rfl rfl fun _ => dec_vMemOp o
theorem vldUnpUi4 (o : VMemOp) : Statement (.vldUnpUi4 o) :=
  of_shape (f := .vldUnpUi4) (by decide) rfl rfl fun _ => dec_vMemOp o
theorem vstPkTf6 (o : VMemOp) : Statement (.vstPkTf6 o) :=
  of_shape (f := .vstPkTf6) (by decide) rfl rfl fun _ => dec_vMemOp o
theorem vstPkI4 (o : VMemOp) : Statement (.vstPkI4 o) :=
  of_shape (f := .vstPkI4) (by decide) rfl rfl fun _ => dec_vMemOp o
theorem vstPkUi4 (o : VMemOp) : Statement (.vstPkUi4 o) :=
  of_shape (f := .vstPkUi4) (by decide) rfl rfl fun _ => dec_vMemOp o
theorem vcvtLf8 (o : VLf8Op) : Statement (.vcvtLf8 o) :=
  of_shape (f := .vcvtLf8) (by decide) rfl rfl fun _ => dec_vLf8Op o
theorem vdotLf8 (o : VVV) : Statement (.vdotLf8 o) :=
  of_shape (f := .vdotLf8) (by decide) rfl rfl fun _ => dec_vVV o
theorem ldI8 (o : XXImm) : Statement (.ldI8 o) :=
  of_shape (f := .ldI8) (by decide) rfl rfl fun _ => dec_xXImm o
theorem ldUi8 (o : XXImm) : Statement (.ldUi8 o) :=
  of_shape (f := .ldUi8) (by decide) rfl rfl fun _ => dec_xXImm o
theorem ldI16 (o : XXImm) : Statement (.ldI16 o) :=
  of_shape (f := .ldI16) (by decide) rfl rfl fun _ => dec_xXImm o
theorem ldUi16 (o : XXImm) : Statement (.ldUi16 o) :=
  of_shape (f := .ldUi16) (by decide) rfl rfl fun _ => dec_xXImm o
theorem ldI32 (o : XXImm) : Statement (.ldI32 o) :=
  of_shape (f := .ldI32) (by decide) rfl rfl fun _ => dec_xXImm o
theorem ldUi32 (o : XXImm) : Statement (.ldUi32 o) :=
  of_shape (f := .ldUi32) (by decide) rfl rfl fun _ => dec_xXImm o
theorem ld64 (o : XXImm) : Statement (.ld64 o) :=
  of_shape (f := .ld64) (by decide) rfl rfl fun _ => dec_xXImm o
theorem st8 (o : XXImm) : Statement (.st8 o) :=
  of_shape (f := .st8) (by decide) rfl rfl fun _ => dec_xXImm o
theorem st16 (o : XXImm) : Statement (.st16 o) :=
  of_shape (f := .st16) (by decide) rfl rfl fun _ => dec_xXImm o
theorem st32 (o : XXImm) : Statement (.st32 o) :=
  of_shape (f := .st32) (by decide) rfl rfl fun _ => dec_xXImm o
theorem st64 (o : XXImm) : Statement (.st64 o) :=
  of_shape (f := .st64) (by decide) rfl rfl fun _ => dec_xXImm o
theorem pref (o : PrefOp) : Statement (.pref o) :=
  of_shape (f := .pref) (by decide) rfl rfl fun _ => dec_prefOp o
theorem acq_function (d w : Bool) (st : BitVec 1) :
    ((BitVec.ofNat 8 (0#3 ++ st ++ 0#2 ++ BitVec.ofBool d ++ BitVec.ofBool w).toNat).extractLsb' 5 3 = 0 && (BitVec.ofNat 8 (0#3 ++ st ++ 0#2 ++ BitVec.ofBool d ++ BitVec.ofBool w).toNat).extractLsb' 2 2 = 0) = true ∧
      (BitVec.ofNat 8 (0#3 ++ st ++ 0#2 ++ BitVec.ofBool d ++ BitVec.ofBool w).toNat).getLsbD 1 = d ∧ (BitVec.ofNat 8 (0#3 ++ st ++ 0#2 ++ BitVec.ofBool d ++ BitVec.ofBool w).toNat).getLsbD 0 = w ∧ (BitVec.ofNat 8 (0#3 ++ st ++ 0#2 ++ BitVec.ofBool d ++ BitVec.ofBool w).toNat).getLsbD 4 = (st == 1) := by
  revert d w st; decide
theorem ldAcq (o : AcqOp) : Statement (.ldAcq o) := of_shape (f := .ldAcq) (maj := 0x62) (fn := 0#3 ++ 0#1 ++ 0#2 ++ BitVec.ofBool o.dev ++ BitVec.ofBool o.w64)
    (x := Fields.acqOp ⟨xByte o.a, xByte o.b, noByte, o.m, o.imm⟩ o.dev o.w64) (by decide)
    (show decodeAcq (0#3 ++ 0#1 ++ 0#2 ++ BitVec.ofBool o.dev ++ BitVec.ofBool o.w64).toNat _ = _ by
      have n := acq_function o.dev o.w64 0#1
      simp only [decodeAcq, n.1, n.2.1, n.2.2.1, n.2.2.2]; rfl) rfl fun _ => dec_acqOp o
theorem stRel (o : AcqOp) : Statement (.stRel o) := of_shape (f := .stRel) (maj := 0x62) (fn := 0#3 ++ 1#1 ++ 0#2 ++ BitVec.ofBool o.dev ++ BitVec.ofBool o.w64)
    (x := Fields.acqOp ⟨xByte o.a, xByte o.b, noByte, o.m, o.imm⟩ o.dev o.w64) (by decide)
    (show decodeAcq (0#3 ++ 1#1 ++ 0#2 ++ BitVec.ofBool o.dev ++ BitVec.ofBool o.w64).toNat _ = _ by
      have n := acq_function o.dev o.w64 1#1
      simp only [decodeAcq, n.1, n.2.1, n.2.2.1, n.2.2.2]; rfl) rfl fun _ => dec_acqOp o
theorem amo_function (d w : Bool) (r : BitVec 2) (p : BitVec 4) :
    (BitVec.ofNat 8 (BitVec.ofBool d ++ r ++ BitVec.ofBool w ++ p).toNat).getLsbD 7 = d ∧
      (BitVec.ofNat 8 (BitVec.ofBool d ++ r ++ BitVec.ofBool w ++ p).toNat).extractLsb' 5 2 = r ∧
      (BitVec.ofNat 8 (BitVec.ofBool d ++ r ++ BitVec.ofBool w ++ p).toNat).getLsbD 4 = w ∧
      (BitVec.ofNat 8 (BitVec.ofBool d ++ r ++ BitVec.ofBool w ++ p).toNat).extractLsb' 0 4 = p := by
  revert d w r p; decide
theorem amoAdd (o : AmoArgs) : Statement (.amoAdd o) := of_shape (f := .amoAdd) (maj := 0x63) (fn := BitVec.ofBool o.dev ++ o.ord ++ BitVec.ofBool o.w64 ++ (0 : BitVec 4))
    (x := Fields.amoArgs ⟨xByte o.a, xByte o.b, xByte o.c, o.m, o.imm⟩ o.dev o.ord o.w64) (by decide)
    (show decodeAmo (BitVec.ofBool o.dev ++ o.ord ++ BitVec.ofBool o.w64 ++ (0 : BitVec 4)).toNat _ = _ by
      have n := amo_function o.dev o.w64 o.ord 0
      simp only [decodeAmo, n.1, n.2.1, n.2.2.1, n.2.2.2]; rfl) rfl fun _ => dec_amoArgs o
theorem amoAnd (o : AmoArgs) : Statement (.amoAnd o) := of_shape (f := .amoAnd) (maj := 0x63) (fn := BitVec.ofBool o.dev ++ o.ord ++ BitVec.ofBool o.w64 ++ (1 : BitVec 4))
    (x := Fields.amoArgs ⟨xByte o.a, xByte o.b, xByte o.c, o.m, o.imm⟩ o.dev o.ord o.w64) (by decide)
    (show decodeAmo (BitVec.ofBool o.dev ++ o.ord ++ BitVec.ofBool o.w64 ++ (1 : BitVec 4)).toNat _ = _ by
      have n := amo_function o.dev o.w64 o.ord 1
      simp only [decodeAmo, n.1, n.2.1, n.2.2.1, n.2.2.2]; rfl) rfl fun _ => dec_amoArgs o
theorem amoOr (o : AmoArgs) : Statement (.amoOr o) := of_shape (f := .amoOr) (maj := 0x63) (fn := BitVec.ofBool o.dev ++ o.ord ++ BitVec.ofBool o.w64 ++ (2 : BitVec 4))
    (x := Fields.amoArgs ⟨xByte o.a, xByte o.b, xByte o.c, o.m, o.imm⟩ o.dev o.ord o.w64) (by decide)
    (show decodeAmo (BitVec.ofBool o.dev ++ o.ord ++ BitVec.ofBool o.w64 ++ (2 : BitVec 4)).toNat _ = _ by
      have n := amo_function o.dev o.w64 o.ord 2
      simp only [decodeAmo, n.1, n.2.1, n.2.2.1, n.2.2.2]; rfl) rfl fun _ => dec_amoArgs o
theorem amoXor (o : AmoArgs) : Statement (.amoXor o) := of_shape (f := .amoXor) (maj := 0x63) (fn := BitVec.ofBool o.dev ++ o.ord ++ BitVec.ofBool o.w64 ++ (3 : BitVec 4))
    (x := Fields.amoArgs ⟨xByte o.a, xByte o.b, xByte o.c, o.m, o.imm⟩ o.dev o.ord o.w64) (by decide)
    (show decodeAmo (BitVec.ofBool o.dev ++ o.ord ++ BitVec.ofBool o.w64 ++ (3 : BitVec 4)).toNat _ = _ by
      have n := amo_function o.dev o.w64 o.ord 3
      simp only [decodeAmo, n.1, n.2.1, n.2.2.1, n.2.2.2]; rfl) rfl fun _ => dec_amoArgs o
theorem amoMin (o : AmoArgs) : Statement (.amoMin o) := of_shape (f := .amoMin) (maj := 0x63) (fn := BitVec.ofBool o.dev ++ o.ord ++ BitVec.ofBool o.w64 ++ (4 : BitVec 4))
    (x := Fields.amoArgs ⟨xByte o.a, xByte o.b, xByte o.c, o.m, o.imm⟩ o.dev o.ord o.w64) (by decide)
    (show decodeAmo (BitVec.ofBool o.dev ++ o.ord ++ BitVec.ofBool o.w64 ++ (4 : BitVec 4)).toNat _ = _ by
      have n := amo_function o.dev o.w64 o.ord 4
      simp only [decodeAmo, n.1, n.2.1, n.2.2.1, n.2.2.2]; rfl) rfl fun _ => dec_amoArgs o
theorem amoMax (o : AmoArgs) : Statement (.amoMax o) := of_shape (f := .amoMax) (maj := 0x63) (fn := BitVec.ofBool o.dev ++ o.ord ++ BitVec.ofBool o.w64 ++ (5 : BitVec 4))
    (x := Fields.amoArgs ⟨xByte o.a, xByte o.b, xByte o.c, o.m, o.imm⟩ o.dev o.ord o.w64) (by decide)
    (show decodeAmo (BitVec.ofBool o.dev ++ o.ord ++ BitVec.ofBool o.w64 ++ (5 : BitVec 4)).toNat _ = _ by
      have n := amo_function o.dev o.w64 o.ord 5
      simp only [decodeAmo, n.1, n.2.1, n.2.2.1, n.2.2.2]; rfl) rfl fun _ => dec_amoArgs o
theorem amoMinu (o : AmoArgs) : Statement (.amoMinu o) := of_shape (f := .amoMinu) (maj := 0x63) (fn := BitVec.ofBool o.dev ++ o.ord ++ BitVec.ofBool o.w64 ++ (6 : BitVec 4))
    (x := Fields.amoArgs ⟨xByte o.a, xByte o.b, xByte o.c, o.m, o.imm⟩ o.dev o.ord o.w64) (by decide)
    (show decodeAmo (BitVec.ofBool o.dev ++ o.ord ++ BitVec.ofBool o.w64 ++ (6 : BitVec 4)).toNat _ = _ by
      have n := amo_function o.dev o.w64 o.ord 6
      simp only [decodeAmo, n.1, n.2.1, n.2.2.1, n.2.2.2]; rfl) rfl fun _ => dec_amoArgs o
theorem amoMaxu (o : AmoArgs) : Statement (.amoMaxu o) := of_shape (f := .amoMaxu) (maj := 0x63) (fn := BitVec.ofBool o.dev ++ o.ord ++ BitVec.ofBool o.w64 ++ (7 : BitVec 4))
    (x := Fields.amoArgs ⟨xByte o.a, xByte o.b, xByte o.c, o.m, o.imm⟩ o.dev o.ord o.w64) (by decide)
    (show decodeAmo (BitVec.ofBool o.dev ++ o.ord ++ BitVec.ofBool o.w64 ++ (7 : BitVec 4)).toNat _ = _ by
      have n := amo_function o.dev o.w64 o.ord 7
      simp only [decodeAmo, n.1, n.2.1, n.2.2.1, n.2.2.2]; rfl) rfl fun _ => dec_amoArgs o
theorem amoSwap (o : AmoArgs) : Statement (.amoSwap o) := of_shape (f := .amoSwap) (maj := 0x63) (fn := BitVec.ofBool o.dev ++ o.ord ++ BitVec.ofBool o.w64 ++ (8 : BitVec 4))
    (x := Fields.amoArgs ⟨xByte o.a, xByte o.b, xByte o.c, o.m, o.imm⟩ o.dev o.ord o.w64) (by decide)
    (show decodeAmo (BitVec.ofBool o.dev ++ o.ord ++ BitVec.ofBool o.w64 ++ (8 : BitVec 4)).toNat _ = _ by
      have n := amo_function o.dev o.w64 o.ord 8
      simp only [decodeAmo, n.1, n.2.1, n.2.2.1, n.2.2.2]; rfl) rfl fun _ => dec_amoArgs o
theorem amoCas (o : AmoArgs) : Statement (.amoCas o) := of_shape (f := .amoCas) (maj := 0x63) (fn := BitVec.ofBool o.dev ++ o.ord ++ BitVec.ofBool o.w64 ++ (9 : BitVec 4))
    (x := Fields.amoArgs ⟨xByte o.a, xByte o.b, xByte o.c, o.m, o.imm⟩ o.dev o.ord o.w64) (by decide)
    (show decodeAmo (BitVec.ofBool o.dev ++ o.ord ++ BitVec.ofBool o.w64 ++ (9 : BitVec 4)).toNat _ = _ by
      have n := amo_function o.dev o.w64 o.ord 9
      simp only [decodeAmo, n.1, n.2.1, n.2.2.1, n.2.2.2]; rfl) rfl fun _ => dec_amoArgs o
theorem amoFaddF32 (o : AmoFArgs) : Statement (.amoFaddF32 o) := of_shape (f := .amoFaddF32) (maj := 0x63) (fn := BitVec.ofBool o.dev ++ o.ord ++ BitVec.ofBool false ++ 0xA#4)
    (x := Fields.amoFArgs ⟨xByte o.a, xByte o.b, xByte o.c, o.m, o.imm⟩ o.dev o.ord) (by decide)
    (show decodeAmo (BitVec.ofBool o.dev ++ o.ord ++ BitVec.ofBool false ++ 0xA#4).toNat _ = _ by
      have n := amo_function o.dev false o.ord 0xA#4
      simp only [decodeAmo, n.1, n.2.1, n.2.2.1, n.2.2.2]; rfl) rfl fun _ => dec_amoFArgs o
theorem fenceThr (o : NoneOp) : Statement (.fenceThr o) :=
  of_shape (f := .fenceThr) (by decide) rfl rfl fun _ => dec_noneOp o
theorem fenceGang (o : NoneOp) : Statement (.fenceGang o) :=
  of_shape (f := .fenceGang) (by decide) rfl rfl fun _ => dec_noneOp o
theorem fenceDev (o : NoneOp) : Statement (.fenceDev o) :=
  of_shape (f := .fenceDev) (by decide) rfl rfl fun _ => dec_noneOp o
theorem fenceXd (o : NoneOp) : Statement (.fenceXd o) :=
  of_shape (f := .fenceXd) (by decide) rfl rfl fun _ => dec_noneOp o
theorem barArrive (o : BarOp) : Statement (.barArrive o) :=
  of_shape (f := .barArrive) (by decide) rfl rfl fun _ => dec_barOp o
theorem barWait (o : BarOp) : Statement (.barWait o) :=
  of_shape (f := .barWait) (by decide) rfl rfl fun _ => dec_barOp o
theorem barSync (o : BarOp) : Statement (.barSync o) :=
  of_shape (f := .barSync) (by decide) rfl rfl fun _ => dec_barOp o
theorem barJoin (o : BarOp) : Statement (.barJoin o) :=
  of_shape (f := .barJoin) (by decide) rfl rfl fun _ => dec_barOp o
theorem barLeave (o : BarOp) : Statement (.barLeave o) :=
  of_shape (f := .barLeave) (by decide) rfl rfl fun _ => dec_barOp o
theorem barMissing (o : BarXOp) : Statement (.barMissing o) :=
  of_shape (f := .barMissing) (by decide) rfl rfl fun _ => dec_barXOp o
theorem tagWaitAny (o : XX) : Statement (.tagWaitAny o) :=
  of_shape (f := .tagWaitAny) (by decide) rfl rfl fun _ => dec_xX o
theorem tagWaitAll (o : XX) : Statement (.tagWaitAll o) :=
  of_shape (f := .tagWaitAll) (by decide) rfl rfl fun _ => dec_xX o
theorem tagWaitAnyXd (o : XX) : Statement (.tagWaitAnyXd o) :=
  of_shape (f := .tagWaitAnyXd) (by decide) rfl rfl fun _ => dec_xX o
theorem tagWaitAllXd (o : XX) : Statement (.tagWaitAllXd o) :=
  of_shape (f := .tagWaitAllXd) (by decide) rfl rfl fun _ => dec_xX o
theorem tagFirst (o : XX) : Statement (.tagFirst o) :=
  of_shape (f := .tagFirst) (by decide) rfl rfl fun _ => dec_xX o
theorem tagTest (o : XN6) : Statement (.tagTest o) :=
  of_shape (f := .tagTest) (by decide) rfl rfl fun _ => dec_xN6 o
theorem tagClr (o : XOp) : Statement (.tagClr o) :=
  of_shape (f := .tagClr) (by decide) rfl rfl fun _ => dec_xOp o
theorem cp (o : CpOp) : Statement (.cp o) := by
  have h0 : BitVec.getLsbD (0#26 ++ o.t) 6 = false := by
    repeat first
      | exact getLsbD_ofBool_zero _
      | decide
      | refine (getLsbD_append_lo _ _ _ (by decide)).trans ?_
      | refine (getLsbD_append_hi _ _ _ (by decide)).trans ?_
  refine of_shape (f := .cp) (maj := 0x73) (fn := 0) (x := Fields.cpOp ⟨xByte o.a, xByte o.b, xByte o.c, o.m, 0#26 ++ o.t⟩) (by decide)
    (show some (decodeCp ⟨xByte o.a, xByte o.b, xByte o.c, o.m, 0#26 ++ o.t⟩) = _ by simp only [decodeCp, h0]; rfl) rfl fun _ => dec_cpOp o
theorem cpDec (o : CpDecOp) : Statement (.cpDec o) := by
  have h0 : BitVec.getLsbD (0#16 ++ o.key ++ 1#2 ++ o.t) 6 = true := by
    repeat first
      | exact getLsbD_ofBool_zero _
      | decide
      | refine (getLsbD_append_lo _ _ _ (by decide)).trans ?_
      | refine (getLsbD_append_hi _ _ _ (by decide)).trans ?_
  refine of_shape (f := .cpDec) (maj := 0x73) (fn := 0) (x := Fields.cpDecOp ⟨xByte o.a, xByte o.b, xByte o.c, o.m, 0#16 ++ o.key ++ 1#2 ++ o.t⟩) (by decide)
    (show some (decodeCp ⟨xByte o.a, xByte o.b, xByte o.c, o.m, 0#16 ++ o.key ++ 1#2 ++ o.t⟩) = _ by simp only [decodeCp, h0]; rfl) rfl fun _ => dec_cpDecOp o
theorem cpFill (o : CpOp) : Statement (.cpFill o) :=
  of_shape (f := .cpFill) (by decide) rfl rfl fun _ => dec_cpOp o
theorem cpFabRd (o : FabOp) : Statement (.cpFabRd o) :=
  of_shape (f := .cpFabRd) (by decide) rfl rfl fun _ => dec_fabOp o
theorem cpFabWr (o : FabOp) : Statement (.cpFabWr o) :=
  of_shape (f := .cpFabWr) (by decide) rfl rfl fun _ => dec_fabOp o
theorem cpFabRed (o : FabRedOp) : Statement (.cpFabRed o) := of_shape (f := .cpFabRed) (by decide) rfl rfl fun h => dec_fabRedOp o (by simpa [Instr.wf] using h)
theorem cpFabSig (o : FabOp) : Statement (.cpFabSig o) :=
  of_shape (f := .cpFabSig) (by decide) rfl rfl fun _ => dec_fabOp o
theorem cpSub (o : XX) : Statement (.cpSub o) :=
  of_shape (f := .cpSub) (by decide) rfl rfl fun _ => dec_xX o
theorem cpSlot (o : XN6) : Statement (.cpSlot o) :=
  of_shape (f := .cpSlot) (by decide) rfl rfl fun _ => dec_xN6 o
theorem cpUnsub (o : XN6) : Statement (.cpUnsub o) :=
  of_shape (f := .cpUnsub) (by decide) rfl rfl fun _ => dec_xN6 o
theorem mxCtx (o : MxB) : Statement (.mxCtx o) :=
  of_shape (f := .mxCtx) (by decide) rfl rfl fun _ => dec_mxB o
theorem mxCtxSt (o : MxCtxStOp) : Statement (.mxCtxSt o) :=
  of_shape (f := .mxCtxSt) (by decide) rfl rfl fun _ => dec_mxCtxStOp o
theorem mxZero (o : MxT) : Statement (.mxZero o) :=
  of_shape (f := .mxZero) (by decide) rfl rfl fun _ => dec_mxT o
theorem mxMm (o : MxMm) : Statement (.mxMm o) := of_shape (f := .mxMm) (by decide) rfl rfl fun h => dec_mxMm o (by simpa [Instr.wf] using h)
theorem mxMms (o : MxMm) : Statement (.mxMms o) := of_shape (f := .mxMms) (by decide) rfl rfl fun h => dec_mxMm o (by simpa [Instr.wf] using h)
theorem mxConv (o : MxConvOp) : Statement (.mxConv o) :=
  of_shape (f := .mxConv) (by decide) rfl rfl fun _ => dec_mxConvOp o
theorem mxGmm (o : MxMm) : Statement (.mxGmm o) := of_shape (f := .mxGmm) (by decide) rfl rfl fun h => by
    have h : o.k ≠ 0 ∧ o.k.toNat ≤ 32768 := by simpa [Instr.wf] using h
    exact dec_mxGmm o h.1 h.2
theorem mxLd (o : MxLdSt) : Statement (.mxLd o) := of_shape (f := .mxLd) (by decide) rfl rfl fun h => dec_mxLdSt o (by simpa [Instr.wf] using h)
theorem mxSt (o : MxLdSt) : Statement (.mxSt o) := of_shape (f := .mxSt) (by decide) rfl rfl fun h => dec_mxLdSt o (by simpa [Instr.wf] using h)
theorem mxPri (o : MxPriOp) : Statement (.mxPri o) :=
  of_shape (f := .mxPri) (by decide) rfl rfl fun _ => dec_mxPriOp o
theorem snd (o : XX) : Statement (.snd o) :=
  of_shape (f := .snd) (by decide) rfl rfl fun _ => dec_xX o
theorem sndp (o : XX) : Statement (.sndp o) :=
  of_shape (f := .sndp) (by decide) rfl rfl fun _ => dec_xX o
theorem spawn (o : SpawnOp) : Statement (.spawn o) := of_shape (f := .spawn) (by decide) rfl rfl fun h => dec_spawnOp o (by simpa [Instr.wf] using h)
theorem link (o : XOp) : Statement (.link o) :=
  of_shape (f := .link) (by decide) rfl rfl fun _ => dec_xOp o
theorem unlink (o : XOp) : Statement (.unlink o) :=
  of_shape (f := .unlink) (by decide) rfl rfl fun _ => dec_xOp o
theorem mon (o : XOp) : Statement (.mon o) :=
  of_shape (f := .mon) (by decide) rfl rfl fun _ => dec_xOp o
theorem demon (o : XOp) : Statement (.demon o) :=
  of_shape (f := .demon) (by decide) rfl rfl fun _ => dec_xOp o
theorem exit (o : XOp) : Statement (.exit o) :=
  of_shape (f := .exit) (by decide) rfl rfl fun _ => dec_xOp o
theorem kill (o : XOp) : Statement (.kill o) :=
  of_shape (f := .kill) (by decide) rfl rfl fun _ => dec_xOp o
theorem exitmail (o : FlagOp) : Statement (.exitmail o) :=
  of_shape (f := .exitmail) (by decide) rfl rfl fun _ => dec_flagOp o
theorem retire (o : NoneOp) : Statement (.retire o) :=
  of_shape (f := .retire) (by decide) rfl rfl fun _ => dec_noneOp o
theorem txnAbort (o : NoneOp) : Statement (.txnAbort o) := by
  have hd : Fields.bitOp ⟨noByte, noByte, noByte, o.m, (0 : BitVec 32)⟩ = some (false, o) := by
    have h0 : zeroBits (0 : BitVec 32) 1 31 = some () := rfl
    have h1 : BitVec.getLsbD (0 : BitVec 32) 0 = false := rfl
    simp only [Fields.bitOp, xReg_xByte, vReg_vByte, pReg_pByte, mReg_mByte, tileName_aByte, unused_noByte, vxReg_vxByte, vxReg_vByte, vxReg_xByte, zeroBits_zero, Option.bind_eq_bind, Option.bind_some, Option.pure_def, Option.map_some, h0, h1]
  exact fun _ => .inl (decode_word (by decide) (show some (Option.map _ (Fields.bitOp ⟨noByte, noByte, noByte, o.m, (0 : BitVec 32)⟩)) = _ by rw [hd]; rfl))
theorem txnAbortDrop (o : NoneOp) : Statement (.txnAbortDrop o) := by
  have hd : Fields.bitOp ⟨noByte, noByte, noByte, o.m, (1 : BitVec 32)⟩ = some (true, o) := by
    have h0 : zeroBits (1 : BitVec 32) 1 31 = some () := rfl
    have h1 : BitVec.getLsbD (1 : BitVec 32) 0 = true := rfl
    simp only [Fields.bitOp, xReg_xByte, vReg_vByte, pReg_pByte, mReg_mByte, tileName_aByte, unused_noByte, vxReg_vxByte, vxReg_vByte, vxReg_xByte, zeroBits_zero, Option.bind_eq_bind, Option.bind_some, Option.pure_def, Option.map_some, h0, h1]
  exact fun _ => .inl (decode_word (by decide) (show some (Option.map _ (Fields.bitOp ⟨noByte, noByte, noByte, o.m, (1 : BitVec 32)⟩)) = _ by rw [hd]; rfl))
theorem txnExcl (o : NoneOp) : Statement (.txnExcl o) :=
  of_shape (f := .txnExcl) (by decide) rfl rfl fun _ => dec_noneOp o
theorem rdsr (o : SrOp) : Statement (.rdsr o) :=
  of_shape (f := .rdsr) (by decide) rfl rfl fun _ => dec_srOp o
theorem wrsr (o : SrOp) : Statement (.wrsr o) := of_shape (f := .wrsr) (by decide) rfl rfl fun h => dec_wrArgs o h
theorem trap (o : N16) : Statement (.trap o) :=
  of_shape (f := .trap) (by decide) rfl rfl fun _ => dec_n16 o
theorem eret (o : NoneOp) : Statement (.eret o) := by
  have hd : Fields.bitOp ⟨noByte, noByte, noByte, o.m, (0 : BitVec 32)⟩ = some (false, o) := by
    have h0 : zeroBits (0 : BitVec 32) 1 31 = some () := rfl
    have h1 : BitVec.getLsbD (0 : BitVec 32) 0 = false := rfl
    simp only [Fields.bitOp, xReg_xByte, vReg_vByte, pReg_pByte, mReg_mByte, tileName_aByte, unused_noByte, vxReg_vxByte, vxReg_vByte, vxReg_xByte, zeroBits_zero, Option.bind_eq_bind, Option.bind_some, Option.pure_def, Option.map_some, h0, h1]
  exact fun _ => .inl (decode_word (by decide) (show some (Option.map _ (Fields.bitOp ⟨noByte, noByte, noByte, o.m, (0 : BitVec 32)⟩)) = _ by rw [hd]; rfl))
theorem eretRe (o : NoneOp) : Statement (.eretRe o) := by
  have hd : Fields.bitOp ⟨noByte, noByte, noByte, o.m, (1 : BitVec 32)⟩ = some (true, o) := by
    have h0 : zeroBits (1 : BitVec 32) 1 31 = some () := rfl
    have h1 : BitVec.getLsbD (1 : BitVec 32) 0 = true := rfl
    simp only [Fields.bitOp, xReg_xByte, vReg_vByte, pReg_pByte, mReg_mByte, tileName_aByte, unused_noByte, vxReg_vxByte, vxReg_vByte, vxReg_xByte, zeroBits_zero, Option.bind_eq_bind, Option.bind_some, Option.pure_def, Option.map_some, h0, h1]
  exact fun _ => .inl (decode_word (by decide) (show some (Option.map _ (Fields.bitOp ⟨noByte, noByte, noByte, o.m, (1 : BitVec 32)⟩)) = _ by rw [hd]; rfl))
theorem ebreak (o : NoneOp) : Statement (.ebreak o) :=
  of_shape (f := .ebreak) (by decide) rfl rfl fun _ => dec_noneOp o
theorem park (o : N16) : Statement (.park o) :=
  of_shape (f := .park) (by decide) rfl rfl fun _ => dec_n16 o
theorem icinv (o : XOp) : Statement (.icinv o) := by
  have hd : Fields.bitXOp ⟨xByte o.a, noByte, noByte, o.m, (0 : BitVec 32)⟩ = some (false, o) := by
    have h0 : zeroBits (0 : BitVec 32) 1 31 = some () := rfl
    have h1 : BitVec.getLsbD (0 : BitVec 32) 0 = false := rfl
    simp only [Fields.bitXOp, xReg_xByte, vReg_vByte, pReg_pByte, mReg_mByte, tileName_aByte, unused_noByte, vxReg_vxByte, vxReg_vByte, vxReg_xByte, zeroBits_zero, Option.bind_eq_bind, Option.bind_some, Option.pure_def, Option.map_some, h0, h1]
  exact fun _ => .inl (decode_word (by decide) (show some (Option.map _ (Fields.bitXOp ⟨xByte o.a, noByte, noByte, o.m, (0 : BitVec 32)⟩)) = _ by rw [hd]; rfl))
theorem icinvAll (o : XOp) : Statement (.icinvAll o) := by
  have hd : Fields.bitXOp ⟨xByte o.a, noByte, noByte, o.m, (1 : BitVec 32)⟩ = some (true, o) := by
    have h0 : zeroBits (1 : BitVec 32) 1 31 = some () := rfl
    have h1 : BitVec.getLsbD (1 : BitVec 32) 0 = true := rfl
    simp only [Fields.bitXOp, xReg_xByte, vReg_vByte, pReg_pByte, mReg_mByte, tileName_aByte, unused_noByte, vxReg_vxByte, vxReg_vByte, vxReg_xByte, zeroBits_zero, Option.bind_eq_bind, Option.bind_some, Option.pure_def, Option.map_some, h0, h1]
  exact fun _ => .inl (decode_word (by decide) (show some (Option.map _ (Fields.bitXOp ⟨xByte o.a, noByte, noByte, o.m, (1 : BitVec 32)⟩)) = _ by rw [hd]; rfl))
theorem tlbinv (o : XOp) : Statement (.tlbinv o) := by
  have hd : Fields.bitXOp ⟨xByte o.a, noByte, noByte, o.m, (0 : BitVec 32)⟩ = some (false, o) := by
    have h0 : zeroBits (0 : BitVec 32) 1 31 = some () := rfl
    have h1 : BitVec.getLsbD (0 : BitVec 32) 0 = false := rfl
    simp only [Fields.bitXOp, xReg_xByte, vReg_vByte, pReg_pByte, mReg_mByte, tileName_aByte, unused_noByte, vxReg_vxByte, vxReg_vByte, vxReg_xByte, zeroBits_zero, Option.bind_eq_bind, Option.bind_some, Option.pure_def, Option.map_some, h0, h1]
  exact fun _ => .inl (decode_word (by decide) (show some (Option.map _ (Fields.bitXOp ⟨xByte o.a, noByte, noByte, o.m, (0 : BitVec 32)⟩)) = _ by rw [hd]; rfl))
theorem tlbinvAll (o : XOp) : Statement (.tlbinvAll o) := by
  have hd : Fields.bitXOp ⟨xByte o.a, noByte, noByte, o.m, (1 : BitVec 32)⟩ = some (true, o) := by
    have h0 : zeroBits (1 : BitVec 32) 1 31 = some () := rfl
    have h1 : BitVec.getLsbD (1 : BitVec 32) 0 = true := rfl
    simp only [Fields.bitXOp, xReg_xByte, vReg_vByte, pReg_pByte, mReg_mByte, tileName_aByte, unused_noByte, vxReg_vxByte, vxReg_vByte, vxReg_xByte, zeroBits_zero, Option.bind_eq_bind, Option.bind_some, Option.pure_def, Option.map_some, h0, h1]
  exact fun _ => .inl (decode_word (by decide) (show some (Option.map _ (Fields.bitXOp ⟨xByte o.a, noByte, noByte, o.m, (1 : BitVec 32)⟩)) = _ by rw [hd]; rfl))
theorem nop (o : NopRaw) : Statement (.nop o) := by
  have hm : BitVec.extractLsb' 88 8 (0xF000#16 ++ o.rest) = 0xF0 := by
    exact (extract_append_hi _ _ _ _ (by decide)).trans (by decide)
  have hf : BitVec.extractLsb' 80 8 (0xF000#16 ++ o.rest) = 0 := by
    exact (extract_append_hi _ _ _ _ (by decide)).trans (by decide)
  have hr : BitVec.extractLsb' 0 80 (0xF000#16 ++ o.rest) = o.rest := extract_lo _ _
  refine fun _ => .inl ?_
  show decode (0xF000#16 ++ o.rest) = _
  simp only [decode, hm, hf, hr]
  rfl
theorem hintSpaceWord (o : HintRaw) : Statement (.hintSpaceWord o) := by
  intro hw
  have h : 0xF0 ≤ (o.word >>> 88).toNat ∧ (o.word >>> 80) ≠ 0xF000 := by simpa [Instr.wf] using hw
  have h88 : (o.word.extractLsb' 88 8).toNat = (o.word >>> 88).toNat := by
    simp only [BitVec.extractLsb'_toNat, BitVec.toNat_ushiftRight]
    exact Nat.mod_eq_of_lt (by have := o.word.isLt; omega)
  have hne : ¬ ((o.word.extractLsb' 88 8).toNat = 0xF0 ∧ (o.word.extractLsb' 80 8).toNat = 0) := by
    rintro ⟨ha, hb⟩
    apply h.2
    apply BitVec.eq_of_toNat_eq
    simp only [BitVec.extractLsb'_toNat, BitVec.toNat_ushiftRight, Nat.shiftRight_eq_div_pow] at ha hb ⊢
    have := o.word.isLt
    show o.word.toNat / 2 ^ 80 = 0xF000
    omega
  refine .inl ?_
  show decode o.word = _
  unfold decode
  rw [if_pos (by rw [h88]; exact h.1), if_neg hne]
theorem variableResultWrite : ∀ ctx serial, Statement (.variableResultWrite ctx serial) := fun ctx serial _ => .inr ⟨.variableResultWrite ctx serial, rfl⟩
theorem parkTimeout : ∀ ctx, Statement (.parkTimeout ctx) := fun ctx _ => .inr ⟨.parkTimeout ctx, rfl⟩
theorem issueGapExpiry : ∀ ctx, Statement (.issueGapExpiry ctx) := fun ctx _ => .inr ⟨.issueGapExpiry ctx, rfl⟩
theorem letterArrival : ∀ p l host, Statement (.letterArrival p l host) := fun p l host _ => .inr ⟨.letterArrival p l host, rfl⟩
theorem groupTimeout : ∀ p gid, Statement (.groupTimeout p gid) := fun p gid _ => .inr ⟨.groupTimeout p gid, rfl⟩
theorem place : ∀ cluster, Statement (.place cluster) := fun cluster _ => .inr ⟨.place cluster, rfl⟩
theorem gangSave : ∀ act, Statement (.gangSave act) := fun act _ => .inr ⟨.gangSave act, rfl⟩
theorem drainEnter : ∀ cluster, Statement (.drainEnter cluster) := fun cluster _ => .inr ⟨.drainEnter cluster, rfl⟩
theorem activationCommit : ∀ act, Statement (.activationCommit act) := fun act _ => .inr ⟨.activationCommit act, rfl⟩
theorem groupPrepare : ∀ p gid, Statement (.groupPrepare p gid) := fun p gid _ => .inr ⟨.groupPrepare p gid, rfl⟩
theorem groupCommitPoint : ∀ p gid, Statement (.groupCommitPoint p gid) := fun p gid _ => .inr ⟨.groupCommitPoint p gid, rfl⟩
theorem groupApply : ∀ p gid, Statement (.groupApply p gid) := fun p gid _ => .inr ⟨.groupApply p gid, rfl⟩
theorem groupWithdrawal : ∀ p gid target why, Statement (.groupWithdrawal p gid target why) := fun p gid target why _ => .inr ⟨.groupWithdrawal p gid target why, rfl⟩
theorem activationFail : ∀ act, Statement (.activationFail act) := fun act _ => .inr ⟨.activationFail act, rfl⟩
theorem budgetExpiry : ∀ act, Statement (.budgetExpiry act) := fun act _ => .inr ⟨.budgetExpiry act, rfl⟩
theorem killPoint : ∀ p target why, Statement (.killPoint p target why) := fun p target why _ => .inr ⟨.killPoint p target why, rfl⟩
theorem restartEvent : ∀ p sup child reason bySup, Statement (.restartEvent p sup child reason bySup) := fun p sup child reason bySup _ => .inr ⟨.restartEvent p sup child reason bySup, rfl⟩
theorem wholeRestartRebuild : ∀ p sup, Statement (.wholeRestartRebuild p sup) := fun p sup _ => .inr ⟨.wholeRestartRebuild p sup, rfl⟩
theorem remoteRebuildRequest : ∀ p src supervisor child img kill, Statement (.remoteRebuildRequest p src supervisor child img kill) := fun p src supervisor child img kill _ => .inr ⟨.remoteRebuildRequest p src supervisor child img kill, rfl⟩
theorem remoteCompletionReport : ∀ p supervisor child result reason, Statement (.remoteCompletionReport p supervisor child result reason) := fun p supervisor child result reason _ => .inr ⟨.remoteCompletionReport p supervisor child result reason, rfl⟩
theorem spawnReservationRequest : ∀ p src serial img, Statement (.spawnReservationRequest p src serial img) := fun p src serial img _ => .inr ⟨.spawnReservationRequest p src serial img, rfl⟩
theorem spawnReservationReply : ∀ serial ok child, Statement (.spawnReservationReply serial ok child) := fun serial ok child _ => .inr ⟨.spawnReservationReply serial ok child, rfl⟩
theorem reservationRelease : ∀ p child, Statement (.reservationRelease p child) := fun p child _ => .inr ⟨.reservationRelease p child, rfl⟩
theorem linkRequestArrival : ∀ p src issuer target isLink, Statement (.linkRequestArrival p src issuer target isLink) := fun p src issuer target isLink _ => .inr ⟨.linkRequestArrival p src issuer target isLink, rfl⟩
theorem courierCommandComplete : ∀ cluster serial, Statement (.courierCommandComplete cluster serial) := fun cluster serial _ => .inr ⟨.courierCommandComplete cluster serial, rfl⟩
theorem feederTile : ∀ act member handle, Statement (.feederTile act member handle) := fun act member handle _ => .inr ⟨.feederTile act member handle, rfl⟩
theorem mxDecision : ∀ cluster, Statement (.mxDecision cluster) := fun cluster _ => .inr ⟨.mxDecision cluster, rfl⟩
theorem mxCommandComplete : ∀ cluster, Statement (.mxCommandComplete cluster) := fun cluster _ => .inr ⟨.mxCommandComplete cluster, rfl⟩
theorem frankedCommandArrival : ∀ cluster c, Statement (.frankedCommandArrival cluster c) := fun cluster c _ => .inr ⟨.frankedCommandArrival cluster c, rfl⟩
theorem frankingEntryActivate : ∀ cluster index, Statement (.frankingEntryActivate cluster index) := fun cluster index _ => .inr ⟨.frankingEntryActivate cluster index, rfl⟩
theorem lwbell : ∀ p v, Statement (.lwbell p v) := fun p v _ => .inr ⟨.lwbell p v, rfl⟩
theorem serviceCoreLetter : ∀ p slot l die seq, Statement (.serviceCoreLetter p slot l die seq) := fun p slot l die seq _ => .inr ⟨.serviceCoreLetter p slot l die seq, rfl⟩
theorem apertureRead : ∀ p off len, Statement (.apertureRead p off len) := fun p off len _ => .inr ⟨.apertureRead p off len, rfl⟩
theorem apertureWrite : ∀ p off data, Statement (.apertureWrite p off data) := fun p off data _ => .inr ⟨.apertureWrite p off data, rfl⟩
theorem ntcons : ∀ p v, Statement (.ntcons p v) := fun p v _ => .inr ⟨.ntcons p v, rfl⟩
theorem cmncmdCreate : ∀ p id unordered, Statement (.cmncmdCreate p id unordered) := fun p id unordered _ => .inr ⟨.cmncmdCreate p id unordered, rfl⟩
theorem cmncmdDestroy : ∀ p id, Statement (.cmncmdDestroy p id) := fun p id _ => .inr ⟨.cmncmdDestroy p id, rfl⟩
theorem pdescSetUp : ∀ p row0 nrows, Statement (.pdescSetUp p row0 nrows) := fun p row0 nrows _ => .inr ⟨.pdescSetUp p row0 nrows, rfl⟩
theorem pdescTearDown : ∀ p, Statement (.pdescTearDown p) := fun p _ => .inr ⟨.pdescTearDown p, rfl⟩
theorem rprackRetry : ∀ p serial, Statement (.rprackRetry p serial) := fun p serial _ => .inr ⟨.rprackRetry p serial, rfl⟩
theorem rprackFail : ∀ p serial, Statement (.rprackFail p serial) := fun p serial _ => .inr ⟨.rprackFail p serial, rfl⟩
theorem pwrcap : ∀ cap, Statement (.pwrcap cap) := fun cap _ => .inr ⟨.pwrcap cap, rfl⟩
theorem powerAverageUpdate : ∀ watts, Statement (.powerAverageUpdate watts) := fun watts _ => .inr ⟨.powerAverageUpdate watts, rfl⟩
theorem dbgctlHalt : ∀ core, Statement (.dbgctlHalt core) := fun core _ => .inr ⟨.dbgctlHalt core, rfl⟩
theorem dbgctlResume : ∀ core, Statement (.dbgctlResume core) := fun core _ => .inr ⟨.dbgctlResume core, rfl⟩
theorem dbgctlStep : ∀ core ctx, Statement (.dbgctlStep core ctx) := fun core ctx _ => .inr ⟨.dbgctlStep core ctx, rfl⟩
theorem keyInstall : ∀ p k key counter owner onIde, Statement (.keyInstall p k key counter owner onIde) := fun p k key counter owner onIde _ => .inr ⟨.keyInstall p k key counter owner onIde, rfl⟩
theorem lostmaskClear : ∀ bits, Statement (.lostmaskClear bits) := fun bits _ => .inr ⟨.lostmaskClear bits, rfl⟩
theorem registerWrite : ∀ space off v, Statement (.registerWrite space off v) := fun space off v _ => .inr ⟨.registerWrite space off v, rfl⟩
theorem getVersion : ∀ fn, Statement (.getVersion fn) := fun fn _ => .inr ⟨.getVersion fn, rfl⟩
theorem getCapabilities : ∀ fn, Statement (.getCapabilities fn) := fun fn _ => .inr ⟨.getCapabilities fn, rfl⟩
theorem negotiateAlgorithms : ∀ fn, Statement (.negotiateAlgorithms fn) := fun fn _ => .inr ⟨.negotiateAlgorithms fn, rfl⟩
theorem getDigests : ∀ fn, Statement (.getDigests fn) := fun fn _ => .inr ⟨.getDigests fn, rfl⟩
theorem getCertificate : ∀ fn, Statement (.getCertificate fn) := fun fn _ => .inr ⟨.getCertificate fn, rfl⟩
theorem challenge : ∀ fn nonce, Statement (.challenge fn nonce) := fun fn nonce _ => .inr ⟨.challenge fn nonce, rfl⟩
theorem getMeasurements : ∀ fn, Statement (.getMeasurements fn) := fun fn _ => .inr ⟨.getMeasurements fn, rfl⟩
theorem keyExchange : ∀ fn, Statement (.keyExchange fn) := fun fn _ => .inr ⟨.keyExchange fn, rfl⟩
theorem finish : ∀ fin, Statement (.finish fin) := fun fin _ => .inr ⟨.finish fin, rfl⟩
theorem endSession : ∀ fn, Statement (.endSession fn) := fun fn _ => .inr ⟨.endSession fn, rfl⟩
theorem getTdispVersion : ∀ p, Statement (.getTdispVersion p) := fun p _ => .inr ⟨.getTdispVersion p, rfl⟩
theorem getTdispCapabilities : ∀ p, Statement (.getTdispCapabilities p) := fun p _ => .inr ⟨.getTdispCapabilities p, rfl⟩
theorem lockInterfaceRequest : ∀ p, Statement (.lockInterfaceRequest p) := fun p _ => .inr ⟨.lockInterfaceRequest p, rfl⟩
theorem getDeviceInterfaceReport : ∀ p, Statement (.getDeviceInterfaceReport p) := fun p _ => .inr ⟨.getDeviceInterfaceReport p, rfl⟩
theorem getDeviceInterfaceState : ∀ p, Statement (.getDeviceInterfaceState p) := fun p _ => .inr ⟨.getDeviceInterfaceState p, rfl⟩
theorem startInterfaceRequest : ∀ p, Statement (.startInterfaceRequest p) := fun p _ => .inr ⟨.startInterfaceRequest p, rfl⟩
theorem stopInterfaceRequest : ∀ p, Statement (.stopInterfaceRequest p) := fun p _ => .inr ⟨.stopInterfaceRequest p, rfl⟩
theorem ideIntegrityFailure : ∀ stream, Statement (.ideIntegrityFailure stream) := fun stream _ => .inr ⟨.ideIntegrityFailure stream, rfl⟩
theorem firmwareUpdate : ∀ fw, Statement (.firmwareUpdate fw) := fun fw _ => .inr ⟨.firmwareUpdate fw, rfl⟩
theorem reset : ∀ stage1, Statement (.reset stage1) := fun stage1 _ => .inr ⟨.reset stage1, rfl⟩
theorem junctionTemperature : ∀ die celsius, Statement (.junctionTemperature die celsius) := fun die celsius _ => .inr ⟨.junctionTemperature die celsius, rfl⟩
theorem serviceCoreCheck : ∀ answered, Statement (.serviceCoreCheck answered) := fun answered _ => .inr ⟨.serviceCoreCheck answered, rfl⟩
theorem managementCoreCheck : ∀ answered, Statement (.managementCoreCheck answered) := fun answered _ => .inr ⟨.managementCoreCheck answered, rfl⟩
theorem flitArrival : ∀ router upstream crcOk forwarding tail, Statement (.flitArrival router upstream crcOk forwarding tail) := fun router upstream crcOk forwarding tail _ => .inr ⟨.flitArrival router upstream crcOk forwarding tail, rfl⟩
theorem meshPacketArrival : ∀ src dst cls seq needsForward msg, Statement (.meshPacketArrival src dst cls seq needsForward msg) := fun src dst cls seq needsForward msg _ => .inr ⟨.meshPacketArrival src dst cls seq needsForward msg, rfl⟩
theorem packetResendTimeout : ∀ src dst cls, Statement (.packetResendTimeout src dst cls) := fun src dst cls _ => .inr ⟨.packetResendTimeout src dst cls, rfl⟩
theorem refusedRequestRetry : ∀ target requester, Statement (.refusedRequestRetry target requester) := fun target requester _ => .inr ⟨.refusedRequestRetry target requester, rfl⟩
theorem reservationHoldExpiry : ∀ target, Statement (.reservationHoldExpiry target) := fun target _ => .inr ⟨.reservationHoldExpiry target, rfl⟩
theorem fabricOpportunity : ∀ port slot, Statement (.fabricOpportunity port slot) := fun port slot _ => .inr ⟨.fabricOpportunity port slot, rfl⟩
theorem fabricItemArrival : ∀ src item crcOk, Statement (.fabricItemArrival src item crcOk) := fun src item crcOk _ => .inr ⟨.fabricItemArrival src item crcOk, rfl⟩
theorem creditWordArrival : ∀ src credit ack relaxedBase relaxed lost, Statement (.creditWordArrival src credit ack relaxedBase relaxed lost) := fun src credit ack relaxedBase relaxed lost _ => .inr ⟨.creditWordArrival src credit ack relaxedBase relaxed lost, rfl⟩
theorem relaxedResendTimeout : ∀ dst seq, Statement (.relaxedResendTimeout dst seq) := fun dst seq _ => .inr ⟨.relaxedResendTimeout dst seq, rfl⟩
theorem fabricReadResponse : ∀ src serial data denied cause, Statement (.fabricReadResponse src serial data denied cause) := fun src serial data denied cause _ => .inr ⟨.fabricReadResponse src serial data denied cause, rfl⟩
theorem refusalResponseArrival : ∀ src seq relaxed cause lost, Statement (.refusalResponseArrival src seq relaxed cause lost) := fun src seq relaxed cause lost _ => .inr ⟨.refusalResponseArrival src seq relaxed cause lost, rfl⟩
theorem rotationEnd : ∀ rotation, Statement (.rotationEnd rotation) := fun rotation _ => .inr ⟨.rotationEnd rotation, rfl⟩
theorem uncorrectableError : ∀ site, Statement (.uncorrectableError site) := fun site _ => .inr ⟨.uncorrectableError site, rfl⟩
theorem scrubLine : ∀ site found, Statement (.scrubLine site found) := fun site found _ => .inr ⟨.scrubLine site found, rfl⟩
theorem exclusiveServiceStart : ∀ die, Statement (.exclusiveServiceStart die) := fun die _ => .inr ⟨.exclusiveServiceStart die, rfl⟩
theorem recordStallTimeout : ∀ p, Statement (.recordStallTimeout p) := fun p _ => .inr ⟨.recordStallTimeout p, rfl⟩
theorem linkGridWindow : Statement .linkGridWindow := fun _ => .inr ⟨.linkGridWindow, rfl⟩
theorem fatalCondition : ∀ code p die pl wh, Statement (.fatalCondition code p die pl wh) := fun code p die pl wh _ => .inr ⟨.fatalCondition code p die pl wh, rfl⟩
theorem storeDrainDeadline : ∀ p, Statement (.storeDrainDeadline p) := fun p _ => .inr ⟨.storeDrainDeadline p, rfl⟩
theorem dumpWrite : Statement .dumpWrite := fun _ => .inr ⟨.dumpWrite, rfl⟩
theorem dumpWriteTimeout : ∀ sect, Statement (.dumpWriteTimeout sect) := fun sect _ => .inr ⟨.dumpWriteTimeout sect, rfl⟩
theorem dlcons : ∀ p v, Statement (.dlcons p v) := fun p v _ => .inr ⟨.dlcons p v, rfl⟩
theorem die0ManagementCoreFailure : Statement .die0ManagementCoreFailure := fun _ => .inr ⟨.die0ManagementCoreFailure, rfl⟩
theorem fabricCaptureComplete : ∀ serial, Statement (.fabricCaptureComplete serial) := fun serial _ => .inr ⟨.fabricCaptureComplete serial, rfl⟩

end Laws.RoundTrip

end Sys2Proof
end

