-- ==== Sys2Proof/Tests/Slice0.lean ====
section
/-! SUPPORT. The model's own tests: words of the encoding tables, ill-formed terms, single steps with values worked out from the spec, and for
every statement that has hypotheses a state that meets them. -/

namespace Sys2Proof.Tests

open Sys2Proof Sys2Proof.Machine

set_option maxRecDepth 100000
set_option Elab.async false

/-- Modifiers: none; and guard `(!p2)`, empty-actions 1 and 0, gap 3, switch-away, hint 5. -/
def m0 : Mods := ⟨0, false, false, false, 0, false, 0⟩
def mX : Mods := ⟨2, true, true, false, 3, true, 5⟩

/-! ## Words written out from the encoding tables (R144 and the table of each chapter), one for every instruction -/

theorem test_decode_major_01_0 :
    decode 0x0100_0506_3F00_0000_0000_0000 = .ok (.add ⟨m0, 5, 6, 63⟩) ∧
    decode 0x0101_0506_3F2C_0000_0000_3805 = .ok (.sub ⟨mX, 5, 6, 63⟩) ∧
    decode 0x0102_0506_3F00_0000_0000_0000 = .ok (.and ⟨m0, 5, 6, 63⟩) ∧
    decode 0x0103_0506_3F2C_0000_0000_3805 = .ok (.or ⟨mX, 5, 6, 63⟩) ∧
    decode 0x0104_0506_3F00_0000_0000_0000 = .ok (.xor ⟨m0, 5, 6, 63⟩) ∧
    decode 0x0105_0506_3F2C_0000_0000_3805 = .ok (.andn ⟨mX, 5, 6, 63⟩) ∧
    decode 0x0106_0506_3F00_0000_0000_0000 = .ok (.orn ⟨m0, 5, 6, 63⟩) ∧
    decode 0x0107_0506_3F2C_0000_0000_3805 = .ok (.shl ⟨mX, 5, 6, 63⟩) ∧
    decode 0x0108_0506_3F00_0000_0000_0000 = .ok (.shr ⟨m0, 5, 6, 63⟩) ∧
    decode 0x0109_0506_3F2C_0000_0000_3805 = .ok (.sra ⟨mX, 5, 6, 63⟩) ∧
    decode 0x010A_0506_3F00_0000_0000_0000 = .ok (.rol ⟨m0, 5, 6, 63⟩) ∧
    decode 0x010B_0506_3F2C_0000_0000_3805 = .ok (.ror ⟨mX, 5, 6, 63⟩) :=
  ⟨rfl, rfl, rfl, rfl, rfl, rfl, rfl, rfl, rfl, rfl, rfl, rfl⟩
theorem test_decode_major_01_1 :
    decode 0x010C_0506_3F00_0000_0000_0000 = .ok (.min ⟨m0, 5, 6, 63⟩) ∧
    decode 0x010D_0506_3F2C_0000_0000_3805 = .ok (.max ⟨mX, 5, 6, 63⟩) ∧
    decode 0x010E_0506_3F00_0000_0000_0000 = .ok (.minu ⟨m0, 5, 6, 63⟩) ∧
    decode 0x010F_0506_3F2C_0000_0000_3805 = .ok (.maxu ⟨mX, 5, 6, 63⟩) ∧
    decode 0x0110_0506_0700_0000_0009_0000 = .ok (.sel ⟨m0, 5, 6, 7, 9⟩) ∧
    decode 0x0111_0506_FF2C_0000_0000_3805 = .ok (.mov ⟨mX, 5, 6⟩) :=
  ⟨rfl, rfl, rfl, rfl, rfl, rfl⟩
theorem test_decode_major_02 :
    decode 0x0200_0506_3F00_0000_0000_0000 = .ok (.mul ⟨m0, 5, 6, 63⟩) ∧
    decode 0x0201_0506_3F2C_0000_0000_3805 = .ok (.mulh ⟨mX, 5, 6, 63⟩) ∧
    decode 0x0202_0506_3F00_0000_0000_0000 = .ok (.mulhu ⟨m0, 5, 6, 63⟩) ∧
    decode 0x0203_0506_3F2C_0000_0000_3805 = .ok (.div ⟨mX, 5, 6, 63⟩) ∧
    decode 0x0204_0506_3F00_0000_0000_0000 = .ok (.divu ⟨m0, 5, 6, 63⟩) ∧
    decode 0x0205_0506_3F2C_0000_0000_3805 = .ok (.rem ⟨mX, 5, 6, 63⟩) ∧
    decode 0x0206_0506_3F00_0000_0000_0000 = .ok (.remu ⟨m0, 5, 6, 63⟩) :=
  ⟨rfl, rfl, rfl, rfl, rfl, rfl, rfl⟩
theorem test_decode_major_03 :
    decode 0x0300_0506_FF2C_0000_0000_3805 = .ok (.clz ⟨mX, 5, 6⟩) ∧
    decode 0x0301_0506_FF00_0000_0000_0000 = .ok (.ctz ⟨m0, 5, 6⟩) ∧
    decode 0x0302_0506_FF2C_0000_0000_3805 = .ok (.popc ⟨mX, 5, 6⟩) ∧
    decode 0x0303_0506_FF00_0000_0000_0000 = .ok (.bswap ⟨m0, 5, 6⟩) :=
  ⟨rfl, rfl, rfl, rfl⟩
theorem test_decode_major_04 :
    decode 0x0400_8406_072C_0000_0000_3805 = .ok (.cmpEq ⟨mX, 4, 6, 7⟩) ∧
    decode 0x0401_8406_0700_0000_0000_0000 = .ok (.cmpNe ⟨m0, 4, 6, 7⟩) ∧
    decode 0x0402_8406_072C_0000_0000_3805 = .ok (.cmpLt ⟨mX, 4, 6, 7⟩) ∧
    decode 0x0403_8406_0700_0000_0000_0000 = .ok (.cmpLe ⟨m0, 4, 6, 7⟩) ∧
    decode 0x0404_8406_072C_0000_0000_3805 = .ok (.cmpLtu ⟨mX, 4, 6, 7⟩) ∧
    decode 0x0405_8406_0700_0000_0000_0000 = .ok (.cmpLeu ⟨m0, 4, 6, 7⟩) :=
  ⟨rfl, rfl, rfl, rfl, rfl, rfl⟩
theorem test_decode_major_05 :
    decode 0x0500_8481_8F2C_0000_0000_3805 = .ok (.pand ⟨mX, 4, 1, 15⟩) ∧
    decode 0x0501_8481_8F00_0000_0000_0000 = .ok (.por ⟨m0, 4, 1, 15⟩) ∧
    decode 0x0502_8481_8F2C_0000_0000_3805 = .ok (.pxor ⟨mX, 4, 1, 15⟩) ∧
    decode 0x0503_8481_FF00_0000_0000_0000 = .ok (.pnot ⟨m0, 4, 1⟩) :=
  ⟨rfl, rfl, rfl, rfl⟩
theorem test_decode_major_06 :
    decode 0x0603_0506_0700_0000_0010_0000 = .ok (.lea ⟨m0, 5, 6, 7, 3, 0x10⟩) :=
  rfl
theorem test_decode_major_10 :
    decode 0x1000_0506_FF2C_FFFF_FFF0_3805 = .ok (.addi ⟨mX, 5, 6, 0xFFFFFFF0⟩) ∧
    decode 0x1002_0506_FF00_FFFF_FFF0_0000 = .ok (.andi ⟨m0, 5, 6, 0xFFFFFFF0⟩) ∧
    decode 0x1003_0506_FF2C_FFFF_FFF0_3805 = .ok (.ori ⟨mX, 5, 6, 0xFFFFFFF0⟩) ∧
    decode 0x1004_0506_FF00_FFFF_FFF0_0000 = .ok (.xori ⟨m0, 5, 6, 0xFFFFFFF0⟩) ∧
    decode 0x1007_0506_FF2C_0000_0021_3805 = .ok (.shli ⟨mX, 5, 6, 33⟩) ∧
    decode 0x1008_0506_FF00_0000_0021_0000 = .ok (.shri ⟨m0, 5, 6, 33⟩) ∧
    decode 0x1009_0506_FF2C_0000_0021_3805 = .ok (.srai ⟨mX, 5, 6, 33⟩) :=
  ⟨rfl, rfl, rfl, rfl, rfl, rfl, rfl⟩
theorem test_decode_major_11 :
    decode 0x1100_05FF_FF00_8000_0001_0000 = .ok (.li ⟨m0, 5, 0x80000001⟩) ∧
    decode 0x1101_05FF_FF2C_8000_0001_3805 = .ok (.lih ⟨mX, 5, 0x80000001⟩) :=
  ⟨rfl, rfl⟩
theorem test_decode_major_12 :
    decode 0x1200_8406_FF2C_0000_004D_3805 = .ok (.cmpEqImm ⟨mX, 4, 6, 77⟩) ∧
    decode 0x1201_8406_FF00_0000_004D_0000 = .ok (.cmpNeImm ⟨m0, 4, 6, 77⟩) ∧
    decode 0x1202_8406_FF2C_0000_004D_3805 = .ok (.cmpLtImm ⟨mX, 4, 6, 77⟩) ∧
    decode 0x1203_8406_FF00_0000_004D_0000 = .ok (.cmpLeImm ⟨m0, 4, 6, 77⟩) ∧
    decode 0x1204_8406_FF2C_0000_004D_3805 = .ok (.cmpLtuImm ⟨mX, 4, 6, 77⟩) ∧
    decode 0x1205_8406_FF00_0000_004D_0000 = .ok (.cmpLeuImm ⟨m0, 4, 6, 77⟩) :=
  ⟨rfl, rfl, rfl, rfl, rfl, rfl⟩
theorem test_decode_major_20 :
    decode 0x2000_FFFF_FF2C_FFFF_FFFF_3805 = .ok (.br ⟨mX, 0xFFFFFFFF⟩) ∧
    decode 0x2001_05FF_FF00_8000_0001_0000 = .ok (.jmp ⟨m0, 5, 0x80000001⟩) :=
  ⟨rfl, rfl⟩
theorem test_decode_major_21 :
    decode 0x2100_05FF_FF2C_8000_0001_3805 = .ok (.call ⟨mX, 5, 0x80000001⟩) ∧
    decode 0x2101_0506_FF00_FFFF_FFF0_0000 = .ok (.callx ⟨m0, 5, 6, 0xFFFFFFF0⟩) ∧
    decode 0x2102_05FF_FF2C_0000_0000_3805 = .ok (.ret ⟨mX, 5⟩) :=
  ⟨rfl, rfl, rfl⟩
theorem test_decode_major_22 :
    decode 0x2200_FFFF_FF00_47FF_FFFE_0000 = .ok (.brtagSet ⟨m0, 17, 0x3FFFFFE⟩) ∧
    decode 0x2201_FFFF_FF2C_47FF_FFFE_3805 = .ok (.brtagClr ⟨mX, 17, 0x3FFFFFE⟩) ∧
    decode 0x2202_FFFF_FF00_47FF_FFFE_0000 = .ok (.brtagErr ⟨m0, 17, 0x3FFFFFE⟩) ∧
    decode 0x2203_05FF_FF2C_8000_0001_3805 = .ok (.loop ⟨mX, 5, 0x80000001⟩) :=
  ⟨rfl, rfl, rfl, rfl⟩
theorem test_decode_major_30 :
    decode 0x3000_0506_3F00_0000_0000_0000 = .ok (.faddF32 ⟨m0, 5, 6, 63⟩) ∧
    decode 0x3001_0506_3F2C_0000_0000_3805 = .ok (.fsubF32 ⟨mX, 5, 6, 63⟩) ∧
    decode 0x3002_0506_3F00_0000_0000_0000 = .ok (.fmulF32 ⟨m0, 5, 6, 63⟩) ∧
    decode 0x3003_0506_3F2C_0000_0000_3805 = .ok (.fmaF32 ⟨mX, 5, 6, 63⟩) ∧
    decode 0x3004_0506_3F00_0000_0000_0000 = .ok (.fmsF32 ⟨m0, 5, 6, 63⟩) ∧
    decode 0x3005_0506_3F2C_0000_0000_3805 = .ok (.fnmaF32 ⟨mX, 5, 6, 63⟩) ∧
    decode 0x3006_0506_3F00_0000_0000_0000 = .ok (.fdivF32 ⟨m0, 5, 6, 63⟩) ∧
    decode 0x3007_0506_FF2C_0000_0000_3805 = .ok (.fsqrtF32 ⟨mX, 5, 6⟩) ∧
    decode 0x3008_0506_3F00_0000_0000_0000 = .ok (.fminF32 ⟨m0, 5, 6, 63⟩) ∧
    decode 0x3009_0506_3F2C_0000_0000_3805 = .ok (.fmaxF32 ⟨mX, 5, 6, 63⟩) ∧
    decode 0x300A_0506_FF00_0000_0000_0000 = .ok (.fabsF32 ⟨m0, 5, 6⟩) ∧
    decode 0x300B_0506_FF2C_0000_0000_3805 = .ok (.fnegF32 ⟨mX, 5, 6⟩) :=
  ⟨rfl, rfl, rfl, rfl, rfl, rfl, rfl, rfl, rfl, rfl, rfl, rfl⟩
theorem test_decode_major_31 :
    decode 0x3100_8406_0700_0000_0000_0000 = .ok (.fcmpEqF32 ⟨m0, 4, 6, 7⟩) ∧
    decode 0x3101_8406_072C_0000_0000_3805 = .ok (.fcmpLtF32 ⟨mX, 4, 6, 7⟩) ∧
    decode 0x3102_8406_0700_0000_0000_0000 = .ok (.fcmpLeF32 ⟨m0, 4, 6, 7⟩) ∧
    decode 0x3103_8406_072C_0000_0000_3805 = .ok (.fcmpUnF32 ⟨mX, 4, 6, 7⟩) ∧
    decode 0x3104_0506_FF00_0000_0000_0000 = .ok (.fclsF32 ⟨m0, 5, 6⟩) :=
  ⟨rfl, rfl, rfl, rfl, rfl⟩
theorem test_decode_major_32 :
    decode 0x32B2_0504_FF2C_0000_0000_3805 = .ok (.cvt ⟨mX, 2, 6, 2, 5, 4⟩) :=
  rfl
theorem test_decode_major_40 :
    decode 0x4000_4341_5E00_0000_0083_0000 = .ok (.vaddI32 ⟨m0, 3, 1, .v 30, .on false 3⟩) ∧
    decode 0x4001_4341_052C_0000_00C2_3805 = .ok (.vsubI32 ⟨mX, 3, 1, .x 5, .on true 2⟩) ∧
    decode 0x4002_4341_5E00_0000_0000_0000 = .ok (.vmulI32 ⟨m0, 3, 1, .v 30, .all⟩) ∧
    decode 0x4003_4341_052C_0000_0083_3805 = .ok (.vmulhI32 ⟨mX, 3, 1, .x 5, .on false 3⟩) ∧
    decode 0x4004_4341_5E00_0000_00C2_0000 = .ok (.vmulhUi32 ⟨m0, 3, 1, .v 30, .on true 2⟩) ∧
    decode 0x4005_4341_052C_0000_0000_3805 = .ok (.vminI32 ⟨mX, 3, 1, .x 5, .all⟩) ∧
    decode 0x4006_4341_5E00_0000_0083_0000 = .ok (.vmaxI32 ⟨m0, 3, 1, .v 30, .on false 3⟩) ∧
    decode 0x4007_4341_052C_0000_00C2_3805 = .ok (.vminUi32 ⟨mX, 3, 1, .x 5, .on true 2⟩) ∧
    decode 0x4008_4341_5E00_0000_0000_0000 = .ok (.vmaxUi32 ⟨m0, 3, 1, .v 30, .all⟩) ∧
    decode 0x4009_4341_FF2C_0000_0083_3805 = .ok (.vabsI32 ⟨mX, 3, 1, .on false 3⟩) ∧
    decode 0x400A_4341_FF00_0000_00C2_0000 = .ok (.vnegI32 ⟨m0, 3, 1, .on true 2⟩) :=
  ⟨rfl, rfl, rfl, rfl, rfl, rfl, rfl, rfl, rfl, rfl, rfl⟩
theorem test_decode_major_41 :
    decode 0x4100_4341_052C_0000_0000_3805 = .ok (.vaddF32 ⟨mX, 3, 1, .x 5, .all⟩) ∧
    decode 0x4101_4341_5E00_0000_0083_0000 = .ok (.vsubF32 ⟨m0, 3, 1, .v 30, .on false 3⟩) ∧
    decode 0x4102_4341_052C_0000_00C2_3805 = .ok (.vmulF32 ⟨mX, 3, 1, .x 5, .on true 2⟩) ∧
    decode 0x4103_4341_5E00_0000_0000_0000 = .ok (.vfmaF32 ⟨m0, 3, 1, .v 30, .all⟩) ∧
    decode 0x4104_4341_052C_0000_0083_3805 = .ok (.vfmsF32 ⟨mX, 3, 1, .x 5, .on false 3⟩) ∧
    decode 0x4105_4341_5E00_0000_00C2_0000 = .ok (.vminF32 ⟨m0, 3, 1, .v 30, .on true 2⟩) ∧
    decode 0x4106_4341_052C_0000_0000_3805 = .ok (.vmaxF32 ⟨mX, 3, 1, .x 5, .all⟩) ∧
    decode 0x4107_4341_FF00_0000_0083_0000 = .ok (.vabsF32 ⟨m0, 3, 1, .on false 3⟩) ∧
    decode 0x4108_4341_FF2C_0000_00C2_3805 = .ok (.vnegF32 ⟨mX, 3, 1, .on true 2⟩) :=
  ⟨rfl, rfl, rfl, rfl, rfl, rfl, rfl, rfl, rfl⟩
theorem test_decode_major_42 :
    decode 0x4200_4341_5E00_0000_0000_0000 = .ok (.vand ⟨m0, 3, 1, .v 30, .all⟩) ∧
    decode 0x4201_4341_052C_0000_0083_3805 = .ok (.vor ⟨mX, 3, 1, .x 5, .on false 3⟩) ∧
    decode 0x4202_4341_5E00_0000_00C2_0000 = .ok (.vxor ⟨m0, 3, 1, .v 30, .on true 2⟩) ∧
    decode 0x4203_4341_052C_0000_0000_3805 = .ok (.vandn ⟨mX, 3, 1, .x 5, .all⟩) ∧
    decode 0x4204_4341_0500_0000_0083_0000 = .ok (.vshl ⟨m0, 3, 1, .x 5, .on false 3⟩) ∧
    decode 0x4205_4341_FF2C_0000_15C2_3805 = .ok (.vshr ⟨mX, 3, 1, .imm 21, .on true 2⟩) ∧
    decode 0x4206_4341_5E00_0000_0000_0000 = .ok (.vsra ⟨m0, 3, 1, .v 30, .all⟩) :=
  ⟨rfl, rfl, rfl, rfl, rfl, rfl, rfl⟩
theorem test_decode_major_43 :
    decode 0x4300_9641_052C_0000_0083_3805 = .ok (.vcmpEqI32 ⟨mX, 6, 1, .x 5, .on false 3⟩) ∧
    decode 0x4301_9641_5E00_0000_00C2_0000 = .ok (.vcmpNeI32 ⟨m0, 6, 1, .v 30, .on true 2⟩) ∧
    decode 0x4302_9641_052C_0000_0000_3805 = .ok (.vcmpLtI32 ⟨mX, 6, 1, .x 5, .all⟩) ∧
    decode 0x4303_9641_5E00_0000_0083_0000 = .ok (.vcmpLeI32 ⟨m0, 6, 1, .v 30, .on false 3⟩) ∧
    decode 0x4304_9641_052C_0000_00C2_3805 = .ok (.vcmpLtUi32 ⟨mX, 6, 1, .x 5, .on true 2⟩) ∧
    decode 0x4305_9641_5E00_0000_0000_0000 = .ok (.vcmpLeUi32 ⟨m0, 6, 1, .v 30, .all⟩) ∧
    decode 0x4308_9641_052C_0000_0083_3805 = .ok (.vcmpEqF32 ⟨mX, 6, 1, .x 5, .on false 3⟩) ∧
    decode 0x4309_9641_5E00_0000_00C2_0000 = .ok (.vcmpLtF32 ⟨m0, 6, 1, .v 30, .on true 2⟩) ∧
    decode 0x430A_9641_052C_0000_0000_3805 = .ok (.vcmpLeF32 ⟨mX, 6, 1, .x 5, .all⟩) ∧
    decode 0x430B_9641_5E00_0000_0083_0000 = .ok (.vcmpUnF32 ⟨m0, 6, 1, .v 30, .on false 3⟩) :=
  ⟨rfl, rfl, rfl, rfl, rfl, rfl, rfl, rfl, rfl, rfl⟩
theorem test_decode_major_44 :
    decode 0x4400_4341_422C_0000_0005_3805 = .ok (.vsel ⟨mX, 3, 5, 1, 2⟩) ∧
    decode 0x4401_4306_FF00_0000_0000_0000 = .ok (.vsplat ⟨m0, 3, 6, .all⟩) ∧
    decode 0x4402_43FF_FF2C_DEAD_BEEF_3805 = .ok (.vsplatI ⟨mX, 3, 0xDEADBEEF⟩) ∧
    decode 0x4403_4341_FF00_0000_00C2_0000 = .ok (.vmov ⟨m0, 3, 1, .on true 2⟩) ∧
    decode 0x4404_0541_FF2C_0000_0009_3805 = .ok (.vext ⟨mX, 5, 1, .imm 9⟩) ∧
    decode 0x4405_4306_0700_0000_0000_0000 = .ok (.vins ⟨m0, 3, 6, .x 7⟩) ∧
    decode 0x4406_4341_422C_0000_00C2_3805 = .ok (.vperm ⟨mX, 3, 1, 2, .on true 2⟩) ∧
    decode 0x4407_4341_4200_0000_0200_0000 = .ok (.vshufl ⟨m0, 3, 1, 2, 2, .all⟩) ∧
    decode 0x4408_4341_FF2C_0000_0B83_3805 = .ok (.vrot ⟨mX, 3, 1, .imm 11, .on false 3⟩) :=
  ⟨rfl, rfl, rfl, rfl, rfl, rfl, rfl, rfl, rfl⟩
theorem test_decode_major_45_0 :
    decode 0x4500_0541_FF00_0000_00C2_0000 = .ok (.vredaddI32 ⟨m0, 5, 1, .on true 2⟩) ∧
    decode 0x4501_0541_FF2C_0000_0000_3805 = .ok (.vredaddF32 ⟨mX, 5, 1, .all⟩) ∧
    decode 0x4502_0541_FF00_0000_0083_0000 = .ok (.vredminI32 ⟨m0, 5, 1, .on false 3⟩) ∧
    decode 0x4503_0541_FF2C_0000_00C2_3805 = .ok (.vredminUi32 ⟨mX, 5, 1, .on true 2⟩) ∧
    decode 0x4504_0541_FF00_0000_0000_0000 = .ok (.vredminF32 ⟨m0, 5, 1, .all⟩) ∧
    decode 0x4505_0541_FF2C_0000_0083_3805 = .ok (.vredmaxI32 ⟨mX, 5, 1, .on false 3⟩) ∧
    decode 0x4506_0541_FF00_0000_00C2_0000 = .ok (.vredmaxUi32 ⟨m0, 5, 1, .on true 2⟩) ∧
    decode 0x4507_0541_FF2C_0000_0000_3805 = .ok (.vredmaxF32 ⟨mX, 5, 1, .all⟩) ∧
    decode 0x4510_4341_FF00_0000_0083_0000 = .ok (.vscanAddI32 ⟨m0, 3, 1, .on false 3⟩) ∧
    decode 0x4511_4341_FF2C_0000_00C2_3805 = .ok (.vscanAddF32 ⟨mX, 3, 1, .on true 2⟩) ∧
    decode 0x4512_4341_FF00_0000_0000_0000 = .ok (.vscanMinI32 ⟨m0, 3, 1, .all⟩) ∧
    decode 0x4513_4341_FF2C_0000_0083_3805 = .ok (.vscanMinUi32 ⟨mX, 3, 1, .on false 3⟩) :=
  ⟨rfl, rfl, rfl, rfl, rfl, rfl, rfl, rfl, rfl, rfl, rfl, rfl⟩
theorem test_decode_major_45_1 :
    decode 0x4514_4341_FF00_0000_00C2_0000 = .ok (.vscanMinF32 ⟨m0, 3, 1, .on true 2⟩) ∧
    decode 0x4515_4341_FF2C_0000_0000_3805 = .ok (.vscanMaxI32 ⟨mX, 3, 1, .all⟩) ∧
    decode 0x4516_4341_FF00_0000_0083_0000 = .ok (.vscanMaxUi32 ⟨m0, 3, 1, .on false 3⟩) ∧
    decode 0x4517_4341_FF2C_0000_00C2_3805 = .ok (.vscanMaxF32 ⟨mX, 3, 1, .on true 2⟩) :=
  ⟨rfl, rfl, rfl, rfl⟩
theorem test_decode_major_46 :
    decode 0x4600_9192_9700_0000_0000_0000 = .ok (.mand ⟨m0, 1, 2, 7⟩) ∧
    decode 0x4601_9192_972C_0000_0000_3805 = .ok (.mor ⟨mX, 1, 2, 7⟩) ∧
    decode 0x4602_9192_9700_0000_0000_0000 = .ok (.mxor ⟨m0, 1, 2, 7⟩) ∧
    decode 0x4603_9192_FF2C_0000_0000_3805 = .ok (.mnot ⟨mX, 1, 2⟩) ∧
    decode 0x4604_0592_FF00_0000_0000_0000 = .ok (.mpop ⟨m0, 5, 2⟩) ∧
    decode 0x4605_0592_FF2C_0000_0000_3805 = .ok (.mfirst ⟨mX, 5, 2⟩) ∧
    decode 0x4606_91FF_FF00_0000_F00F_0000 = .ok (.mset ⟨m0, 1, .imm 0xF00F⟩) ∧
    decode 0x4607_8492_FF2C_0000_0000_3805 = .ok (.m2pAny ⟨mX, 4, 2⟩) ∧
    decode 0x4608_8492_FF00_0000_0000_0000 = .ok (.m2pAll ⟨m0, 4, 2⟩) :=
  ⟨rfl, rfl, rfl, rfl, rfl, rfl, rfl, rfl, rfl⟩
theorem test_decode_major_47 :
    decode 0x4756_4341_FF2C_0000_0700_3805 = .ok (.vcvt ⟨mX, 1, 2, 6, 3, 1, .all, 3, 1⟩) :=
  rfl
theorem test_decode_major_48 :
    decode 0x4800_4306_FF00_FFFF_F083_0000 = .ok (.vld ⟨m0, 3, 6, 0xFFFFF0, .on false 3⟩) ∧
    decode 0x4801_4306_FF2C_FFFF_F0C2_3805 = .ok (.vst ⟨mX, 3, 6, 0xFFFFF0, .on true 2⟩) ∧
    decode 0x4802_4306_0700_0000_4000_0000 = .ok (.vlds ⟨m0, 3, 6, 7, 0x40, .all⟩) ∧
    decode 0x4803_4306_072C_0000_4083_3805 = .ok (.vsts ⟨mX, 3, 6, 7, 0x40, .on false 3⟩) :=
  ⟨rfl, rfl, rfl, rfl⟩
theorem test_decode_major_49 :
    decode 0x4900_4306_4700_0000_02C2_0000 = .ok (.vgather ⟨m0, 3, 6, 7, 2, .on true 2⟩) ∧
    decode 0x4901_4306_472C_0000_0200_3805 = .ok (.vscatter ⟨mX, 3, 6, 7, 2, .all⟩) :=
  ⟨rfl, rfl⟩
theorem test_decode_major_4A :
    decode 0x4A00_4306_FF00_FFFF_F083_0000 = .ok (.vldUnpTf6 ⟨m0, 3, 6, 0xFFFFF0, .on false 3⟩) ∧
    decode 0x4A01_4306_FF2C_FFFF_F0C2_3805 = .ok (.vldUnpI4 ⟨mX, 3, 6, 0xFFFFF0, .on true 2⟩) ∧
    decode 0x4A02_4306_FF00_FFFF_F000_0000 = .ok (.vldUnpUi4 ⟨m0, 3, 6, 0xFFFFF0, .all⟩) ∧
    decode 0x4A08_4306_FF2C_FFFF_F083_3805 = .ok (.vstPkTf6 ⟨mX, 3, 6, 0xFFFFF0, .on false 3⟩) ∧
    decode 0x4A09_4306_FF00_FFFF_F0C2_0000 = .ok (.vstPkI4 ⟨m0, 3, 6, 0xFFFFF0, .on true 2⟩) ∧
    decode 0x4A0A_4306_FF2C_FFFF_F000_3805 = .ok (.vstPkUi4 ⟨mX, 3, 6, 0xFFFFF0, .all⟩) :=
  ⟨rfl, rfl, rfl, rfl, rfl, rfl⟩
theorem test_decode_major_60 :
    decode 0x6000_0506_FF00_FFFF_FFF0_0000 = .ok (.ldI8 ⟨m0, 5, 6, 0xFFFFFFF0⟩) ∧
    decode 0x6001_0506_FF2C_FFFF_FFF0_3805 = .ok (.ldUi8 ⟨mX, 5, 6, 0xFFFFFFF0⟩) ∧
    decode 0x6002_0506_FF00_FFFF_FFF0_0000 = .ok (.ldI16 ⟨m0, 5, 6, 0xFFFFFFF0⟩) ∧
    decode 0x6003_0506_FF2C_FFFF_FFF0_3805 = .ok (.ldUi16 ⟨mX, 5, 6, 0xFFFFFFF0⟩) ∧
    decode 0x6004_0506_FF00_FFFF_FFF0_0000 = .ok (.ldI32 ⟨m0, 5, 6, 0xFFFFFFF0⟩) ∧
    decode 0x6005_0506_FF2C_FFFF_FFF0_3805 = .ok (.ldUi32 ⟨mX, 5, 6, 0xFFFFFFF0⟩) ∧
    decode 0x6006_0506_FF00_FFFF_FFF0_0000 = .ok (.ld64 ⟨m0, 5, 6, 0xFFFFFFF0⟩) :=
  ⟨rfl, rfl, rfl, rfl, rfl, rfl, rfl⟩
theorem test_decode_major_61 :
    decode 0x6100_0506_FF2C_FFFF_FFF0_3805 = .ok (.st8 ⟨mX, 5, 6, 0xFFFFFFF0⟩) ∧
    decode 0x6101_0506_FF00_FFFF_FFF0_0000 = .ok (.st16 ⟨m0, 5, 6, 0xFFFFFFF0⟩) ∧
    decode 0x6102_0506_FF2C_FFFF_FFF0_3805 = .ok (.st32 ⟨mX, 5, 6, 0xFFFFFFF0⟩) ∧
    decode 0x6103_0506_FF00_FFFF_FFF0_0000 = .ok (.st64 ⟨m0, 5, 6, 0xFFFFFFF0⟩) ∧
    decode 0x6108_FF06_FF2C_0000_0040_3805 = .ok (.pref ⟨mX, 6, 0x40⟩) :=
  ⟨rfl, rfl, rfl, rfl, rfl⟩
theorem test_decode_major_62 :
    decode 0x6203_0506_FF00_0000_0008_0000 = .ok (.ldAcq ⟨m0, true, true, 5, 6, 8⟩) ∧
    decode 0x6213_0506_FF2C_0000_0008_3805 = .ok (.stRel ⟨mX, true, true, 5, 6, 8⟩) :=
  ⟨rfl, rfl⟩
theorem test_decode_major_63 :
    decode 0x63D0_0506_0700_0000_0008_0000 = .ok (.amoAdd ⟨m0, true, 2, true, 5, 6, 7, 8⟩) ∧
    decode 0x63D1_0506_072C_0000_0008_3805 = .ok (.amoAnd ⟨mX, true, 2, true, 5, 6, 7, 8⟩) ∧
    decode 0x63D2_0506_0700_0000_0008_0000 = .ok (.amoOr ⟨m0, true, 2, true, 5, 6, 7, 8⟩) ∧
    decode 0x63D3_0506_072C_0000_0008_3805 = .ok (.amoXor ⟨mX, true, 2, true, 5, 6, 7, 8⟩) ∧
    decode 0x63D4_0506_0700_0000_0008_0000 = .ok (.amoMin ⟨m0, true, 2, true, 5, 6, 7, 8⟩) ∧
    decode 0x63D5_0506_072C_0000_0008_3805 = .ok (.amoMax ⟨mX, true, 2, true, 5, 6, 7, 8⟩) ∧
    decode 0x63D6_0506_0700_0000_0008_0000 = .ok (.amoMinu ⟨m0, true, 2, true, 5, 6, 7, 8⟩) ∧
    decode 0x63D7_0506_072C_0000_0008_3805 = .ok (.amoMaxu ⟨mX, true, 2, true, 5, 6, 7, 8⟩) ∧
    decode 0x63D8_0506_0700_0000_0008_0000 = .ok (.amoSwap ⟨m0, true, 2, true, 5, 6, 7, 8⟩) ∧
    decode 0x63D9_0506_072C_0000_0008_3805 = .ok (.amoCas ⟨mX, true, 2, true, 5, 6, 7, 8⟩) ∧
    decode 0x632A_0506_0700_0000_0008_0000 = .ok (.amoFaddF32 ⟨m0, false, 1, 5, 6, 7, 8⟩) :=
  ⟨rfl, rfl, rfl, rfl, rfl, rfl, rfl, rfl, rfl, rfl, rfl⟩
theorem test_decode_major_70 :
    decode 0x7000_FFFF_FF2C_0000_0000_3805 = .ok (.fenceThr ⟨mX⟩) ∧
    decode 0x7001_FFFF_FF00_0000_0000_0000 = .ok (.fenceGang ⟨m0⟩) ∧
    decode 0x7002_FFFF_FF2C_0000_0000_3805 = .ok (.fenceDev ⟨mX⟩) ∧
    decode 0x7003_FFFF_FF00_0000_0000_0000 = .ok (.fenceXd ⟨m0⟩) :=
  ⟨rfl, rfl, rfl, rfl⟩
theorem test_decode_major_71 :
    decode 0x7100_FFFF_FF2C_0000_0006_3805 = .ok (.barArrive ⟨mX, 6⟩) ∧
    decode 0x7101_FFFF_FF00_0000_0006_0000 = .ok (.barWait ⟨m0, 6⟩) ∧
    decode 0x7102_FFFF_FF2C_0000_0006_3805 = .ok (.barSync ⟨mX, 6⟩) ∧
    decode 0x7103_FFFF_FF00_0000_0006_0000 = .ok (.barJoin ⟨m0, 6⟩) ∧
    decode 0x7104_FFFF_FF2C_0000_0006_3805 = .ok (.barLeave ⟨mX, 6⟩) ∧
    decode 0x7105_05FF_FF00_0000_0006_0000 = .ok (.barMissing ⟨m0, 5, 6⟩) :=
  ⟨rfl, rfl, rfl, rfl, rfl, rfl⟩
theorem test_decode_major_72 :
    decode 0x7200_0506_FF2C_0000_0000_3805 = .ok (.tagWaitAny ⟨mX, 5, 6⟩) ∧
    decode 0x7201_0506_FF00_0000_0000_0000 = .ok (.tagWaitAll ⟨m0, 5, 6⟩) ∧
    decode 0x7202_0506_FF2C_0000_0000_3805 = .ok (.tagWaitAnyXd ⟨mX, 5, 6⟩) ∧
    decode 0x7203_0506_FF00_0000_0000_0000 = .ok (.tagWaitAllXd ⟨m0, 5, 6⟩) ∧
    decode 0x7204_0506_FF2C_0000_0000_3805 = .ok (.tagFirst ⟨mX, 5, 6⟩) ∧
    decode 0x7205_05FF_FF00_0000_0025_0000 = .ok (.tagTest ⟨m0, 5, 37⟩) ∧
    decode 0x7206_05FF_FF2C_0000_0000_3805 = .ok (.tagClr ⟨mX, 5⟩) :=
  ⟨rfl, rfl, rfl, rfl, rfl, rfl, rfl⟩
theorem test_decode_major_73 :
    decode 0x7300_0506_0700_0000_0025_0000 = .ok (.cp ⟨m0, 5, 6, 7, 37⟩) ∧
    decode 0x7300_0506_072C_0000_8165_3805 = .ok (.cpDec ⟨mX, 5, 6, 7, 37, 0x81⟩) ∧
    decode 0x7301_0506_0700_0000_0025_0000 = .ok (.cpFill ⟨m0, 5, 6, 7, 37⟩) :=
  ⟨rfl, rfl, rfl⟩
theorem test_decode_major_74 :
    decode 0x7400_0506_072C_0000_0065_3805 = .ok (.cpFabRd ⟨mX, 5, 6, 7, 37, true⟩) ∧
    decode 0x7401_0506_0700_0000_0065_0000 = .ok (.cpFabWr ⟨m0, 5, 6, 7, 37, true⟩) ∧
    decode 0x7402_0506_072C_0000_0525_3805 = .ok (.cpFabRed ⟨mX, 5, 6, 7, 37, false, 5⟩) ∧
    decode 0x7403_0506_0700_0000_0065_0000 = .ok (.cpFabSig ⟨m0, 5, 6, 7, 37, true⟩) :=
  ⟨rfl, rfl, rfl, rfl⟩
theorem test_decode_major_75 :
    decode 0x7500_0506_FF2C_0000_0000_3805 = .ok (.cpSub ⟨mX, 5, 6⟩) ∧
    decode 0x7501_05FF_FF00_0000_0025_0000 = .ok (.cpSlot ⟨m0, 5, 37⟩) ∧
    decode 0x7502_05FF_FF2C_0000_0025_3805 = .ok (.cpUnsub ⟨mX, 5, 37⟩) :=
  ⟨rfl, rfl, rfl⟩
theorem test_decode_major_80 :
    decode 0x8000_FF06_FF00_0000_09E5_0000 = .ok (.mxCtx ⟨m0, 6, ⟨some 9, some 37⟩⟩) ∧
    decode 0x8001_FF06_FF2C_0001_09E5_3805 = .ok (.mxCtxSt ⟨mX, 6, true, ⟨some 9, some 37⟩⟩) ∧
    decode 0x8002_A1FF_FF00_0000_0000_0000 = .ok (.mxZero ⟨m0, 1, ⟨none, none⟩⟩) ∧
    decode 0x8003_A106_072C_7FFF_0083_3805 = .ok (.mxMm ⟨mX, 1, 6, 7, 0x7FFF, ⟨none, some 3⟩⟩) ∧
    decode 0x8004_A106_0700_7FFF_0083_0000 = .ok (.mxMms ⟨m0, 1, 6, 7, 0x7FFF, ⟨none, some 3⟩⟩) ∧
    decode 0x8005_A006_072C_0000_09E5_3805 = .ok (.mxConv ⟨mX, 0, 6, 7, ⟨some 9, some 37⟩⟩) ∧
    decode 0x8006_A106_0700_7FFF_0083_0000 = .ok (.mxGmm ⟨m0, 1, 6, 7, 0x7FFF, ⟨none, some 3⟩⟩) ∧
    decode 0x8007_A006_FF2C_000A_09E5_3805 = .ok (.mxLd ⟨mX, 0, 6, 0xA, ⟨some 9, some 37⟩⟩) ∧
    decode 0x8008_A006_FF00_000A_09E5_0000 = .ok (.mxSt ⟨m0, 0, 6, 0xA, ⟨some 9, some 37⟩⟩) ∧
    decode 0x8009_FFFF_FF2C_0002_0000_3805 = .ok (.mxPri ⟨mX, 2⟩) :=
  ⟨rfl, rfl, rfl, rfl, rfl, rfl, rfl, rfl, rfl, rfl⟩
theorem test_decode_major_90 :
    decode 0x9000_0506_FF00_0000_0000_0000 = .ok (.snd ⟨m0, 5, 6⟩) ∧
    decode 0x9001_0506_FF2C_0000_0000_3805 = .ok (.sndp ⟨mX, 5, 6⟩) :=
  ⟨rfl, rfl⟩
theorem test_decode_major_91 :
    decode 0x9100_0506_0700_0000_0005_0000 = .ok (.spawn ⟨m0, 5, 6, 7, true, 2⟩) ∧
    decode 0x9101_05FF_FF2C_0000_0000_3805 = .ok (.link ⟨mX, 5⟩) ∧
    decode 0x9102_05FF_FF00_0000_0000_0000 = .ok (.unlink ⟨m0, 5⟩) ∧
    decode 0x9103_05FF_FF2C_0000_0000_3805 = .ok (.mon ⟨mX, 5⟩) ∧
    decode 0x9104_05FF_FF00_0000_0000_0000 = .ok (.demon ⟨m0, 5⟩) ∧
    decode 0x9105_05FF_FF2C_0000_0000_3805 = .ok (.exit ⟨mX, 5⟩) ∧
    decode 0x9106_05FF_FF00_0000_0000_0000 = .ok (.kill ⟨m0, 5⟩) ∧
    decode 0x9107_FFFF_FF2C_0000_0001_3805 = .ok (.exitmail ⟨mX, true⟩) :=
  ⟨rfl, rfl, rfl, rfl, rfl, rfl, rfl, rfl⟩
theorem test_decode_major_92 :
    decode 0x9200_FFFF_FF00_0000_0000_0000 = .ok (.retire ⟨m0⟩) :=
  rfl
theorem test_decode_major_93 :
    decode 0x9300_FFFF_FF2C_0000_0000_3805 = .ok (.txnAbort ⟨mX⟩) ∧
    decode 0x9300_FFFF_FF00_0000_0001_0000 = .ok (.txnAbortDrop ⟨m0⟩) ∧
    decode 0x9301_FFFF_FF2C_0000_0000_3805 = .ok (.txnExcl ⟨mX⟩) :=
  ⟨rfl, rfl, rfl⟩
theorem test_decode_major_A0 :
    decode 0xA000_05FF_FF00_0000_0030_0000 = .ok (.rdsr ⟨m0, 5, .epc⟩) ∧
    decode 0xA001_05FF_FF2C_0000_0030_3805 = .ok (.wrsr ⟨mX, 5, .epc⟩) :=
  ⟨rfl, rfl⟩
theorem test_decode_major_A1 :
    decode 0xA100_FFFF_FF00_0000_BEEF_0000 = .ok (.trap ⟨m0, 0xBEEF⟩) ∧
    decode 0xA101_FFFF_FF2C_0000_0000_3805 = .ok (.eret ⟨mX⟩) ∧
    decode 0xA101_FFFF_FF00_0000_0001_0000 = .ok (.eretRe ⟨m0⟩) ∧
    decode 0xA102_FFFF_FF2C_0000_0000_3805 = .ok (.ebreak ⟨mX⟩) ∧
    decode 0xA103_FFFF_FF00_0000_BEEF_0000 = .ok (.park ⟨m0, 0xBEEF⟩) :=
  ⟨rfl, rfl, rfl, rfl, rfl⟩
theorem test_decode_major_A2 :
    decode 0xA200_05FF_FF2C_0000_0000_3805 = .ok (.icinv ⟨mX, 5⟩) ∧
    decode 0xA200_05FF_FF00_0000_0001_0000 = .ok (.icinvAll ⟨m0, 5⟩) ∧
    decode 0xA201_05FF_FF2C_0000_0000_3805 = .ok (.tlbinv ⟨mX, 5⟩) ∧
    decode 0xA201_05FF_FF00_0000_0001_0000 = .ok (.tlbinvAll ⟨m0, 5⟩) :=
  ⟨rfl, rfl, rfl, rfl⟩
theorem test_decode_major_B0 :
    decode 0xB000_4341_FF00_0000_0183_0000 = .ok (.vcvtLf8 ⟨m0, 3, 1, .on false 3, 1⟩) ∧
    decode 0xB001_4341_422C_0000_00C2_3805 = .ok (.vdotLf8 ⟨mX, 3, 1, 2, .on true 2⟩) :=
  ⟨rfl, rfl⟩
theorem test_decode_major_F0 :
    decode 0xF000_1234_5678_9ABC_DEF0_1234 = .ok (.nop ⟨0x123456789ABCDEF01234⟩) :=
  rfl
theorem test_decode_major_F3 :
    decode 0xF3C1_1234_5678_9ABC_DEF0_1234 = .ok (.hintSpaceWord ⟨0xF3C1123456789ABCDEF01234⟩) :=
  rfl

/-! ## Words and terms that are refused -/

/-- An ill-formed term for each check of `Instr.wf` (R147, R189, R198, R213, R240, R248, R253, R271). -/
theorem test_wf_refuses :
    ([.loop ⟨m0, 0, 1⟩, .cvt ⟨m0, 0, 2, 2, 5, 6⟩, .vcvt ⟨m0, 0, 4, 4, 0, 0, .all, 3, 1⟩, .vcvt ⟨m0, 0, 1, 0, 1, 0, .all, 3, 1⟩,
      .vcvt ⟨m0, 0, 0, 1, 0, 1, .all, 3, 1⟩, .wrsr ⟨m0, 5, .self⟩, .cpFabRed ⟨m0, 5, 6, 7, 3, false, 6⟩, .spawn ⟨m0, 5, 6, 7, true, 3⟩,
      .mxMm ⟨m0, 0, 6, 7, 0, ⟨none, none⟩⟩, .mxMms ⟨m0, 0, 6, 7, 0, ⟨none, none⟩⟩, .mxGmm ⟨m0, 0, 6, 7, 0, ⟨none, none⟩⟩,
      .mxGmm ⟨m0, 0, 6, 7, 0x8001, ⟨none, none⟩⟩, .mxLd ⟨m0, 0, 6, 0xB, ⟨none, none⟩⟩, .mxSt ⟨m0, 0, 6, 0xB, ⟨none, none⟩⟩,
      .hintSpaceWord ⟨0xEF00_0000_0000_0000_0000_0000⟩, .hintSpaceWord ⟨0xF000_0000_0000_0000_0000_0000⟩] : List Instr).all (fun i => !i.wf) = true := rfl
/-- The words they would have are refused by the decoder too; so is a nonzero unused field and a reserved operand byte (R147, R150, R157). -/
theorem test_decode_refuses :
    ([(0x2203_00FF_FF00_0000_0001_0000, .illegalOperand), (0x3212_0506_FF00_0000_0000_0000, .illegalInstruction),
      (0x9100_0506_FF00_0000_0000_0000, .illegalOperand), (0x0100_4006_0700_0000_0000_0000, .illegalOperand),
      (0x0100_0506_0700_0000_0001_0000, .illegalOperand), (0x0112_0506_0700_0000_0000_0000, .illegalInstruction),
      (0xC100_0000_0001_0000_0000_0000, .illegalInstruction)] : List (BitVec 96 × DecodeError)).all
      (fun q => match decode q.1 with
        | .error e => e == q.2
        | .ok _ => false) = true := rfl

/-! ## States for the witnesses: a member on context 0 that issues -/

/-- The state of Machine/Step.lean with no instruction placed, and its context 0 issuing. -/
def S0 : State := { State.reset.cradle [] with cur := some 0 }
/-- Context 0. -/
def kOf (s : State) : Ctx := (s.ctxs.find? 0).getD { act := 0, member := 0 }
/-- S0 with registers of context 0 written. -/
def withRegs (ws : List RegWrite) : State := S0.modCtx 0 fun k => k.puts ws
/-- Context 0 may perform an instruction. -/
def canIssue (s : State) (i : Instr) : Bool :=
  s.cur == some 0 && s.ctxs.find? 0 == some (kOf s) && match i.asks with
    | some (m, n, ctl) =>
      s.eligible 0 (kOf s) n && (ctl == .none || (kOf s).slot == none) && (kOf s).pr m.guard != m.sense && (kOf s).emptyInfo n == none
    | none => s.runs (kOf s)
theorem issues {s : State} {i : Instr} (h : canIssue s i = true) : Issues s i 0 (kOf s) := by
  rcases ha : i.asks with _ | ⟨m, n, ctl⟩ <;> simp [canIssue, Issues, ha] at h ⊢ <;> tauto
theorem issues_all {s : State} {l : List Instr} (h : l.all (canIssue s) = true) : ∀ i ∈ l, Issues s i 0 (kOf s) :=
  fun i hi => issues (List.all_eq_true.1 h i hi)
/-- Addresses of TCM and of the scratchpad area in x6. -/
def tcmAt (off : Nat) : State := withRegs [.x 6 (BitVec.ofNat 64 (0xFE00000000000000 + off))]

theorem witness_TwoSourceIntegerResults : ∀ i ∈ ([.add ⟨m0, 5, 6, 63⟩, .sub ⟨m0, 5, 6, 63⟩, .and ⟨m0, 5, 6, 63⟩, .or ⟨m0, 5, 6, 63⟩, .xor ⟨m0, 5, 6, 63⟩, .andn ⟨m0, 5, 6, 63⟩,
      .orn ⟨m0, 5, 6, 63⟩, .shl ⟨m0, 5, 6, 63⟩, .shr ⟨m0, 5, 6, 63⟩, .sra ⟨m0, 5, 6, 63⟩, .rol ⟨m0, 5, 6, 63⟩,
      .ror ⟨m0, 5, 6, 63⟩, .min ⟨m0, 5, 6, 63⟩, .max ⟨m0, 5, 6, 63⟩, .minu ⟨m0, 5, 6, 63⟩, .maxu ⟨m0, 5, 6, 63⟩,
      .mul ⟨m0, 5, 6, 63⟩, .mulh ⟨m0, 5, 6, 63⟩, .mulhu ⟨m0, 5, 6, 63⟩] : List Instr),
    Issues S0 i 0 (kOf S0) := issues_all (by decide +kernel)
theorem witness_DivisionResults : (∀ i ∈ ([.div ⟨m0, 5, 6, 63⟩, .divu ⟨m0, 5, 6, 63⟩, .rem ⟨m0, 5, 6, 63⟩, .remu ⟨m0, 5, 6, 63⟩] : List Instr), Issues S0 i 0 (kOf S0)) ∧
    let s := withRegs [.x 6 0x8000000000000000, .x 7 (BitVec.allOnes 64)]
    Issues s (.div ⟨m0, 5, 6, 7⟩) 0 (kOf s) ∧ (kOf s).xr 6 = 0x8000000000000000 ∧ (kOf s).xr 7 = BitVec.allOnes 64 :=
  ⟨issues_all (by decide +kernel), issues (by decide +kernel), by decide +kernel, by decide +kernel⟩
theorem witness_OneSourceAndImmediateResults : ∀ i ∈ ([.sel ⟨m0, 5, 6, 7, 9⟩, .mov ⟨m0, 5, 6⟩, .clz ⟨m0, 5, 6⟩, .ctz ⟨m0, 5, 6⟩, .popc ⟨m0, 5, 6⟩, .bswap ⟨m0, 5, 6⟩,
      .addi ⟨m0, 5, 6, 0xFFFFFFF0⟩, .andi ⟨m0, 5, 6, 0xFFFFFFF0⟩, .ori ⟨m0, 5, 6, 0xFFFFFFF0⟩, .xori ⟨m0, 5, 6, 0xFFFFFFF0⟩,
      .shli ⟨m0, 5, 6, 33⟩, .shri ⟨m0, 5, 6, 33⟩, .srai ⟨m0, 5, 6, 33⟩, .li ⟨m0, 5, 0x80000001⟩, .lih ⟨m0, 5, 0x80000001⟩,
      .lea ⟨m0, 5, 6, 7, 3, 0x10⟩] : List Instr),
    Issues S0 i 0 (kOf S0) := issues_all (by decide +kernel)
theorem witness_CompareAndPredicateResults : ∀ i ∈ ([.cmpEq ⟨m0, 4, 6, 7⟩, .cmpNe ⟨m0, 4, 6, 7⟩, .cmpLt ⟨m0, 4, 6, 7⟩, .cmpLe ⟨m0, 4, 6, 7⟩, .cmpLtu ⟨m0, 4, 6, 7⟩,
      .cmpLeu ⟨m0, 4, 6, 7⟩, .cmpEqImm ⟨m0, 4, 6, 77⟩, .cmpNeImm ⟨m0, 4, 6, 77⟩, .cmpLtImm ⟨m0, 4, 6, 77⟩,
      .cmpLeImm ⟨m0, 4, 6, 77⟩, .cmpLtuImm ⟨m0, 4, 6, 77⟩, .cmpLeuImm ⟨m0, 4, 6, 77⟩, .pand ⟨m0, 4, 1, 15⟩, .por ⟨m0, 4, 1, 15⟩,
      .pxor ⟨m0, 4, 1, 15⟩, .pnot ⟨m0, 4, 1⟩] : List Instr),
    Issues S0 i 0 (kOf S0) := issues_all (by decide +kernel)
theorem witness_BranchesAndTheirSlots : (∀ i ∈ ([.br ⟨m0, 0xFFFFFFFF⟩, .jmp ⟨m0, 5, 0x80000001⟩, .call ⟨m0, 5, 0x80000001⟩, .ret ⟨m0, 5⟩, .brtagSet ⟨m0, 17, 0x3FFFFFE⟩,
      .brtagClr ⟨m0, 17, 0x3FFFFFE⟩, .brtagErr ⟨m0, 17, 0x3FFFFFE⟩] : List Instr), Issues S0 i 0 (kOf S0)) ∧
    S0.ctxs.find? 0 = some (kOf S0) ∧ (S0.core 0).pmctl.getLsbD 36 = false ∧ ∃ a m, S0.acts.find? (kOf S0).act = some a ∧ a.members[(kOf S0).member]? = some m :=
  ⟨issues_all (by decide +kernel), by decide +kernel, by decide +kernel, _, _, rfl, rfl⟩
/-- Counters of 0, 1 and 2. -/
theorem witness_LoopCountsAndBranches : ∀ v ∈ [0, 1, 2], let s := withRegs [.x 5 v]
    Issues s (.loop ⟨m0, 5, 2⟩) 0 (kOf s) ∧ (kOf s).xr 5 = v := by
  intro v hv
  fin_cases hv <;> exact ⟨issues (by decide +kernel), by decide +kernel⟩
theorem witness_ScalarFloatResults : ∀ i ∈ ([.faddF32 ⟨m0, 5, 6, 63⟩, .fsubF32 ⟨m0, 5, 6, 63⟩, .fmulF32 ⟨m0, 5, 6, 63⟩, .fminF32 ⟨m0, 5, 6, 63⟩, .fmaxF32 ⟨m0, 5, 6, 63⟩,
      .fmaF32 ⟨m0, 5, 6, 63⟩, .fmsF32 ⟨m0, 5, 6, 63⟩, .fnmaF32 ⟨m0, 5, 6, 63⟩, .fabsF32 ⟨m0, 5, 6⟩, .fnegF32 ⟨m0, 5, 6⟩,
      .fdivF32 ⟨m0, 5, 6, 63⟩, .fsqrtF32 ⟨m0, 5, 6⟩, .fcmpEqF32 ⟨m0, 4, 6, 7⟩, .fcmpLtF32 ⟨m0, 4, 6, 7⟩,
      .fcmpLeF32 ⟨m0, 4, 6, 7⟩, .fcmpUnF32 ⟨m0, 4, 6, 7⟩, .fclsF32 ⟨m0, 5, 6⟩, .cvt ⟨m0, 2, 6, 2, 5, 4⟩] : List Instr),
    Issues S0 i 0 (kOf S0) := issues_all (by decide +kernel)
theorem witness_RegisterInstructionFrames :
    (∃ ok t, (Instr.vaddF32 ⟨m0, 3, 1, .v 30, .all⟩).mayWrite = some ok ∧ Issues S0 (.vaddF32 ⟨m0, 3, 1, .v 30, .all⟩) 0 (kOf S0) ∧
      exec (.vaddF32 ⟨m0, 3, 1, .v 30, .all⟩) S0 = .next t) ∧
    (∃ t, Issues S0 (.div ⟨m0, 5, 6, 7⟩) 0 (kOf S0) ∧ exec (.div ⟨m0, 5, 6, 7⟩) S0 = .next t) :=
  ⟨⟨_, _, rfl, issues (by decide +kernel), rfl⟩, _, issues (by decide +kernel), rfl⟩
/-- A due result of each kind, last in issue order, after one that is due too and before none; and an activation that goes on. -/
theorem witness_FixedLatencyResultsLand :
    (let k : Ctx := { act := 0, member := 0, pend := [⟨3, [.x 4 1]⟩] ++ [⟨3, [.x 5 7]⟩] }
     k.pend = [⟨3, [.x 4 1]⟩] ++ [⟨3, [.x 5 7]⟩] ∧ ∀ f ∈ k.pend, f.due ≤ 3 → ∀ w ∈ f.ws, w.toX 6 = false ∧ w.toV 5 = false ∧ w.toM 5 = false ∧ w.toP 5 = false ∧ w.isOr = false) ∧
    S0.lives (kOf S0).act = true ∧ ∃ t k', Issues S0 (.add ⟨m0, 5, 6, 7⟩) 0 (kOf S0) ∧ (kOf S0).pend = [] ∧ exec (.add ⟨m0, 5, 6, 7⟩) S0 = .next t ∧
      t.ctxs.find? 0 = some k' :=
  ⟨by decide +kernel, by decide +kernel, _, _, issues (by decide +kernel), rfl, rfl, rfl⟩
theorem witness_VectorIntegerAndLaneMovement : ∀ i ∈ ([.vaddI32 ⟨m0, 3, 1, .v 30, .all⟩, .vsubI32 ⟨m0, 3, 1, .v 30, .all⟩, .vmulI32 ⟨m0, 3, 1, .v 30, .all⟩,
      .vmulhI32 ⟨m0, 3, 1, .v 30, .all⟩, .vmulhUi32 ⟨m0, 3, 1, .v 30, .all⟩, .vminI32 ⟨m0, 3, 1, .v 30, .all⟩,
      .vmaxI32 ⟨m0, 3, 1, .v 30, .all⟩, .vminUi32 ⟨m0, 3, 1, .v 30, .all⟩, .vmaxUi32 ⟨m0, 3, 1, .v 30, .all⟩,
      .vand ⟨m0, 3, 1, .v 30, .all⟩, .vor ⟨m0, 3, 1, .v 30, .all⟩, .vxor ⟨m0, 3, 1, .v 30, .all⟩, .vandn ⟨m0, 3, 1, .v 30, .all⟩,
      .vabsI32 ⟨m0, 3, 1, .all⟩, .vnegI32 ⟨m0, 3, 1, .all⟩, .vmov ⟨m0, 3, 1, .all⟩, .vabsF32 ⟨m0, 3, 1, .all⟩,
      .vnegF32 ⟨m0, 3, 1, .all⟩, .vshl ⟨m0, 3, 1, .v 30, .all⟩, .vshr ⟨m0, 3, 1, .v 30, .all⟩, .vsra ⟨m0, 3, 1, .v 30, .all⟩,
      .vsel ⟨m0, 3, 5, 1, 2⟩, .vsplat ⟨m0, 3, 6, .all⟩, .vsplatI ⟨m0, 3, 0xDEADBEEF⟩, .vext ⟨m0, 5, 1, .imm 9⟩,
      .vins ⟨m0, 3, 6, .x 7⟩, .vperm ⟨m0, 3, 1, 2, .all⟩, .vshufl ⟨m0, 3, 1, 2, 2, .all⟩,
      .vrot ⟨m0, 3, 1, .imm 11, .all⟩] : List Instr),
    Issues S0 i 0 (kOf S0) := issues_all (by decide +kernel)
theorem witness_VectorFloatAndConverts : (∀ i ∈ ([.vaddF32 ⟨m0, 3, 1, .v 30, .all⟩, .vsubF32 ⟨m0, 3, 1, .v 30, .all⟩, .vmulF32 ⟨m0, 3, 1, .v 30, .all⟩,
      .vminF32 ⟨m0, 3, 1, .v 30, .all⟩, .vmaxF32 ⟨m0, 3, 1, .v 30, .all⟩, .vfmaF32 ⟨m0, 3, 1, .v 30, .all⟩,
      .vfmsF32 ⟨m0, 3, 1, .v 30, .all⟩, .vcvt ⟨m0, 1, 2, 6, 3, 1, .all, 3, 1⟩, .vcvtLf8 ⟨m0, 3, 1, .all, 1⟩,
      .vdotLf8 ⟨m0, 3, 1, 2, .all⟩] : List Instr),
    Issues S0 i 0 (kOf S0)) ∧ (([.vcvt ⟨m0, 1, 2, 6, 3, 1, .all, 3, 1⟩] : List Instr).all Instr.wf) = true := ⟨issues_all (by decide +kernel), by decide +kernel⟩
theorem witness_VectorComparesAndMasks : ∀ i ∈ ([.vcmpEqI32 ⟨m0, 6, 1, .v 30, .all⟩, .vcmpNeI32 ⟨m0, 6, 1, .v 30, .all⟩, .vcmpLtI32 ⟨m0, 6, 1, .v 30, .all⟩,
      .vcmpLeI32 ⟨m0, 6, 1, .v 30, .all⟩, .vcmpLtUi32 ⟨m0, 6, 1, .v 30, .all⟩, .vcmpLeUi32 ⟨m0, 6, 1, .v 30, .all⟩,
      .vcmpEqF32 ⟨m0, 6, 1, .v 30, .all⟩, .vcmpLtF32 ⟨m0, 6, 1, .v 30, .all⟩, .vcmpLeF32 ⟨m0, 6, 1, .v 30, .all⟩,
      .vcmpUnF32 ⟨m0, 6, 1, .v 30, .all⟩, .mand ⟨m0, 1, 2, 7⟩, .mor ⟨m0, 1, 2, 7⟩, .mxor ⟨m0, 1, 2, 7⟩, .mnot ⟨m0, 1, 2⟩,
      .mpop ⟨m0, 5, 2⟩, .mfirst ⟨m0, 5, 2⟩, .mset ⟨m0, 1, .imm 0xF00F⟩, .m2pAny ⟨m0, 4, 2⟩, .m2pAll ⟨m0, 4, 2⟩] : List Instr),
    Issues S0 i 0 (kOf S0) := issues_all (by decide +kernel)
theorem witness_ReductionsAndScans : (∀ i ∈ ([.vredaddI32 ⟨m0, 5, 1, .all⟩, .vredaddF32 ⟨m0, 5, 1, .all⟩, .vredminI32 ⟨m0, 5, 1, .all⟩, .vredminUi32 ⟨m0, 5, 1, .all⟩,
      .vredminF32 ⟨m0, 5, 1, .all⟩, .vredmaxI32 ⟨m0, 5, 1, .all⟩, .vredmaxUi32 ⟨m0, 5, 1, .all⟩, .vredmaxF32 ⟨m0, 5, 1, .all⟩,
      .vscanAddI32 ⟨m0, 3, 1, .all⟩, .vscanAddF32 ⟨m0, 3, 1, .all⟩, .vscanMinI32 ⟨m0, 3, 1, .all⟩,
      .vscanMinUi32 ⟨m0, 3, 1, .all⟩, .vscanMinF32 ⟨m0, 3, 1, .all⟩, .vscanMaxI32 ⟨m0, 3, 1, .all⟩,
      .vscanMaxUi32 ⟨m0, 3, 1, .all⟩, .vscanMaxF32 ⟨m0, 3, 1, .all⟩] : List Instr),
    Issues S0 i 0 (kOf S0)) ∧ (List.replicate 16 (5 : BitVec 32)).length = 16 := ⟨issues_all (by decide +kernel), rfl⟩

/-! ## Waiting, exceptions, system instructions -/

/-- x6 empty; a guard p1 that is false; a context in a slot. -/
def empty6 : State := S0.modCtx 0 fun k => k.emptyX 6
def inSlot : State := S0.modCtx 0 fun k => { k with slot := some 0x120 }
def m1 : Mods := { m0 with guard := 1 }
theorem witness_WaitingAndFalseGuards :
    (∃ m n ctl, (Instr.add ⟨m0, 5, 6, 7⟩).asks = some (m, n, ctl) ∧ empty6.cur = some 0 ∧ empty6.ctxs.find? 0 = some (kOf empty6) ∧
      empty6.eligible 0 (kOf empty6) n = false) ∧
    (∃ m n ctl, (Instr.br ⟨m1, 5⟩).asks = some (m, n, ctl) ∧ S0.cur = some 0 ∧ S0.ctxs.find? 0 = some (kOf S0) ∧
      S0.eligible 0 (kOf S0) n = true ∧ (kOf S0).slot = none ∧ (kOf S0).pr m.guard = m.sense) :=
  ⟨⟨_, _, _, rfl, by decide +kernel, by decide +kernel, by decide +kernel⟩,
    _, _, _, rfl, by decide +kernel, by decide +kernel, by decide +kernel, by decide +kernel, by decide +kernel⟩
/-- A branch in a slot; an `add` that reads the empty x6 with empty-action 1; both settings of dbgctl's bit for `ebreak`. -/
theorem witness_SlotAndEmptyReadTraps :
    (∃ m n ctl, (Instr.br ⟨m0, 5⟩).asks = some (m, n, ctl) ∧ ctl ≠ .none ∧ inSlot.ctxs.find? 0 = some (kOf inSlot) ∧
      inSlot.eligible 0 (kOf inSlot) n = true ∧ (kOf inSlot).slot.isSome = true) ∧
    (let o : XXX := ⟨{ m0 with eaB := true }, 5, 6, 7⟩
     empty6.eligible 0 (kOf empty6) o.need = true ∧ (kOf empty6).pr o.m.guard ≠ o.m.sense ∧ o.m.eaB = true ∧ (kOf empty6).full (.x o.b) = false) ∧
    (∀ i ∈ ([.trap ⟨m0, 0xBEEF⟩, .ebreak ⟨m0⟩] : List Instr), Issues S0 i 0 (kOf S0)) ∧ (S0.core 0).dbgctl.getLsbD 7 = false ∧
    let s := S0.modCore 0 fun q => { q with dbgctl := 0x80 }
    Issues s (.ebreak ⟨m0⟩) 0 (kOf s) ∧ (s.core 0).dbgctl.getLsbD 7 = true :=
  ⟨⟨_, _, _, rfl, by decide +kernel, by decide +kernel, by decide +kernel, by decide +kernel⟩,
    ⟨by decide +kernel, by decide +kernel, by decide +kernel, by decide +kernel⟩, issues_all (by decide +kernel), by decide +kernel,
    issues (by decide +kernel), by decide +kernel⟩
/-- A trap of each course, in an activation that runs. -/
theorem witness_ExceptionsAndTheirCourses : ∃ a, S0.ctxs.find? 0 = some (kOf S0) ∧ S0.acts.find? (kOf S0).act = some a ∧ a.phase = .running ∧
    ({ code := 0x12, course := .continue_ } : Trap).course = .continue_ ∧ ({ code := 0x05, course := .fail } : Trap).course = .fail ∧
    ({ code := 0x06, course := .repair false false } : Trap).course = .repair false false :=
  ⟨_, by decide +kernel, rfl, rfl, rfl, rfl, rfl⟩
theorem witness_ReturnsFromException : ∀ i ∈ ([.eret ⟨m0⟩, .eretRe ⟨m0⟩] : List Instr), Issues S0 i 0 (kOf S0) := issues_all (by decide +kernel)
theorem witness_SystemRegistersAndHints : (∀ i ∈ ([.rdsr ⟨m0, 5, .cycle⟩, .rdsr ⟨m0, 5, .tags⟩, .rdsr ⟨m0, 5, .tagerr⟩, .rdsr ⟨m0, 5, .progress⟩,
      .wrsr ⟨m0, 5, .fflags⟩, .wrsr ⟨m0, 5, .epc⟩, .wrsr ⟨m0, 5, .enpc⟩] : List Instr), Issues S0 i 0 (kOf S0)) ∧
    S0.cur = some 0 ∧ S0.ctxs.find? 0 = some (kOf S0) ∧ S0.runs (kOf S0) = true ∧ ∃ a, S0.acts.find? (kOf S0).act = some a ∧ a.img.region = 0 :=
  ⟨issues_all (by decide +kernel), by decide +kernel, by decide +kernel, by decide +kernel, _, rfl, rfl⟩

/-! ## Memory -/

/-- The lines of the scratchpad area of S0 owned by its actor. -/
def scratchAt (off : Nat) : State :=
  (withRegs [.x 6 (BitVec.ofNat 64 (0xFD00000000000000 + off))]).modCluster 0 fun k => { k with tags := [⟨0, 64, 0⟩] }
/-- The member of context 0 as the agent of an access. -/
def ag0 : Agent := agentOf 0 (kOf S0)
/-- S0 with a label on its page. -/
def labelled : State := { S0 with dram := S0.dram.setNum 0x20008 2 7 }
/-- A check that allows an access to the scratchpad. -/
def scratchCheck (s : State) (off n : Nat) (acc : Acc) : Bool :=
  match s.check ag0 (0xFD00000000000000 + off) n acc with
  | (.ok (.scratch o), s1) => o == off && s1.stale.isEmpty
  | _ => false
/-- A check that allows an access to global memory in a running activation that has no page there. -/
def globalCheck (s : State) (va n : Nat) (acc : Acc) (denied : Bool) : Bool :=
  match s.check ag0 va n acc with
  | (.ok (.glob v pa l), s1) => v == va && s1.stale.isEmpty && (match s1.acts.find? ag0.act with
      | some a => !s1.lockedLine ag0.act (a.linePa va pa) && !s1.poison.contains (a.linePa va pa / 64) && a.denied l.label == denied &&
          (a.pages.find? (va / 65536)).isNone && s1.lineTrigger a == none && (a.lines.filter fun e => e.1 / 1024 == va / 65536).length < 31
      | none => false)
  | _ => false

/-- The first and the last place of TCM, an address off by one, and the scratchpad's first and last dword. -/
theorem witness_ScalarMemoryResults :
    (∀ off ∈ [0, 0x13F8], let s := tcmAt off
      (∀ i ∈ ([.ldI8 ⟨m0, 5, 6, 0⟩, .ldUi8 ⟨m0, 5, 6, 0⟩, .ldI16 ⟨m0, 5, 6, 0⟩, .ldUi16 ⟨m0, 5, 6, 0⟩, .ldI32 ⟨m0, 5, 6, 0⟩,
        .ldUi32 ⟨m0, 5, 6, 0⟩, .ld64 ⟨m0, 5, 6, 0⟩, .st8 ⟨m0, 5, 6, 0⟩, .st16 ⟨m0, 5, 6, 0⟩, .st32 ⟨m0, 5, 6, 0⟩, .st64 ⟨m0, 5, 6, 0⟩] : List Instr),
        Issues s i 0 (kOf s)) ∧ (∃ a, s.acts.find? (kOf s).act = some a) ∧ InTcm ((kOf s).xr 6 + BitVec.ofInt 64 (0 : Int)) 8) ∧
    (let s := tcmAt 1
     (∀ i ∈ ([.ldI16 ⟨m0, 5, 6, 0⟩, .st64 ⟨m0, 5, 6, 0⟩, .amoAdd ⟨m0, false, 0, false, 5, 6, 7, 0⟩] : List Instr), Issues s i 0 (kOf s)) ∧
      ((kOf s).xr 6 + BitVec.ofInt 64 (0 : Int)).toNat % 2 ≠ 0) ∧
    (∀ off ∈ [0, 4088], scratchCheck (scratchAt off) off 8 .read = true ∧ scratchCheck (scratchAt off) off 8 .write = true) := by
  refine ⟨?_, ⟨issues_all (by decide +kernel), by decide +kernel⟩, by decide +kernel⟩
  intro off hoff
  fin_cases hoff <;>
    exact ⟨issues_all (by decide +kernel), ⟨_, rfl⟩, by unfold InTcm; exact ⟨by decide +kernel, by decide +kernel, by decide +kernel⟩⟩
/-- The first and the last bytes of a line, read and written; a page whose label the letter does not clear. -/
theorem witness_GlobalMemoryResults :
    (∀ va ∈ [0x100, 0x138], globalCheck S0 va 8 .read false = true ∧ globalCheck S0 va 8 .write false = true ∧ va % 64 + 8 ≤ 64) ∧
    globalCheck labelled 0x100 8 .read true = true := by decide +kernel
/-- Addresses on both sides of every bound, in an activation that runs. -/
theorem witness_AccessChecksAndTranslation : (∃ a, S0.acts.find? ag0.act = some a ∧ a.gave = []) ∧
    (0xFE00000000001400 / 2 ^ 56 = 0xFE ∧ ¬ 0xFE00000000001400 % 2 ^ 56 ≤ 0x13FF) ∧ (0xFD00000000400000 / 2 ^ 56 = 0xFD ∧ 0x3FFFFF < 0xFD00000000400000 % 2 ^ 56) ∧
    (2 ^ 52 / 2 ^ 56 = 0 ∧ 2 ^ 52 ≤ 2 ^ 52 % 2 ^ 56) ∧ 0x100 / 64 = 0x13F / 64 ∧ (∃ l, walkFrom S0.dram 0 0x100 3 = .leaf l) ∧
    walkFrom S0.dram 0 (2 ^ 39) 3 = .absent :=
  ⟨⟨_, rfl, rfl⟩, by decide +kernel, by decide +kernel, by decide +kernel, by decide +kernel, ⟨_, (by decide +kernel :
    walkFrom S0.dram 0 0x100 3 = .leaf ⟨0x40000000, 0x1000000000, false, false, true, true, true, false, 0, 0, 0x20000⟩)⟩, by decide +kernel⟩
theorem witness_AtomicResults : let s := tcmAt 0x13F8
    (∀ i ∈ ([.amoAdd ⟨m0, true, 0, false, 5, 6, 7, 0⟩, .amoAnd ⟨m0, true, 0, false, 5, 6, 7, 0⟩, .amoOr ⟨m0, true, 0, false, 5, 6, 7, 0⟩,
      .amoXor ⟨m0, true, 0, false, 5, 6, 7, 0⟩, .amoMin ⟨m0, true, 0, false, 5, 6, 7, 0⟩, .amoMax ⟨m0, true, 0, false, 5, 6, 7, 0⟩,
      .amoMinu ⟨m0, true, 0, false, 5, 6, 7, 0⟩, .amoMaxu ⟨m0, true, 0, false, 5, 6, 7, 0⟩, .amoSwap ⟨m0, true, 0, false, 5, 6, 7, 0⟩,
      .amoCas ⟨m0, true, 0, false, 5, 6, 7, 0⟩, .amoFaddF32 ⟨m0, false, 0, 5, 6, 7, 0⟩] : List Instr), Issues s i 0 (kOf s)) ∧
    (∃ a, s.acts.find? (kOf s).act = some a) ∧ InTcm ((kOf s).xr 6 + BitVec.ofInt 64 (0 : Int)) 8 :=
  ⟨issues_all (by decide +kernel), ⟨_, rfl⟩, by unfold InTcm; exact ⟨by decide +kernel, by decide +kernel, by decide +kernel⟩⟩
theorem witness_AcquireReleaseAndFences : let s := tcmAt 0
    (∀ i ∈ ([.ldAcq ⟨m0, true, false, 5, 6, 0⟩, .stRel ⟨m0, true, false, 5, 6, 0⟩, .fenceThr ⟨m0⟩, .fenceGang ⟨m0⟩, .fenceDev ⟨m0⟩,
      .fenceXd ⟨m0⟩, .pref ⟨m0, 6, 0x40⟩] : List Instr), Issues s i 0 (kOf s)) ∧
    (∃ a, s.acts.find? (kOf s).act = some a) ∧ InTcm ((kOf s).xr 6 + BitVec.ofInt 64 (0 : Int)) 8 :=
  ⟨issues_all (by decide +kernel), ⟨_, rfl⟩, by unfold InTcm; exact ⟨by decide +kernel, by decide +kernel, by decide +kernel⟩⟩
/-- Sixteen lanes at the start of TCM: contiguous, at stride 4, all at offset 0; packed forms from lane 0. -/
theorem witness_VectorMemoryResults :
    let s := withRegs [.x 6 0xFE00000000000000, .x 7 4]
    (∀ i ∈ ([.vld ⟨m0, 3, 6, 0, .all⟩, .vst ⟨m0, 3, 6, 0, .all⟩, .vlds ⟨m0, 3, 6, 7, 0, .all⟩, .vsts ⟨m0, 3, 6, 7, 0, .all⟩,
      .vgather ⟨m0, 3, 6, 7, 2, .all⟩, .vscatter ⟨m0, 3, 6, 7, 2, .all⟩, .vldUnpTf6 ⟨m0, 3, 6, 0, .all⟩, .vldUnpI4 ⟨m0, 3, 6, 0, .all⟩,
      .vldUnpUi4 ⟨m0, 3, 6, 0, .all⟩, .vstPkTf6 ⟨m0, 3, 6, 0, .all⟩, .vstPkI4 ⟨m0, 3, 6, 0, .all⟩, .vstPkUi4 ⟨m0, 3, 6, 0, .all⟩] : List Instr),
      Issues s i 0 (kOf s)) ∧ (∃ a, s.acts.find? (kOf s).act = some a) ∧ (kOf s).vlane = 0 ∧ (kOf s).denials = none ∧ (kOf s).tcm.wf = true ∧
    (∀ j, j < 16 → InTcm ((kOf s).xr 6 + BitVec.ofInt 64 (0 : Int) + BitVec.ofNat 64 (4 * j)) 4) ∧
    (∀ j, j < 16 → InTcm ((kOf s).xr 6 + BitVec.ofInt 64 (0 : Int) + BitVec.ofNat 64 j * (kOf s).xr 7) 4) ∧
    (∀ j, j < 16 → InTcm ((kOf s).xr 6 + BitVec.ofNat 64 ((laneOf ((kOf s).vr 7) j).toNat * 2 ^ 2)) 4) := by
  refine ⟨issues_all (by decide +kernel), ⟨_, rfl⟩, by decide +kernel, by decide +kernel, by decide +kernel, ?_, ?_, ?_⟩ <;>
    (unfold InTcm; decide +kernel)
/-- A result outstanding, the entry read of a `callx` outstanding, and a table address in TCM. -/
theorem witness_VariableResultsArrive :
    (let s := tcmAt 8
     Issues s (.callx ⟨m0, 5, 6, 0⟩) 0 (kOf s) ∧ (∃ a, s.acts.find? (kOf s).act = some a) ∧ InTcm ((kOf s).xr 6 + BitVec.ofNat 64 (8 * 0)) 8) ∧
    (let s := S0.modCtx 0 fun k => { k with vres := [⟨4, some 9, .load, [.x 5 1], none, []⟩, ⟨5, some 9, .callx 5 0x60 0x18, [], none, []⟩] }
     s.ctxs.find? 0 = some (kOf s) ∧ ((kOf s).vres.find? fun q => q.serial == 4) = some ⟨4, some 9, .load, [.x 5 1], none, []⟩ ∧
     ((kOf s).vres.find? fun q => q.serial == 5) = some ⟨5, some 9, .callx 5 0x60 0x18, [], none, []⟩ ∧
     ((kOf s).vres.find? fun q => q.serial == 6) = none) ∧
    ∃ a m, S0.acts.find? (kOf S0).act = some a ∧ a.members[(kOf S0).member]? = some m :=
  ⟨⟨issues (by decide +kernel), ⟨_, rfl⟩, by unfold InTcm; exact ⟨by decide +kernel, by decide +kernel, by decide +kernel⟩⟩,
    by decide +kernel, _, _, rfl, rfl⟩

/-! ## Barriers, tags, engines -/

/-- S0 with its barriers given members and arrivals. -/
def barriers (members arrived : BitVec 16) : State :=
  S0.modAct 0 fun a => { a with bars := (List.range 8).map fun n => (n, { members := members, arrived := arrived }) }
/-- The last arrival, an arrival before it, one of a member that is not in the barrier; a phase pending and none. -/
theorem witness_BarriersAndPhases :
    (∀ i ∈ ([.barArrive ⟨m0, 6⟩, .barWait ⟨m0, 6⟩, .barSync ⟨m0, 6⟩, .barLeave ⟨m0, 6⟩, .barJoin ⟨m0, 6⟩,
      .barMissing ⟨m0, 5, 6⟩] : List Instr), Issues S0 i 0 (kOf S0)) ∧
    (∃ a, S0.acts.find? (kOf S0).act = some a) ∧ (kOf S0).member < 16 ∧
    (let b := (barriers 3 2).barrier 0 6
     b.members.getLsbD 0 = true ∧ ∀ i, i < 16 → b.members.getLsbD i = true → i ≠ 0 → b.arrived.getLsbD i = true) ∧
    (let b := (barriers 3 0).barrier 0 6
     b.members.getLsbD 0 = true ∧ b.members.getLsbD 1 = true ∧ b.arrived.getLsbD 1 = false) ∧ (S0.barrier 0 6).members.getLsbD 1 = false ∧
    ((((barriers 3 0).barArrive 0 6 0).barrier 0 6).pending.find? 0).isSome = true ∧ (S0.barrier 0 6).pending.find? 0 = none :=
  ⟨issues_all (by decide +kernel), ⟨_, rfl⟩, by decide +kernel, by and_intros <;> decide +kernel⟩
/-- The last arrival in a barrier of members 0 and 1 while member 0 waits for the phase or is parked (R116, R255). -/
theorem witness_BarrierWaitsEnd : ∀ w ∈ [WaitFor.bar 6 0, .park 5], let s := (barriers 3 1).modCtx 0 fun k => { k with wait := some w }
    (∃ a, s.acts.find? 0 = some a) ∧ s.ctxs.sorted = true ∧ (s.barrier 0 6).members.getLsbD 1 = true ∧ (s.barrier 0 6).phase = 0 ∧
    (∀ i, i < 16 → (s.barrier 0 6).members.getLsbD i = true → i ≠ 1 → (s.barrier 0 6).arrived.getLsbD i = true) ∧
    s.ctxs.filter (fun x => x.2.act == 0 && x.2.member == 0) = [(0, kOf s)] ∧ (kOf s).wait = some w := by
  intro w hw
  fin_cases hw <;> exact ⟨⟨_, rfl⟩, by decide +kernel⟩
/-- A wait for tags 1 and 2, for any and for all of them, and a park, with tag 1 set and tag 2 to come (R236, R255). -/
theorem witness_TagWaitsEnd : ∀ w ∈ [WaitFor.tag true false 6 5, .tag false true 6 5, .tag true false 12 5, .park 5],
    let s := (S0.modMember 0 0 fun m => { m with tags := 2 }).modCtx 0 fun k => { k with wait := some w }
    (∃ a m, s.acts.find? 0 = some a ∧ a.members[0]? = some m ∧ (setBit m.tags 2 true &&& 6 = 6) ∧ setBit m.tags 2 true &&& 12 ≠ 12) ∧
    s.ctxs.find? 0 = some (kOf s) ∧ s.ctxs.filter (fun x => x.2.act == 0 && x.2.member == 0) = [(0, kOf s)] ∧ (kOf s).wait = some w := by
  intro w hw
  fin_cases hw <;> exact ⟨⟨_, _, rfl, rfl, by decide +kernel⟩, by decide +kernel⟩
/-- A tag set and a mask that names it or another; a parked context, and one that is not. -/
theorem witness_TagsAndPark :
    (let s := S0.modMember 0 0 fun m => { m with tags := 2 }
     (∀ i ∈ ([.tagWaitAny ⟨m0, 5, 6⟩, .tagWaitAll ⟨m0, 5, 6⟩, .tagWaitAnyXd ⟨m0, 5, 6⟩, .tagWaitAllXd ⟨m0, 5, 6⟩, .tagFirst ⟨m0, 5, 6⟩,
      .tagTest ⟨m0, 5, 37⟩, .tagClr ⟨m0, 5⟩, .park ⟨m0, 0xBEEF⟩] : List Instr), Issues s i 0 (kOf s)) ∧
     ∃ a m, s.acts.find? (kOf s).act = some a ∧ a.members[(kOf s).member]? = some m ∧ m.tags &&& 2 ≠ 0 ∧ m.tags &&& 4 = 0) ∧
    (let s := S0.modCtx 0 fun k => { k with wait := some (.park 1) }
     s.ctxs.find? 0 = some (kOf s) ∧ (kOf s).wait = some (.park 1)) ∧ S0.ctxs.find? 0 = some (kOf S0) ∧ (kOf S0).wait = none :=
  ⟨⟨issues_all (by decide +kernel), _, _, rfl, rfl, by decide +kernel, by decide +kernel⟩, by decide +kernel, by decide +kernel, by decide +kernel⟩
/-- Lengths of 0 and 4; a decryption with a key it may use, and with one it may not. -/
theorem witness_CourierSubmission :
    (∀ n ∈ [0, 4], let s := withRegs [.x 7 n]
      (∀ i ∈ ([.cp ⟨m0, 5, 6, 7, 37⟩, .cpFill ⟨m0, 5, 6, 7, 37⟩] : List Instr), Issues s i 0 (kOf s)) ∧ (kOf s).xr 7 = n) ∧
    (∃ a m, S0.acts.find? (kOf S0).act = some a ∧ a.members[(kOf S0).member]? = some m ∧ m.subTag 37 = false) ∧
    (∀ valid ∈ [true, false], let s := (withRegs [.x 5 0x100, .x 6 0xFD00000000000000, .x 7 64]).modPart 0 fun k =>
        { k with keys := [(1, { key := 1, counter := 2, valid := valid })] }
      Issues s (.cpDec ⟨m0, 5, 6, 7, 37, 1⟩) 0 (kOf s) ∧ ((s.part 0).keys.get 1 {}).valid = valid ∧ ((s.part 0).keys.get 1 {}).owner.toNat = 0 ∧
      ((kOf s).xr 5).toNat / 2 ^ 56 = 0 ∧ ((kOf s).xr 6).toNat / 2 ^ 56 = 0xFD ∧ ((kOf s).xr 7).toNat % 4 = 0 ∧ 0 < ((kOf s).xr 7).toNat) := by
  refine ⟨fun n hn => ?_, ⟨_, _, rfl, rfl, by decide +kernel⟩, fun v hv => ?_⟩
  · fin_cases hn <;> exact ⟨issues_all (by decide +kernel), by decide +kernel⟩
  · fin_cases hv <;> exact ⟨issues (by decide +kernel), by decide +kernel⟩
/-- A fill of 64 bytes in the area, and a copy within it, at banks apart and all free. -/
theorem witness_CourierFillsAndCopies : ∀ kind ∈ [CpOpKind.fill, .copy],
    let cmd : Cmd := { serial := 9, act := 0, member := 0, ctx := 0, cluster := 0, tag := 3, fn := 0x7301, kind := kind
                       dst := 0xFD00000000000100, src := 0xFD00000000000240, len := 64 }
    let s := (scratchAt 0).modCluster 0 fun k => { k with courier := [cmd] }
    ((s.cluster 0).courier.find? fun q => q.serial == cmd.serial) = some cmd ∧ (∃ a m, s.acts.find? cmd.act = some a ∧
      a.members[cmd.member]? = some m ∧ m.subTag cmd.tag = false ∧ a.gave = [] ∧
      ∀ i, i < cmd.len / 4 → s.scratchOk cmd.agent a (0x100 + 4 * i) 4 = true ∧ s.scratchOk cmd.agent a (0x240 + 4 * i) 4 = true) ∧
    s.scratch.wf = true ∧ s.stale = [] ∧ (s.cluster 0).asks = [] ∧ (s.cluster 0).banks = [] ∧ (({} : Bank).busy ≠ s.clock + 1) ∧
    ({} : Bank).refused = [] ∧ ∀ i, i < 16 → ∀ j, j < 16 → (0x100 / 4 + i) % 64 ≠ (0x240 / 4 + j) % 64 := by
  intro kind hk
  fin_cases hk <;>
    exact ⟨by decide +kernel, ⟨_, _, rfl, rfl, by decide +kernel, rfl, by decide +kernel⟩, by and_intros <;> decide +kernel⟩
/-- Fabric commands of 64 bytes to device 1, and a signal. -/
theorem witness_FabricSubmissionAndCapture :
    (let s := withRegs [.x 5 0x100, .x 6 0x200, .x 7 0x0001000000000040]
     (∀ i ∈ ([.cpFabRd ⟨m0, 5, 6, 7, 37, true⟩, .cpFabWr ⟨m0, 5, 6, 7, 37, true⟩, .cpFabRed ⟨m0, 5, 6, 7, 37, false, 5⟩] : List Instr), Issues s i 0 (kOf s)) ∧ ((kOf s).xr 7).extractLsb' 0 32 ≠ 0 ∧ ∃ a, s.acts.find? (kOf s).act = some a) ∧
    (let s := withRegs [.x 5 0x100, .x 6 0x200, .x 7 0x0001000000000000]
     Issues s (.cpFabSig ⟨m0, 5, 6, 7, 37, true⟩) 0 (kOf s) ∧ ((kOf s).xr 6).toNat % 8 = 0 ∧ ((kOf s).xr 7).extractLsb' 0 32 = 0 ∧
     (((kOf s).xr 7).extractLsb' 48 16).toNat < 512 ∧ ∃ a m, s.acts.find? (kOf s).act = some a ∧ a.members[(kOf s).member]? = some m ∧
       m.subTag 37 = false) ∧
    (∀ src ∈ [0xFD00000000000000, 0x2], ∀ r ∈ [true, false],
      let f : FabCmd := { cmd := { serial := 9, act := 0, member := 0, ctx := 0, cluster := 0, tag := 3, fn := 0x7401, dst := 0x100, src := src
                                   len := 8, reported := r }
                          die := 0, op := .wr, device := 1, rlx := true }
      let s := { scratchAt 0 with fab := [f] }
      (s.fab.find? fun f => f.cmd.serial == 9) = some f ∧ f.cmd.reported = r ∧
      ((f.invalid (s.subHolds 0 0 3)).isSome = decide (src = 0x2)) ∧
      (src ≠ 0x2 → (match readPieces f.cmd.agent (pieces f.cmd.src.toNat f.cmd.len) f.cmd s with
        | .ok cmd s1 => cmd.denied.isNone && (s1.acts.find? 0).isSome
        | _ => false) = true)) := by
  refine ⟨⟨issues_all (by decide +kernel), by decide +kernel, _, rfl⟩,
    ⟨issues (by decide +kernel), by decide +kernel, by decide +kernel, by decide +kernel, _, _, rfl, rfl, by decide +kernel⟩, ?_⟩
  intro src hs r hr
  fin_cases hs <;> fin_cases hr <;> decide +kernel
/-- A record of one slot of 64 bytes at the start of the area; a stream open, full, not full, at its end and ending. -/
def streamState : State :=
  let s := scratchAt 0
  let s1 := { s with scratch := ((s.scratch.setNum 8 8 0x10802).setNum 0x10 4 16).setNum 0x40 4 16 |>.setNum 0x50 8 0xFD00000000000040 }
  s1
def openStream : Sub :=
  { base := 0, esize := 4, store := false, rank := 1, shape := [16, 1, 1, 1], stride := [0, 0, 0, 0], tile := [16, 1, 1, 1]
    ring := 0xFD00000000000040, tagbase := 8, nslots := 1, ctx := 0 }
def withStream (u : Sub) (tags : BitVec 64) : State :=
  (withRegs [.x 5 2]).modMember 0 0 fun m => { m with subs := [(2, u)], tags := tags }
theorem witness_StreamsAndFeeder :
    (Issues streamState (.cpSub ⟨m0, 5, 6⟩) 0 (kOf streamState) ∧ ((kOf streamState).xr 6).toNat = 0xFD00000000000000 ∧
      (match (issued streamState (.cpSub ⟨m0, 5, 6⟩) 0).recordBytes ag0 0xFD00000000000000 128 16 with
       | (.ok _ _ s1, bs) => (s1.acts.find? 0).isSome && parseStream bs 0 4096 0 == some openStream
       | _ => false) = true ∧
      ∃ a m, streamState.acts.find? 0 = some a ∧ a.members[0]? = some m ∧ m.freeHandle = some 0 ∧ m.held = 0 ∧ m.subTag 8 = false) ∧
    (∀ q ∈ [(openStream, 0x100#64), (openStream, 0), ({ openStream with next := 1 }, 0), ({ openStream with ending := some 5 }, 0)],
      let s := withStream q.1 q.2
      (∀ i ∈ ([.cpSlot ⟨m0, 5, 0⟩, .cpSlot ⟨m0, 5, 1⟩, .cpUnsub ⟨m0, 5, 37⟩] : List Instr), Issues s i 0 (kOf s)) ∧ (kOf s).xr 5 = 2 ∧
      ∃ a m, s.acts.find? 0 = some a ∧ a.members[0]? = some m ∧ m.subs.find? 2 = some q.1 ∧ m.tags = q.2) ∧
    (∃ a m, S0.acts.find? 0 = some a ∧ a.members[0]? = some m ∧ m.subs.find? ((kOf S0).xr 5).toNat = none) ∧ openStream.tiles = 1 ∧
    (let s := (scratchAt 0).modMember 0 0 fun m => { m with subs := [(2, openStream)] }
     (match loadTile { act := 0, ctx := none, cluster := 0, member := 0, tag := 8, port := some 18, engine := feederNo (openStream.stack.getD 12)
                       sr := openStream.ctx } openStream 0 s with
      | .ok _ _ none s1 => (s1.acts.find? 0).any fun a => (a.members[0]?).any fun m => m.tags == 0
      | _ => false) = true ∧ openStream.asked = false ∧ openStream.reported = none ∧ openStream.ending = none ∧ openStream.failed = false ∧
     openStream.next < openStream.tiles ∧ openStream.tagbase + openStream.next % openStream.nslots < 64) ∧
    (let s := S0.modMember 0 0 fun m => { m with subs := [(2, { openStream with asked := true })] }
     ∃ a m, s.acts.find? 0 = some a ∧ a.members[0]? = some m ∧ m.subs.find? 2 = some { openStream with asked := true }) := by
  refine ⟨⟨issues (by decide +kernel), by decide +kernel, by decide +kernel, _, _, rfl, rfl, by decide +kernel, by decide +kernel, by decide +kernel⟩,
    ?_, ⟨_, _, rfl, rfl, by decide +kernel⟩, by decide +kernel, by decide +kernel, _, _, rfl, rfl, rfl⟩
  intro q hq
  fin_cases hq <;> exact ⟨issues_all (by decide +kernel), by decide +kernel, _, _, rfl, rfl, by decide +kernel, by decide +kernel⟩

/-! ## The matrix unit -/

/-- The format context of core 0 held by context 0. -/
def holding (s : State) : State := s.claim 0 0 (kOf s)
def zeroCmd : MxCmd := { op := .zero, tile := 0, aw := 0, bw := 0, k := 0, tag := some 3, pri := 1, act := 0, member := 0, cluster := 0, ctx := 0, fn := 2, cap := none }
/-- Not holding; holding with a reserved bit set, with an odd offset, with a range past the area, and with all in order. -/
theorem witness_MatrixCommandsIssue :
    (let s := scratchAt 0
     (∀ i ∈ ([.mxMm ⟨m0, 0, 6, 7, 4, ⟨none, some 3⟩⟩, .mxCtx ⟨m0, 6, ⟨none, some 3⟩⟩, .mxPri ⟨m0, 2⟩] : List Instr), Issues s i 0 (kOf s)) ∧
     (s.fctxOf 0).holds (kOf s) = false ∧ s.frankBars 0 = false ∧ ∃ m, s.memberOf (kOf s) = some m ∧ m.image = none) ∧
    (∀ q ∈ [(0x8000000000000000#64, true, false), (0x1, false, true), (0x1000, false, false), (0, false, false)],
      let s := holding ((scratchAt 0).modCtx 0 fun k => k.puts [.x 6 q.1, .x 7 q.1])
      let cmd := matrixCommand s 0 (kOf s) .mm 3 0 q.1 q.1 4 ⟨none, some 3⟩
      Issues s (.mxMm ⟨m0, 0, 6, 7, 4, ⟨none, some 3⟩⟩) 0 (kOf s) ∧ (s.fctxOf 0).holds (kOf s) = true ∧
      cmd.badWords (s.fctxOf 0).nextRecord = q.2.1 ∧ cmd.misaligned.isSome = q.2.2) ∧
    (let s := { holding (scratchAt 0) with scratch := [] }
     (match (issued s (.mxCtx ⟨m0, 6, ⟨none, some 3⟩⟩) 0).recordBytes ag0 (scratchVa 0) 64 8 with
      | (.ok _ _ _, bs) => (parseRecord bs).isSome
      | _ => false) = true) := by
  refine ⟨⟨issues_all (by decide +kernel), by decide +kernel, by decide +kernel, ⟨_, rfl, rfl⟩⟩, ?_, by decide +kernel⟩
  intro q hq
  fin_cases hq <;> exact ⟨issues (by decide +kernel), by decide +kernel, by decide +kernel, by decide +kernel⟩
/-- A record of 64 zero bytes; a claim by a context that does not hold, and by one that does; queues empty and not; a franked command that is
allowed, and one that is not; entries valid and active. -/
theorem witness_FormatContexts : (List.replicate 64 (0 : Byte)).length = 64 ∧
    ((S0.cluster 0).fctx 0).holds (kOf S0) = false ∧ (((holding S0).cluster 0).fctx 0).holds (kOf S0) = true ∧
    (∃ d rest, ((S0.cluster 0).fctx 0).queue ++ [zeroCmd] = d :: rest ∧ ∀ r, d.op ≠ .ctx r) ∧
    ((S0.cluster 0).fctx 0).queue = [] ∧ ({ zeroCmd with op := .ctx ⟨0, 0, 0⟩ } : MxCmd).op = .ctx ⟨0, 0, 0⟩ ∧
    (let s := S0.modCluster 0 fun k => { k with frank := [(0, 0xB), (1, 1)] }
     (s.frankCheck 0 { zeroCmd with cap := some 0 } 0).isSome = true ∧ s.frankCheck 0 { zeroCmd with cap := some 0x100000000 } 0x100000000 = none ∧
     ((s.cluster 0).frank.get 1 0).getLsbD 0 = true ∧ ((s.cluster 0).frank.get 1 0).getLsbD 1 = false) ∧
    (let s := S0.modCluster 0 fun k => k.setFctx 0 { k.fctx 0 with queue := List.replicate 8 zeroCmd }
     ((S0.cluster 0).fctx 0).queue.length < 8 ∧ 8 ≤ ((s.cluster 0).fctx 0).queue.length) ∧
    (∃ a, S0.acts.find? zeroCmd.act = some a ∧ a.phase = .running) ∧ zeroCmd.cap = none ∧ zeroCmd.tag = some 3 ∧ State.reset.acts.find? zeroCmd.act = none :=
  ⟨rfl, by decide +kernel, by decide +kernel, ⟨_, _, rfl, by intro r h; cases h⟩, by decide +kernel, rfl, by decide +kernel, by decide +kernel, ⟨_, rfl, rfl⟩, rfl, rfl, rfl⟩
/-- A unit that is idle with nothing to do and with something; one whose command's last step is due, whose step is not due or still wants a word
of a bank, and whose command ends; rows of a step; operations. -/
def unitState (due : Nat) (words : List Nat) : State :=
  (holding S0).modCluster 0 fun k => { k.setFctx 0 { k.fctx 0 with queue := [zeroCmd] } with mxrun := some ⟨0, 1, 0, due, words, none⟩ }
theorem witness_MatrixUnitRuns :
    (∀ f, f < 16 → ((S0.cluster 0).fctx f).queue = [] ∧ ((S0.cluster 0).fctx f).franked = false) ∧
    ((S0.tidyMatrix 0).cluster 0).mxrun = none ∧ ((S0.tidyMatrix 0).cluster 0).best none = none ∧
    (let s := ((holding S0).modCluster 0 fun k => k.setFctx 0 { k.fctx 0 with queue := [zeroCmd] }).tidyMatrix 0
     (s.cluster 0).mxrun = none ∧ (s.cluster 0).best none = some 0) ∧
    (∀ q ∈ [(0, []), (1, []), (0, [3])], let s := (unitState q.1 q.2).tidyMatrix 0
      (s.cluster 0).mxrun = some ⟨0, 1, 0, q.1, q.2, none⟩ ∧ ((s.cluster 0).fctx 0).queue = [zeroCmd] ∧
      zeroCmd.steps ((s.cluster 0).fctx 0).rcd ((s.cluster 0).fctx 0).pre = 0 + 1 ∧ (q.1 ≤ s.clock ↔ q.1 = 0)) ∧
    (let s := unitState 0 []
     (s.cluster 0).mxrun = some ⟨0, 1, 0, 0, [], none⟩ ∧ ((s.cluster 0).fctx 0).queue = [zeroCmd] ∧
     ((s.cluster 0).fctx 0).holder = some (0, 0) ∧ ∃ a m, s.acts.find? 0 = some a ∧ a.members[0]? = some m ∧ a.member? 0 = some m ∧ m.retired = false) ∧
    zeroCmd.op = .zero ∧ MxOp.mm ∈ ([.mm, .mms, .conv, .gmm] : List MxOp) ∧ ([3, 5] : List Nat).Nodup :=
  ⟨by decide +kernel, by decide +kernel, by decide +kernel, by decide +kernel, by decide +kernel,
    ⟨by decide +kernel, by decide +kernel, by decide +kernel, _, _, rfl, rfl, rfl, rfl⟩, rfl, by decide +kernel, by decide +kernel⟩

/-! ## Actors -/

/-- A postcode of this device and partition. -/
def peer : Word := 0x0000000001000001
/-- S0 with n actions, letters and spawns in the outbox. -/
def fullOutbox (n : Nat) (s : State) : State := s.modAct 0 fun a => { a with outbox := List.replicate n (.exitmail true) }
theorem witness_ActorInstructions :
    (∀ n ∈ [0, 64], ∀ w ∈ [peer, 0], let s := fullOutbox n (withRegs [.x 5 w])
      (∀ i ∈ ([.link ⟨m0, 5⟩, .unlink ⟨m0, 5⟩, .mon ⟨m0, 5⟩, .demon ⟨m0, 5⟩, .kill ⟨m0, 5⟩] : List Instr), Issues s i 0 (kOf s)) ∧ (kOf s).xr 5 = w ∧
      ∃ a, s.acts.find? (kOf s).act = some a ∧ (a.outbox.filter OutEntry.isAction).length = n ∧ a.p = 0) ∧
    (∀ n ∈ [0, 64], ∀ w ∈ [0, 1, 127, 128], let s := fullOutbox n (withRegs [.x 5 w])
      (∀ i ∈ ([.exit ⟨m0, 5⟩, .exitmail ⟨m0, true⟩, .icinv ⟨m0, 5⟩, .icinvAll ⟨m0, 5⟩, .tlbinv ⟨m0, 5⟩, .tlbinvAll ⟨m0, 5⟩] : List Instr), Issues s i 0 (kOf s)) ∧ (kOf s).xr 5 = w ∧
      ∃ a, s.acts.find? (kOf s).act = some a ∧ (a.outbox.filter OutEntry.isAction).length = n) := by
  refine ⟨?_, ?_⟩ <;> intro n hn w hw <;> fin_cases hn <;> fin_cases hw <;>
    first
    | exact ⟨issues_all (by decide +kernel), by decide +kernel, _, rfl, by decide +kernel, rfl⟩
    | exact ⟨issues_all (by decide +kernel), by decide +kernel, _, rfl, by decide +kernel⟩
/-- Letters of zeros from the area with a good and a bad destination; a parcel of a line the actor owns and of one it does not; spawns of an
image that is there, here and on another device. -/
theorem witness_SendsAndSpawns :
    (∀ d ∈ [peer, 0], let s := (scratchAt 0).modCtx 0 fun k => k.put (.x 5 d)
      (∀ i ∈ ([.snd ⟨m0, 5, 6⟩, .sndp ⟨m0, 5, 6⟩] : List Instr), Issues s i 0 (kOf s)) ∧ s.postcodeOk 0 ((kOf s).xr 5) = decide (d = peer) ∧ ((kOf s).xr 6).toNat / 2 ^ 56 = 0xFD ∧
      ((kOf s).xr 6).toNat % 64 = 0) ∧
    (match (issued (scratchAt 0) (.snd ⟨m0, 5, 6⟩) 0).recordBytes ag0 0xFD00000000000000 256 32 with
     | (.ok _ _ s1, bs) => (s1.acts.find? 0).any fun a => groupOk (buildLetter a peer 0 bs) && a.outbox.length < 64
     | _ => false) = true ∧
    (∃ a, (scratchAt 0).acts.find? 0 = some a ∧ (⟨0xFD00000000000100, 64, 0⟩ : Parcel).shapeOk = true ∧
      (scratchAt 0).ownsUnit ag0 a ⟨0xFD00000000000100, 64, 0⟩ 0xFD00000000000100 = true ∧
      (scratchAt 0).ownsUnit ag0 a ⟨0xFD00000000001000, 64, 0⟩ 0xFD00000000001000 = false) ∧
    (∀ d ∈ [0, 1], let s := (withRegs [.x 7 d]).modPart 0 fun k => k.setWord 0x100 2
      (∀ i ∈ ([.spawn ⟨m0, 5, 6, 7, true, 2⟩] : List Instr), Issues s i 0 (kOf s)) ∧ s.deviceOk 0 ((kOf s).xr 7).toNat = true ∧ (s.part 0).images.find? 0 ≠ none ∧
      s.lostmask.getLsbD 1 = false ∧ ∃ a, s.acts.find? 0 = some a ∧ a.img.supervisor = true ∧ a.outbox = []) ∧
    (∃ code, (State.reset.reserve 0 0).1 = some code) ∧ State.reset.liveActors + State.reset.heldBack < 65536 ∧ State.reset.device < 512 := by
  refine ⟨?_, by decide +kernel, ⟨_, rfl, by decide +kernel, by decide +kernel, by decide +kernel⟩, ?_, ?_, by decide +kernel⟩
  · intro d hd
    fin_cases hd <;> exact ⟨issues_all (by decide +kernel), by decide +kernel, by decide +kernel, by decide +kernel⟩
  · intro d hd
    fin_cases hd <;> exact ⟨issues_all (by decide +kernel), by decide +kernel, by decide +kernel, by decide +kernel, _, rfl, rfl, rfl⟩
  · have h : ∀ (s : State) i n, (s.part 0).actors = [] → (s.part 0).reserved = [] → (s.part 0).kept = [] →
        s.freeSlot 0 i (n + 1) = some (i % 65535) := by
      intro s i n h1 h2 h0
      have h3 : i % 65535 < 65535 := Nat.mod_lt _ (by omega)
      have h4 : ¬ i % 65535 = 65535 := by omega
      simp [State.freeSlot, State.slotTaken, h1, h2, h0, h4, Tbl.find?]
    have h5 := h { State.reset with free := State.reset.free + 1 } (Config.pick State.reset.free) 65534 rfl rfl rfl
    have h6 : (State.reset.reserve 0 0).1.isSome = true := by
      have h7 : ¬ 65536 ≤ ({ State.reset with free := State.reset.free + 1 } : State).liveActors +
          ({ State.reset with free := State.reset.free + 1 } : State).heldBack := by decide +kernel
      simp only [State.reserve, State.pickN, State.newSlot, if_neg h7, h5, Option.isSome]
    exact Option.isSome_iff_exists.1 h6
/-- A gang of two whose member 0 retires; a letter of an actor that is active. -/
theorem witness_RetireAndAborts :
    (let s := S0.modAct 0 fun a => { a with members := [{ ctx := some 0 }, { ctx := some 1 }] }
     (∀ i ∈ ([.retire ⟨m0⟩, .txnAbort ⟨m0⟩, .txnExcl ⟨m0⟩, .txnAbortDrop ⟨m0⟩] : List Instr), Issues s i 0 (kOf s)) ∧ s.ctxs.sorted = true ∧
     ∃ a m u, s.acts.find? (kOf s).act = some a ∧ a.members[(kOf s).member]? = some m ∧ a.members[1]? = some u ∧ u.retired = false) ∧
    S0.acts.sorted = true ∧ ∃ a w h, S0.acts.find? 0 = some a ∧ S0.actor? a.p a.slot = some w ∧ w.box[0]? = some h ∧ h.state = .active 0 :=
  ⟨⟨issues_all (by decide +kernel), by decide +kernel, _, _, _, rfl, rfl, rfl, rfl⟩, by decide +kernel, _, _, _, rfl, rfl, rfl, rfl⟩

/-! ## Letters, placement, commits, exits -/

/-- S0 with its actor changed. -/
def actorWith (f : Actor → Actor) : State := S0.modActor 0 0 f
/-- A letter to the actor of S0, of a kind; of a group. -/
def letterTo (kind : BitVec 8) : Letter := Letter.made 1 0 0 kind 0
def groupLetter : Letter := { letterTo 0 with gid := 7, gsize := 2, member := 1, postmark := 9 }
def heldLetters (n : Nat) (reserve : Bool) : List Held := (List.range n).map fun i => { place := i, letter := letterTo 0, reserve := reserve }
/-- No actor; another incarnation; a mailbox with room, full with each overflow mode, for a kind below and one above those of the reserve; a
reserve with room and full, a pending list with room and full; the first letter of a group. -/
theorem witness_LettersArrive : State.reset.actor? 0 0 = none ∧ (5 < (letterTo 6).kind.toNat ∧ (letterTo 6).kind ≠ 1) ∧
    (∃ w, S0.actor? 0 0 = some w ∧ w.code ≠ (2 : Word)) ∧
    (∃ w, (actorWith fun w => { w with box := [] }).actor? 0 0 = some w ∧ w.code = (letterTo 0).dest ∧ (letterTo 0).kind.toNat < 2 ∧
      w.ordinary < w.img.depth ∧ (letterTo 0).gid = 0 ∧ (letterTo 0).gsize = 0) ∧
    (∀ fail ∈ [true, false], ∃ w, (actorWith fun w => { w with box := heldLetters 1 false, img := { w.img with overflowFail := fail } }).actor? 0 0 =
      some w ∧ w.code = (letterTo 0).dest ∧ w.img.depth ≤ w.ordinary ∧ w.img.overflowFail = fail) ∧
    (∃ w, (actorWith fun w => { w with box := [] }).actor? 0 0 = some w ∧ w.ordinary < w.img.depth ∧ groupLetter.gid ≠ 0 ∧
      groupLetter.member.toNat < groupLetter.gsize.toNat ∧ (S0.part 0).groups.length < 256 ∧ (S0.part 0).groups.find? groupLetter.gid.toNat = none) ∧
    (∃ w, S0.actor? 0 0 = some w ∧ w.inReserve < 4 ∧ 3 ≤ (letterTo 3).kind.toNat ∧ (letterTo 3).kind.toNat ≤ 5) ∧
    (∀ n ∈ [0, 64], ∃ w, (actorWith fun w => { w with box := heldLetters 4 true ++ heldLetters 1 false, pending := List.replicate n (letterTo 3) }).actor? 0 0 =
      some w ∧ 4 ≤ w.inReserve ∧ w.img.depth ≤ w.ordinary ∧ w.pending.length = n) := by
  refine ⟨by decide +kernel, by decide, ⟨_, rfl, by decide +kernel⟩, ⟨_, rfl, rfl, by decide +kernel, by decide +kernel, rfl, rfl⟩, ?_,
    ⟨_, rfl, by and_intros <;> decide +kernel⟩, ⟨_, rfl, by and_intros <;> decide +kernel⟩, ?_⟩
  · intro f hf
    fin_cases hf <;> exact ⟨_, rfl, rfl, by decide +kernel, rfl⟩
  · intro n hn
    fin_cases hn <;> exact ⟨_, rfl, by decide +kernel, by decide +kernel, rfl⟩
/-- A group of the one letter of S0, whose member has retired: open, locked, at its commit point. It stands with another that is at its own. -/
def groupState (locked committed : Bool) : State :=
  let s := (S0.modAct 0 fun a => { a with members := [{ ctx := none, retired := true }], letter := { groupLetter with gsize := 1, member := 0 } })
  { s with ctxs := [] }.modPart 0 fun k => { k with groups := [(7, { gsize := 1, sender := 0, postmark := 9, opened := 0, joined := [⟨0, 0, 0⟩], locked := locked, committed := committed })] }
/-- The group past phase 2b. -/
def closingState : State :=
  (groupState true true).modPart 0 fun k => { k with groups := [], closing := k.groups }
/-- A line of a page that is gone. -/
def staleLine (s : State) : State :=
  s.modAct 0 fun a => { a with lines := [(2 ^ 40, ⟨[(0, 1)], 0, ⟨65536, 0, false, false, true, true, false, false, 0, 0, 0⟩⟩)] }
theorem witness_GroupsCommitOrEnd : ((S0.part 0).groups.find? 7 = none ∧ (S0.part 0).closing.find? 7 = none) ∧
    (let s := (groupState true false).modPart 0 fun k => { k with closing := [(8, { gsize := 1, sender := 0, postmark := 9, opened := 0 })] }
     (∃ g, (s.part 0).groups.find? 7 = some g ∧ g.locked = true ∧ g.withdrawn = false) ∧ ∃ k ∈ s.parts, k.2.closing ≠ []) ∧
    (∃ g as, (closingState.part 0).closing.find? 7 = some g ∧ closingState.groupActs 0 g = some as ∧ ∃ k ∈ closingState.parts, k.2.closing ≠ []) ∧
    (∃ g as, ((groupState false false).part 0).groups.find? 7 = some g ∧ g.locked = false ∧ g.withdrawn = false ∧
      (groupState false false).groupReady 0 g = true ∧
      (groupState false false).groupActs 0 g = some as ∧ as.foldl (fun st a => st.unackCheck a.1) (groupState false false) = groupState false false ∧
      (∀ a ∈ as, ((groupState false false).acts.find? a.1).map (fun k => k.phase) = some .running) ∧
      let s1 := as.foldl (fun st a => if (st.acts.find? a.1).isSome then st.checkConflicts a.1 a.2 else st) (groupState false false)
      (as.filter fun a => (s1.acts.find? a.1).isNone || !s1.leavesSame a.2) = []) ∧
    (let s := staleLine (groupState false false)
     ∃ g as, (s.part 0).groups.find? 7 = some g ∧ g.locked = false ∧ g.withdrawn = false ∧ s.groupReady 0 g = true ∧ s.groupActs 0 g = some as ∧
      as.foldl (fun st a => st.unackCheck a.1) s = s ∧ (∀ a ∈ as, (s.acts.find? a.1).map (fun k => k.phase) = some .running) ∧
      ∃ a ∈ as, s.leavesSame a.2 = false) ∧
    (∃ g as, ((groupState true false).part 0).groups.find? 7 = some g ∧ g.locked = true ∧ g.withdrawn = false ∧
      ((groupState true false).part 0).groups.sorted = true ∧
      (∀ k ∈ (groupState true false).parts, k.2.closing = []) ∧ (groupState true false).groupActs 0 g = some as) :=
  ⟨by decide +kernel, ⟨⟨_, rfl, rfl, rfl⟩, _, List.mem_singleton.2 rfl, by decide +kernel⟩,
    ⟨_, _, rfl, rfl, _, List.mem_singleton.2 rfl, by decide +kernel⟩,
    ⟨_, _, rfl, rfl, rfl, by decide +kernel, rfl, by decide +kernel, by decide +kernel, by decide +kernel⟩,
    ⟨_, _, rfl, rfl, rfl, by decide +kernel, rfl, by decide +kernel, by decide +kernel, _, List.mem_singleton.2 rfl, by decide +kernel⟩,
    _, _, rfl, rfl, rfl, by decide +kernel, by decide +kernel, rfl⟩
/-- S0 with a queue at cluster 0: nothing, a letter that fits. -/
def placing : State :=
  ({ S0 with ctxs := [], acts := [] }.modActor 0 0 fun w => { w with box := heldLetters 1 false }).modCluster 0 fun k => { k with queue := [.candidate 0 0 0 0] }
theorem witness_PlacementEvents :
    ((S0.cluster 0).drain = none ∧ ∀ e ∈ (S0.cluster 0).queue, S0.fits 0 e = none) ∧
    ((placing.cluster 0).drain = none ∧ (placing.cluster 0).queue = [] ++ QEntry.candidate 0 0 0 0 :: [] ∧
      (placing.fits 0 (.candidate 0 0 0 0)).isSome = true) ∧
    (∀ now ∈ [2999999, 3000000], let s := { placing with clock := now }
      (s.cluster 0).drain = none ∧ (s.cluster 0).queue = .candidate 0 0 0 0 :: [] ∧ (s.clock < 0 + 3000000 ↔ now = 2999999)) ∧
    (let s := placing.modCluster 0 fun k => { k with drain := some (.candidate 0 0 0 0) }
     (s.cluster 0).drain = some (.candidate 0 0 0 0)) ∧
    (∀ saving ∈ [true, false], let s := S0.modMember 0 0 fun m => { m with saving := saving }
      s.savable 0 = saving ∧ s.ctxs.sorted = true ∧ s.transit = [] ∧ s.ctxs.find? 0 = some (kOf s) ∧
      ∃ a m, s.acts.find? 0 = some a ∧ a.members[(kOf s).member]? = some m) ∧
    (let s := (placing.modActor 0 0 fun w => { w with box := w.box.map fun h => { h with exclusive := true } })
     s.served.find? 0 = none ∧ (∃ k, (0, k) ∈ s.clusters) ∧ dieOfCluster 0 = 0 ∧ (s.exclusiveHead 0).isSome = true) ∧
    ({ S0 with served := [(0, (0, 0, 0))] } : State).served.find? 0 ≠ none ∧
    (let s := placing
     ∃ w h, s.actor? 0 0 = some w ∧ w.box[0]? = some h ∧ ([0] : List Nat).Nodup ∧ ([0] : List Nat).length = w.img.g ∧ s.scratch.wf = true ∧
       256 ≤ w.areaFor h ∧ h.owns = []) := by
  refine ⟨by decide +kernel, by decide +kernel, by decide +kernel, by decide +kernel, ?_,
    ⟨by decide +kernel, ⟨_, List.mem_singleton.2 rfl⟩, by decide +kernel, by decide +kernel⟩, by decide +kernel,
    _, _, rfl, rfl, by decide +kernel, by decide +kernel, by decide +kernel, by decide +kernel, rfl⟩
  intro b hb
  fin_cases hb <;> exact ⟨by decide +kernel, by decide +kernel, by decide +kernel, by decide +kernel, _, _, rfl, rfl⟩
/-- An activation whose member has retired. -/
def retired : State :=
  { S0.modAct 0 fun a => { a with members := [{ ctx := none, retired := true }] } with ctxs := [] }
theorem witness_CommitsPublish : State.reset.acts.find? 0 = none ∧
    (∃ a, S0.acts.find? 0 = some a ∧ S0.ready 0 a = false) ∧
    (∃ a w, retired.acts.find? 0 = some a ∧ a.letter.inGroup = false ∧ retired.ready 0 a = true ∧ (∀ m ∈ a.members, m.tagerr = 0) ∧
      (∀ k ∈ retired.clusters, ∀ f ∈ k.2.fctxs, f.2.mxstat.getLsbD 7 = false) ∧ (retired.checkConflicts 0 a).leavesSame a = true ∧
      retired.leavesSame a = true ∧ (∀ m b, m ≠ 0 → retired.acts.find? m = some b → sameDomain a b = true → sigMeets b.rsig a.wsig = false) ∧
      retired.acts.sorted = true ∧ a.pages = [] ∧ a.owners = [] ∧ a.outbox = [] ∧ retired.dram.wf = true ∧
      retired.actor? a.p a.slot = some w ∧ w.pending = []) ∧
    (∃ a, (staleLine retired).acts.find? 0 = some a ∧ (staleLine retired).ready 0 a = true ∧
      ((staleLine retired).checkConflicts 0 a).leavesSame a = false) := by
  refine ⟨by decide +kernel, ⟨_, rfl, by decide +kernel⟩, ⟨_, _, rfl, rfl, by decide +kernel, by decide +kernel, by decide +kernel,
    by decide +kernel, by decide +kernel, ?_, by decide +kernel, rfl, rfl, rfl, by decide +kernel, rfl, rfl⟩, _, rfl, by decide +kernel, by decide +kernel⟩
  intro m b hm h
  have h0 : retired.acts = [(0, (retired.acts.find? 0).get (by decide +kernel))] := by decide +kernel
  rw [h0] at h
  simp [Tbl.find?] at h
  exact absurd h.1.symm hm
/-- Two activations of S0's actor: the first has written what the second has read, so that its commit aborts it, and what it has not. -/
def conflicting (va : Nat) : State :=
  { retired with acts := retired.acts.flatMap fun a =>
      [(0, { a.2 with wsig := sigSet 0 0x100 }), (1, { a.2 with order := 1, place := 1, rsig := sigSet 0 va })] }
theorem witness_conflicts : ∀ va ∈ [0x100, 0x40000], ∃ a b, (conflicting va).acts.sorted = true ∧ (conflicting va).acts.find? 0 = some a ∧
    (conflicting va).acts.find? 1 = some b ∧ sameDomain a b = true ∧ (conflicting va).orderedDomain a = true ∧ (conflicting va).before a b = true ∧
    sigMeets b.rsig a.wsig = decide (va = 0x100) ∧ b.phase = .running := by
  intro va hv
  fin_cases hv <;> exact ⟨_, _, by decide +kernel, rfl, rfl, rfl, rfl, rfl, by decide +kernel, rfl⟩
/-- The activation of S0, its member retired, completes: its commit finishes it. -/
theorem witness_activationCommit_completes : ∃ a, retired.acts.find? 0 = some a ∧
    exec (.activationCommit 0) retired = .next (retired.finish 0 a) := ⟨_, rfl, rfl⟩
def failedState (recorded : Bool) : State :=
  { S0.modAct 0 fun a => { a with phase := .failed ⟨5, 0, 0, 0, 0, 0, 0, 0⟩ recorded } with ctxs := [] }
/-- A failure recorded and not, in its turn and behind an earlier activation, with the record ring full and off; kills in a partition that
runs and in a fatal one, of an actor of no group, of one that withdraws and of one past its commit point; an exit with no child and with one. -/
theorem witness_FailuresAndExits :
    (∀ r ∈ [true, false], ∃ a f, (failedState r).acts.find? 0 = some a ∧ a.phase = .failed f r ∧ (failedState r).oldest 0 a = true) ∧
    (let s := failedState false
     let t : State := { s with acts := s.acts.flatMap fun (a : Nat × Act) => [(0, { a.2 with order := 1 }), (1, a.2)] }
     ∃ a f, t.acts.find? 0 = some a ∧ a.phase = .failed f false ∧ t.oldest 0 a = false) ∧
    (∀ full ∈ [true, false], let s := (failedState false).modPart 0 fun k =>
        (((k.setWord 0x428 1).setWord 0x408 64).setWord 0x400 0x1000010000).setWord 0x410 (if full then 64 else 0)
      ∃ a f, s.acts.find? 0 = some a ∧ a.phase = .failed f false ∧ s.oldest 0 a = true ∧ (s.record a.p 0 none []).2 = !full) ∧
    (∃ a m, S0.acts.find? 0 = some a ∧ a.phase = .running ∧ a.members = [] ++ m :: [] ∧ m.ctx = some 0 ∧ S0.ctxs.find? 0 = some (kOf S0)) ∧
    (S0.living 0 2 = none ∧ (S0.part 0).fatal = none ∧ ∃ w, S0.living 0 1 = some w ∧ S0.lockedGroups 0 0 = []) ∧
    (let s := S0.modPart 0 fun k => { k with fatal := some (1, 0) }
     (s.part 0).fatal ≠ none ∧ (s.living 0 1).isSome = true) ∧
    (∀ q ∈ [(groupState true false, false), (closingState, true)], let s := q.1.modAct 0 fun a => { a with phase := .locked }
      (s.living 0 1).isSome = true ∧ s.lockedGroups 0 0 = (7, q.2) :: []) ∧
    (∃ w, (actorWith fun w => { w with supervisor := some 0x2000001 }).actor? 0 0 = some w ∧ w.supervisor = some 0x2000001 ∧
      (0x2000001 : Word).toNat / 2 ^ 48 = S0.device ∧ w.leaving = none ∧ w.children = []) ∧
    (∃ w d, (actorWith fun w => { w with children := [⟨peer, 0, .always, false, false, false, 0⟩] }).actor? 0 0 = some w ∧ w.children = d :: [] ∧
      w.leaving = none ∧ w.code.toNat / 2 ^ 24 % 2 ^ 20 = 0 ∧ d.dead = false ∧ d.killing = false ∧ d.code.toNat / 2 ^ 48 = S0.device) ∧
    (S0.part 0).actors.sorted = true ∧ S0.acts.sorted = true := by
  refine ⟨?_, ⟨_, _, rfl, rfl, by decide +kernel⟩, ?_, ⟨_, _, rfl, rfl, rfl, rfl, rfl⟩, ⟨by decide +kernel, rfl, _, rfl, by decide +kernel⟩,
    by decide +kernel, by decide +kernel, ⟨_, rfl, rfl, by decide +kernel, rfl, rfl⟩, ⟨_, _, rfl, rfl, by decide +kernel⟩, by decide +kernel⟩
  · intro r hr
    fin_cases hr <;> exact ⟨_, _, rfl, rfl, by decide +kernel⟩
  · intro r hr
    fin_cases hr <;> exact ⟨_, _, rfl, rfl, by decide +kernel, by decide +kernel⟩
/-- A member in WAIT at its budget: sr.epc names the instruction after its wait, 12 bytes on (R360). -/
theorem test_budget_of_a_waiting_member :
    let k := { kOf S0 with wait := some (.park 5) }
    (k.stand.take { code := cBudget }).epc = k.pc + 12 := by decide +kernel

/-! ## Supervision, host, management -/

/-- S0's actor as a supervisor of one child, with a history of restarts. -/
def supervisor (mode : RestartMode) (killing : Bool) (history : List Nat) (whole : Option WholeEvent) : State :=
  actorWith fun w => { w with children := [⟨peer, 0, mode, killing, false, true, 0⟩], history := history, whole := whole }
/-- The same supervisor after its escalation, and while its exit waits for the child. -/
def exiting : State := (supervisor .always false [] none).modActor 0 0 fun w => { w with leaving := some ⟨{ reason := 0 }, false, []⟩ }
theorem witness_RestartsAndRebuilds : State.reset.actor? 0 0 = none ∧ (∃ w, S0.actor? 0 0 = some w ∧ w.child? peer = none ∧ w.whole = none) ∧
    (∃ w c, (supervisor .never false [] none).actor? 0 0 = some w ∧ w.child? peer = some c ∧ w.whole = none ∧ c.dead = false ∧
      c.mode.restarts 0 false = false ∧ w.escalated = false ∧ w.leaving = none) ∧
    (∀ h ∈ [[], [0]], ∃ w c, (supervisor .always false h none).actor? 0 0 = some w ∧ w.child? peer = some c ∧ w.whole = none ∧ c.dead = false ∧
      c.mode.restarts 0 false = true ∧ (w.history.filter fun t => S0.now - t < w.img.window * 1500000).length = h.length ∧ w.img.maxr = 1 ∧
      w.escalated = false ∧ w.leaving = none) ∧
    (let s := (supervisor .always false [] none).modActor 0 0 fun w => { w with escalated := true }
     (s.part 0).fatal = none ∧ ∃ w c, s.actor? 0 0 = some w ∧ w.child? peer = some c ∧ w.escalated = true) ∧
    ((exiting.part 0).fatal = none ∧ ∃ w c, exiting.actor? 0 0 = some w ∧ exiting.living 0 1 = some w ∧ w.child? peer = some c ∧ w.leaving ≠ none) ∧
    (let s := (supervisor .always false [] none).modPart 0 fun k => { k with fatal := some (1, 0) }
     (s.part 0).fatal ≠ none ∧ ∃ w c, s.actor? 0 0 = some w ∧ w.child? peer = some c) ∧
    (∃ w, (supervisor .always false [] (some ⟨0, false⟩)).actor? 0 0 = some w ∧ w.whole ≠ none ∧ ∀ c ∈ w.children, c.killing = false) ∧
    (S0.actor? 0 1 = none ∧ (S0.part 0).reserved.find? 1 = none ∧ S0.actor? 0 0 ≠ none) ∧
    (∀ e ∈ [none, some ⟨0, false⟩], ∃ w, (supervisor .always false [] e).living 0 1 = some w ∧ w.whole = e ∧ w.leaving = none ∧
      ∃ c, w.child? peer = some c ∧ c.asked = true) := by
  refine ⟨by decide +kernel, ⟨_, rfl, rfl, rfl⟩, ⟨_, _, rfl, rfl, by decide +kernel⟩, ?_, ⟨rfl, _, _, rfl, rfl, rfl⟩,
    ⟨rfl, _, _, rfl, rfl, rfl, by decide +kernel⟩, ⟨by decide +kernel, _, _, rfl, rfl⟩, ⟨_, rfl, by decide +kernel, by decide +kernel⟩, by decide +kernel, ?_⟩
  · intro h hh
    fin_cases hh <;> exact ⟨_, _, rfl, rfl, by decide +kernel⟩
  · intro e he
    fin_cases he <;> exact ⟨_, rfl, rfl, rfl, _, rfl, rfl⟩
/-- A supervisor that escalates, with one of its own and without; the record ring off, with room, and full. -/
theorem witness_escalations : (∃ w, (actorWith fun w => { w with supervisor := some peer }).actor? 0 0 = some w ∧ w.supervisor ≠ none) ∧
    ∀ x ∈ [(0, 0, false, false), (1, 0, true, false), (1, 64, true, true)], let s := (supervisor .always false [0] none).modPart 0 fun k =>
        (((k.setWord 0x428 x.1).setWord 0x408 64).setWord 0x400 0x1000010000).setWord 0x410 x.2.1
      ∃ w c, s.actor? 0 0 = some w ∧ w.child? peer = some c ∧ w.supervisor = none ∧
        let t := (s.modActor 0 0 fun w => { w.dropChild c.code with whole := none, escalated := true }).letGo 0 w.code c.code
        (t.part 0).ringOn = x.2.2.1 ∧ (t.part 0).ringFull = x.2.2.2 := by
  refine ⟨⟨_, rfl, by decide +kernel⟩, fun x hx => ?_⟩
  fin_cases hx <;> exact ⟨_, _, rfl, rfl, by decide +kernel⟩
/-- An escalation without a supervisor, with room in the ring and without: the record waits, and with it the exit (R351, R370). -/
theorem test_escalation_waits_for_its_record : ∀ prod ∈ [(0, true), (64, false)],
    (∃ w c, let s := (supervisor .always false [0] none).modPart 0 fun k =>
        (((k.setWord 0x428 1).setWord 0x408 64).setWord 0x400 0x1000010000).setWord 0x410 prod.1
      s.actor? 0 0 = some w ∧ w.child? peer = some c ∧ w.supervisor = none ∧
      (s.escalate 0 0 w c).agenda.contains (.killPoint 0 w.code (.escalate c.code)) = prod.2) := by
  intro x hx
  fin_cases hx <;> exact ⟨_, _, rfl, rfl, rfl, by decide +kernel⟩
/-- Images there and not; a spawn outstanding, released and held; targets that live and do not, with room and without. -/
def remoteState : State := { S0 with remote := [⟨4, 1, 0, 0, 0, 0, 5, 0, 0, false⟩] }.modPart 0 fun k => { k with reserved := [(3, (0x3000001, 0))] }
theorem witness_BirthsAndRemoteRequests :
    (S0.part 0).images.find? 1 = none ∧ ((∃ img, (S0.part 0).images.find? 0 = some img) ∧ (S0.part 0).reserved.sorted = true ∧
      (match S0.birth 0 0 0x1000001 (some 0) none with
       | .ok _ => true
       | .error _ => false) = true) ∧
    (remoteState.remote.find? fun r => r.serial == 5) = none ∧
    (∃ r a k, (remoteState.remote.find? fun r => r.serial == 4) = some r ∧ remoteState.acts.find? r.act = some a ∧ remoteState.ctxs.find? r.ctx = some k) ∧
    (remoteState.part 0).reserved.sorted = true ∧ (remoteState.part 0).reserved.find? 3 = some (0x3000001, 0) ∧
    S0.living 0 2 = none ∧ (∃ w, S0.living 0 1 = some w ∧ w.links.length < 32) ∧
    (∃ w, (actorWith fun w => { w with links := List.replicate 32 peer }).living 0 1 = some w ∧ (3 : Word) ∉ w.links ∧ 32 ≤ w.links.length) :=
  ⟨by decide +kernel, ⟨⟨_, rfl⟩, by and_intros <;> decide +kernel⟩, by decide +kernel, ⟨_, _, _, rfl, rfl, rfl⟩, by decide +kernel, rfl, rfl,
    ⟨_, rfl, by decide +kernel⟩, _, rfl, by and_intros <;> decide +kernel⟩
/-- A function that answers, with a staging slot free, in use, and holding a letter for the actor; readable and unreadable lines. -/
def hostState (stat : Word) (image : List Byte) : State :=
  S0.modPart 0 fun k => { k with tdisp := .run, win := [(0, ⟨image, stat⟩)] }
/-- A memory request of one line at 0x100 in progress. -/
def requested (w : Option (List Byte)) : State :=
  { hostState 0 [] with requests := [{ serial := 7, p := 0, off := 0x100, lines := [⟨0, 0x100, 2⟩], write := w }] }
theorem witness_DoorbellsAndAperture : S0.hostOpen 0 = false ∧
    (∀ stat ∈ [0, 1], ∀ image ∈ [[], [1]], let s := hostState stat image
      s.hostOpen 0 = true ∧ ((s.part 0).win.get 0 {}).stat = stat ∧
      s.hostLetterOk 0 (slotLetter image) = decide (image = [1]) ∧ (s.actor? 0 (pcSlot (slotLetter image).dest)).isSome = true) ∧
    (∀ f ∈ [0#4, 2#4], ({ hostState 0 [] with scFailed := f } : State).scFailed.getLsbD 1 = decide (f = 2#4)) ∧
    (∃ r l, (requested none).requests.find? (fun q => q.serial == 7) = some r ∧ r.lines = l :: [] ∧ (requested none).hostOpen r.p = true ∧ r.write = none) ∧
    (∃ r l bs, (requested (some [1, 2])).requests.find? (fun q => q.serial == 7) = some r ∧ r.lines = l :: [] ∧ r.write = some bs) ∧
    (match (hostState 0 []).hostRead 0 0 64 with
     | .ok _ b => !b
     | _ => false) = true ∧
    (match (hostState 0 []).hostRead 0 (2 ^ 40) 64 with
     | .bad _ => true
     | _ => false) = true ∧
    (match ({ hostState 0 [] with poison := [0x1000000100 / 64] } : State).hostRead 0 0x100 64 with
     | .ok _ b => b
     | _ => false) = true ∧
    (∃ l, (hostState 0 []).walk 0 0x100 = .leaf l ∧ l.atomic = false ∧ l.w = true ∧ l.cow = false ∧ (hostState 0 []).lineBusy 0 0x100 0x1000000100 = false) ∧
    (∃ a, (S0.modAct 0 fun a => { a with rsig := sigSet 0 0x100 }).acts.find? 0 = some a ∧ a.p = 0 ∧ sigMeets a.rsig (sigSet 0 0x100) = true) := by
  refine ⟨by decide +kernel, ?_, by decide +kernel, ⟨_, _, rfl, rfl, by decide +kernel, rfl⟩, ⟨_, _, _, rfl, rfl, rfl⟩, by decide +kernel,
    by decide +kernel, by decide +kernel, ⟨_, (by decide +kernel :
    (hostState 0 []).walk 0 0x100 = .leaf ⟨0x40000000, 0x1000000000, false, false, true, true, true, false, 0, 0, 0x20000⟩), rfl, rfl, rfl, by decide +kernel⟩,
    _, rfl, rfl, by decide +kernel⟩
  intro stat hs image hi
  fin_cases hs <;> fin_cases hi <;> decide +kernel
/-- A slot emptied of its actor, one whose actor has another home now, on a die whose service core answers and on one whose does not; a letter
that came to die 0 for it. -/
theorem witness_handed_on : let m : Letter := { letterTo 0 with postmark := 9 }
    m.postmark ≠ 0 ∧ m.gsize = 0 ∧ groupLetter.gsize ≠ 0 ∧ State.reset.actor? 0 (pcSlot m.dest) = none ∧
    ∀ q ∈ [(8, 0#4, 1), (8, 2#4, 0), (0, 0, 0)], let s : State := { actorWith fun w => { w with cluster := q.1 } with scFailed := q.2.1 }
      s.scFailed.getLsbD 0 = false ∧ (s.actor? 0 (pcSlot m.dest)).map (fun a =>
        if s.scFailed.getLsbD (dieOfCluster a.cluster) then 0 else dieOfCluster a.cluster) = some q.2.2 := by decide +kernel
theorem witness_HostCommandsAndRegisters :
    ((S0.part 0).commons.find? 3 = none ∧ S0.commonsCount < 4096) ∧ (S0.part 0).state = .ready ∧ (S0.part 0).repairs.find? 4 = none ∧
    (let s := S0.modPart 0 fun k => { k with commons := [(3, true)], repairs := [(4, ⟨.context 0, 0, 6, 0⟩)] }
     (s.part 0).commons.find? 3 ≠ none ∧ (¬ ∃ w ∈ (s.part 0).actors, w.2.img.commons = some 3) ∧ (s.part 0).repairs.find? 4 = some ⟨.context 0, 0, 6, 0⟩ ∧
     s.ctxs.find? 0 = some (kOf s)) ∧
    ((hostState 0 []).hostOpen 0 = true ∧ ((hostState 0 []).part 0).owed = [] ∧ ((hostState 0 []).part 0).stalled = []) ∧
    ((S0.core 0).halted = false ∧ (kOf S0).inside S0.clock = false ∧ ∀ i, i < 8 → i ≠ 0 → S0.ctxs.find? (8 * 0 + i) = none) ∧
    (let s := S0.modCore 0 fun q => { q with dbgctl := 0x108 }
     (s.core 0).halted = true ∧ (s.core 0).dbgctl.getLsbD 8 = true ∧ (S0.core 0).dbgctl.getLsbD 8 = false) ∧
    S0.hostOpen 0 = false ∧ { S0 with fn0Session := false }.fn0Session = false ∧ S0.fn0Session = true ∧
    (∀ off ∈ ([0x10, 0x80, 0x90, 0x98, 0xA0, 0xA8, 0xC0, 0xC8, 0xD0, 0xD8, 0x200, 0x208, 0x218, 0x228, 0x300, 0x500, 0x600, 0x608] : List Nat),
      (ctlMask off).isSome = true) := by
  refine ⟨by decide +kernel, rfl, rfl, ⟨by decide +kernel, ?_, rfl, by decide +kernel⟩, by decide +kernel,
    by decide +kernel, by decide +kernel, by decide +kernel, rfl, rfl, by decide +kernel⟩
  rintro ⟨w, hw, h⟩
  have hw' : w ∈ ([(0, { newActor 1 cradleImage 0 0 1 [] none with box := [{ place := 0, letter := cradleLetter, state := .active 0 }], nextPlace := 1, nextOrder := 1 })] : List (Nat × Actor)) := hw
  rw [List.mem_singleton.1 hw'] at h
  exact absurd h (by decide)
/-- A set-up in order, and ones that overlap, name no rows and ask for too much; a partition to tear down, and one that is not ready. -/
theorem witness_PartitionSetUpAndTearDown : State.reset.bootStage = 5 ∧ State.reset.setUpRefused 0 0 24 536 = false ∧ State.reset.setUpRefused 0 0 0 1 = true ∧
    State.reset.setUpRefused 0 1 24 1 = true ∧ State.reset.setUpRefused 0 0 1 537 = true ∧ S0.setUpRefused 1 23 1 1 = true ∧
    (∃ k, S0.parts.find? 0 = some k ∧ k.state ≠ .free) ∧ (State.reset.part 0).state ≠ .ready ∧
    ((S0.part 0).state = .ready ∧ (S0.part 0).fatal = none ∧ S0.acts.sorted = true) ∧
    (let s := S0.modPart 0 fun k => { (k.setWord 0x610 2) with fatal := some (1, 0) }
     (s.part 0).state = .ready ∧ (s.part 0).fatal ≠ none ∧ bits ((s.part 0).word 0x610) 0 4 ∉ [3, 4, 5, 6]) := by
  refine ⟨rfl, ?_, ?_, ?_, ?_, ?_, ⟨_, rfl, ?_⟩, ?_, ?_, ?_⟩ <;> decide +kernel
/-- An interface in each state, and none; each place of the exchange. -/
theorem witness_SecurityExchanges : State.reset.tdispOn 0 = false ∧
    (∀ t ∈ [Tdisp.unlocked, .configLocked, .run, .error], let s := S0.modPart 0 fun k => { k with tdisp := t }
      s.tdispOn 0 = true ∧ (s.part 0).tdisp = t ∧ (s.part 0).state = .ready ∧ s.acts.sorted = true ∧ (s.part 0).actors.sorted = true) ∧
    State.reset.hasFn 0 = true ∧
    (∀ b ∈ [true, false], let s := { State.reset with spdm := [(0, ⟨b, b, b, b, false⟩)] }
      (s.spdm.get 0 {}).version = b ∧ (s.spdm.get 0 {}).caps = b ∧ (s.spdm.get 0 {}).algs = b ∧ (s.spdm.get 0 {}).session = b) := by decide +kernel
/-- An update pending and none; caps below, at and above the bounds; 94, 95, 109 and 110 °C; one and two misses. -/
theorem witness_FirmwareResetAndChecks (f : Firmware) : State.reset.updates = [] ∧ { State.reset with updates := [f] }.updates = [] ++ [f] ∧
    State.reset.code < 3 ∧ (800 : BitVec 12).toNat = 800 ∧ (2150 : BitVec 12).toNat = 2150 ∧ State.reset.scMissed.length = 4 ∧ State.reset.mcMissed.length = 4 ∧
    ({ State.reset with scMissed := [2, 2, 0, 0] } : State).scMissed.getD 0 0 = 2 ∧ ({ State.reset with mcMissed := [2, 2, 0, 0] } : State).mcMissed.getD 1 0 = 2 ∧
    State.reset.scFailed.getLsbD 0 = false := ⟨rfl, rfl, by decide, by decide, by decide, rfl, rfl, rfl, rfl, rfl⟩

/-! ## Mesh, fabric, errors -/

/-- A pair with a packet in its replay store, sent in cycle 0, resent n times. -/
def meshState (n clock : Nat) : State :=
  { State.reset with clock := clock, mesh := [{ src := 1, dst := 2, cls := 0, expect := 5, replay := [⟨7, false, .kill 0 peer .byRuntime, 0, n⟩] }]
                     forwards := [{ target := 2, waiting := [⟨1, 0, 0, true, .kill 0 peer .byRuntime, 8⟩], heldUntil := some 9 }] }
theorem witness_MeshDelivery :
    (∀ n ∈ [0, 15, 16], ∀ clock ∈ [0, 4095, 4096], ∃ q r, ((meshState n clock).meshPair 1 2 0).replay = q :: r ∧ ((meshState n clock).meshPair 1 2 0).src = 1 ∧
      ((meshState n clock).meshPair 1 2 0).dst = 2 ∧ ((meshState n clock).meshPair 1 2 0).cls = 0 ∧ q.resends = n ∧ q.sentAt = 0) ∧
    (State.reset.meshPair 1 2 0).replay = [] ∧ (5 : BitVec 12) = ((meshState 0 0).meshPair 1 2 0).expect ∧
    2048 ≤ ((4 : BitVec 12) - ((meshState 0 0).meshPair 1 2 0).expect).toNat ∧ ((6 : BitVec 12) - ((meshState 0 0).meshPair 1 2 0).expect).toNat < 2048 ∧
    (∀ q ∈ ((meshState 0 0).meshPair 1 2 0).replay, q.seq ≠ 6) ∧ (MeshMsg.kill 0 peer .byRuntime).whole = .kill 0 peer .byRuntime ∧
    (∀ clock ∈ [7, 8], ∃ r, ((meshState 0 clock).forward 2).waiting = [] ++ r :: [] ∧ r.requester = 1 ∧ (r.retryAt ≤ (meshState 0 clock).clock ↔ clock = 8)) ∧
    (State.reset.forward 2).heldUntil = none ∧ (∀ clock ∈ [8, 9], ((meshState 0 clock).forward 2).heldUntil = some 9 ∧ ((meshState 0 clock).forward 2).target = 2) ∧
    ((3, 1, 0) ∈ ({ State.reset with stomping := [(3, 1, 0)] } : State).stomping ∧ (3, 1, 0) ∉ State.reset.stomping) := by
  refine ⟨?_, by decide +kernel, by decide +kernel, by decide +kernel, by decide +kernel, by decide +kernel, rfl, ?_, by decide +kernel⟩
  case refine_2 =>
    intro clock hc
    fin_cases hc <;> exact ⟨_, rfl, rfl, by decide +kernel⟩
  intro n hn clock hc
  fin_cases hn <;> fin_cases hc <;> exact ⟨_, _, rfl, rfl, rfl, rfl, rfl, rfl⟩
/-- A fabric that is enabled, with device 1 met in slot 0 of port 0. -/
def fabricState : State :=
  { S0 with fn0 := [(0x10000, 0x200140001F4), (0x10100, 0x88), (0x12000, 0x80000001)] }.modPart 0 fun k => k.setWord 0x100 2
def letterItem (seq : BitVec 32) (relaxed : Bool) : FabItem :=
  { src := 1, dst := 0, seq := seq, relaxed := relaxed, part := 0, poster := 1, postmark := 0, work := .letter (letterTo 0) false, sent := 4096 }
/-- The answer of an item that is performed whole. -/
def performed (w : Taken) : Bool :=
  match w with
  | .done _ => true
  | _ => false
/-- A slot without a peer and one with it; a port in use and one not; a device lost and not. An item heard, performed; pieces that complete one and that
do not; sequences behind and next; a partition that takes the device's items, and another's. -/
theorem witness_FabricLinks : (State.reset.slotPeer 0 0 = none ∧ fabricState.fabricOn = true ∧ fabricState.slotPeer 0 0 = some 1 ∧
      fabricState.lostmask.getLsbD 1 = false ∧ (fabricState.openSlot 0 0 1).lostmask.getLsbD 1 = false ∧ fabricState.device = 0 ∧
      fabricState.portRate 0 ≠ 0 ∧ fabricState.portRate 1 = 0) ∧
    (let s := { fabricState with lostmask := 2 }
     s.lostmask.getLsbD 1 = true ∧ (s.openSlot 0 0 1).lostmask.getLsbD 1 = true) ∧
    (let po := (fabricState.hear 0 1).peers.get 1 {}
     (0 : BitVec 32) ∉ po.gotRelaxed ∧ behind 0 po.expectOrdered = false ∧ po.expectOrdered = 0 ∧ po.early = [] ∧ po.partials = [] ∧
     behind 0xFFFFFFFF po.expectOrdered = true) ∧
    (let i := letterItem 0 true
     let h := fabricState.hear 0 1
     performed (({ h with peers := h.peers.set 1 { h.peers.get 1 {} with
       gotRelaxed := gotSeq (h.peers.get 1 {}).gotRelaxed 0, waiting := (h.peers.get 1 {}).waiting ++ [i] } } : State).takeLines i 64) = true) ∧
    (let i := letterItem 0 false
     let h := fabricState.hear 0 1
     let r := (h.peers.get 1 {}).addPiece i
     r.2 = some i ∧ (({} : Peer).addPiece { i with sent := 8 }).2 = none ∧
     performed (({ h with peers := h.peers.set 1 { r.1 with early := [i] } } : State).takeLines i 64) = true) ∧
    (let a : FabItem := { letterItem 4 false with work := .write 0x100 [1, 2, 3, 4], sent := 2 }
     let b : FabItem := { letterItem 4 false with work := .write 0x100 [5, 6, 7, 8], first := 2 }
     (({} : Peer).addPiece a).2 = none ∧ b.seq = a.seq ∧ a.first = 0 ∧ b.first = a.sent ∧ 4 ≤ b.sent) ∧
    (fabricState.accepts' 0 1 = true ∧ fabricState.accepts' 0 2 = false ∧ fabricState.fab = []) := by decide +kernel
/-- A relaxed item received before; a read this device asked for; an item whose refusal comes; a rotation that ends with a slot of it open, and with none;
a device that misses its third, and one that has two to go. -/
theorem witness_FabricAnswersAndRotations :
    (let s := { fabricState with peers := [(1, { gotRelaxed := [0] })] }
     (0 : BitVec 32) ∈ ((s.hear 0 1).peers.get 1 {}).gotRelaxed) ∧
    (let f : FabCmd := { cmd := { serial := 9, act := 0, member := 0, ctx := 0, cluster := 0, tag := 3, fn := 0x7400, dst := 0, src := 0, len := 8 }
                         die := 0, op := .rd, device := 1, rlx := true }
     let s := { fabricState with fab := [f] }
     s.fab = f :: [] ∧ f.cmd.serial = 9 ∧ f.device = 1) ∧
    (let q : Queued := { item := letterItem 3 false, size := 64, fn := 0 }
     let s := { fabricState with peers := [(1, { sent := [q], missed := 2 })] }
     (s.peers.get 1 {}).sent ++ (s.peers.get 1 {}).ordered = [] ++ q :: [] ∧ q.item.seq = 3 ∧ q.item.relaxed = false ∧
     q.item.work = .letter (letterTo 0) false ∧ s.meets 1 = true ∧ (s.peers.get 1 {}).heard = false ∧ (s.peers.get 1 {}).missed = 2) ∧
    (let s := fabricState.openSlot 0 0 1
     s.ports ≠ [] ∧ (∀ k ∈ s.ports, s.slotNumber ≤ k.2.number) ∧ (s.ports.find? 0).isSome = true ∧ ∀ k ∈ s.peers, k.2.missed < 2) := by decide +kernel
/-- A child of device 1: its loss owes the supervisor the letter of its end, with the restart engine's event (R397, R398). -/
theorem witness_lost_child : let s := actorWith fun w => { w with children := [⟨0x1000001000001, 0, .always, false, false, false, 0⟩] }
    ∃ w d, s.actor? 0 0 = some w ∧ w.code.toNat / 2 ^ 24 % 2 ^ 20 = 0 ∧ d ∈ w.children ∧ pcDevice d.code = 1 ∧
      (s.loseFor 0 0 1).owed.map (fun n => (n.dest, n.sender, n.after)) = [(1, d.code, some (.restartEvent 0 0 d.code 5 false))] :=
  ⟨_, _, rfl, by decide +kernel, List.mem_singleton.2 rfl, by decide +kernel, by decide +kernel⟩
/-- A local actor that watches one of device 1: the loss owes it its letter from the keystone of its home die (R398). -/
theorem witness_lost_watcher : let s := actorWith fun w => { w with watches := [0x1000001000001] }
    ∃ w, s.actor? 0 0 = some w ∧ w.code.toNat / 2 ^ 24 % 2 ^ 20 = 0 ∧ (0x1000001000001 : Word) ∈ w.watches ∧ pcDevice 0x1000001000001 = 1 ∧
      (s.loseFor 0 0 1).owed.map (fun n => (n.turn, n.dest, n.sender)) = [(0, 1, 0x1000001000001)] :=
  ⟨_, rfl, by decide +kernel, by decide +kernel, by decide +kernel, by decide +kernel⟩
/-- The record ring off, with room, and full; an error in the state of S0's activation. -/
def ringState (prod : Word) : State :=
  S0.modPart 0 fun k => (((k.setWord 0x428 1).setWord 0x408 64).setWord 0x400 0x1000010000).setWord 0x410 prod
theorem witness_ErrorsAndRecords :
    (∃ a w h, S0.acts.find? 0 = some a ∧ (S0.part a.p).fatal = none ∧ S0.committed a = false ∧ a.phase = .running ∧
      S0.actor? a.p a.slot = some w ∧ w.box = [] ++ h :: [] ∧ h.place = a.place ∧ h.eccAborts = 0 ∧ S0.acts.sorted = true) ∧
    (∃ w h, (actorWith fun w => { w with box := w.box.map fun h => { h with eccAborts := 1 } }).actor? 0 0 = some w ∧ w.box = [] ++ h :: [] ∧ h.eccAborts ≠ 0) ∧
    (S0.actOfCtx 0 = some 0 ∧ (holding S0).actOfTile 0 0 = some 0 ∧ S0.actOfScratch 0 4095 = some 0 ∧ State.reset.actOfScratch 0 4095 = none) ∧
    ((S0.part 0).ringOn = false ∧ ((ringState 0).part 0).ringOn = true ∧ ((ringState 63).part 0).ringOn = true ∧
      ((ringState 64).part 0).ringOn = true ∧ ((ringState 0).part 0).ringFull = false ∧ ((ringState 63).part 0).ringFull = false ∧
      ((ringState 64).part 0).ringFull = true) ∧
    ((mkRecord 0 16 6 0 0 0 0 0 0 0 0 0 0).toNat / 2 ^ 64 % 256 = 16 ∧ (mkRecord 0 1 6 0 0 0 0 0 0 0 0 0 0).toNat / 2 ^ 64 % 256 ≠ 16) ∧
    (let s := S0.modPart 0 fun k => { k with stalled := [{ bits := 0, since := 0 }] }
     (∃ r ∈ (s.part 0).stalled, 15000000 ≤ 15000000 - r.since) ∧ S0.dram.wf = true) := by
  refine ⟨⟨_, _, _, rfl, rfl, by decide +kernel, rfl, rfl, rfl, rfl, rfl, by decide +kernel⟩, ⟨_, _, rfl, rfl, by decide +kernel⟩, by decide +kernel,
    by decide +kernel, by decide +kernel, ⟨_, List.mem_singleton.2 rfl, by norm_num⟩, by decide +kernel⟩
/-- An activation of a fatal partition; one past its group's commit point; a line of the partition's
page table and one of its principal table. -/
theorem witness_errors_of_stopped_and_system_lines :
    (let s := S0.modPart 0 fun k => { k with fatal := some (1, 0) }
     ∃ a, s.acts.find? 0 = some a ∧ (s.part a.p).fatal ≠ none) ∧
    (∃ a, closingState.acts.find? 0 = some a ∧ (closingState.part a.p).fatal = none ∧ closingState.committed a = true) ∧
    (∃ q, S0.parts = [] ++ q :: [] ∧ q.2.state = .ready ∧ S0.systemCode q.1 0x20000 = some 1) ∧
    (let s := S0.modPart 0 fun k => (k.setWord 0xD0 0x1000050000).setWord 0xD8 4
     s.systemCode 0 0x1000050000 = some 2 ∧ s.systemCode 0 0x10000503FF = some 2) := by
  refine ⟨⟨_, rfl, by decide +kernel⟩, ⟨_, rfl, rfl, by decide +kernel⟩, ⟨_, rfl, by decide +kernel⟩, by decide +kernel⟩
def dumpOf (size sect : Nat) (ready : Bool) : Dump :=
  { part := none, base := 0x1000, size := size, ranges := [], code := 1, time := 0, ready := ready, body := [⟨1, 0, [[1, 2]]⟩], sect := sect }
theorem witness_FatalConditionsAndDump : (State.reset.part 0).state ≠ .ready ∧ ((S0.part 0).state = .ready ∧ (S0.part 0).fatal = none ∧ S0.fatal = none) ∧
    { S0 with fatal := some (1, 0) }.fatal ≠ none ∧ State.reset.dumps = [] ∧ (∃ r ∈ (requested none).requests, r.p = 0) ∧
    (let d := { dumpOf 65536 1 true with secondary := [5] }
     d.ready = true ∧ d.sect = d.body.length ∧ d.secondary ≠ [] ∧ ∃ x b, d.body = x :: b ∧
       (({ d with body := { d.summary d.poisoned with records := (d.summary d.poisoned).records.take 64 } :: b } : Dump).laid.head?).isSome = true) ∧
    (∀ size ∈ [65535, 65536], { S0 with dumps := [dumpOf size 0 false] }.dumps = dumpOf size 0 false :: [] ∧ (dumpOf size 0 false).part = none ∧
      (dumpOf size 0 false).ready = false) ∧
    (∃ l, (dumpOf 65536 0 true).laid[0]? = some l ∧ l.data ≠ [] ∧ (dumpOf 65536 0 true).sect < (dumpOf 65536 0 true).body.length) ∧
    (dumpOf 65536 1 true).sect = (dumpOf 65536 1 true).body.length ∧ (dumpOf 65536 1 true).secondary = [] ∧
    (dumpOf 65536 2 true).sect = (dumpOf 65536 2 true).body.length + 1 ∧ (dumpOf 65536 3 true).body.length + 1 < (dumpOf 65536 3 true).sect :=
  ⟨by decide +kernel, by decide +kernel, by decide +kernel, rfl, ⟨_, List.mem_singleton.2 rfl, rfl⟩, ⟨rfl, rfl, by decide +kernel, _, _, rfl, by decide +kernel⟩,
    by decide +kernel, ⟨_, rfl, by decide +kernel, by decide +kernel⟩, rfl, rfl, rfl, by decide +kernel⟩

/-- A stopped device; a letter of a fatal partition that waits (R405, R406). -/
theorem witness_stopped_and_fatal : (let s := { S0 with stopped := true }
    s.stopped = true ∧ s.fn0Session = true) ∧ S0.stopped = false ∧
    (let s := { S0 with moving := [⟨0, 0, letterTo 0, false, false⟩] }.modPart 0 fun k => { k with fatal := some (1, 0) }
     s.moving ≠ [] ∧ ∀ m ∈ s.moving, (s.part (pcPart m.letter.dest)).fatal ≠ none) := by decide +kernel

/-! ## The machine as a whole -/

theorem witness_MemoryStaysCanonical : MemInv State.reset ∧ step State.reset = .next State.reset.tick := by
  refine ⟨⟨rfl, rfl, fun x h => (List.not_mem_nil h).elim, fun x h => (List.not_mem_nil h).elim⟩, ?_⟩
  simp [step, State.oneStep, State.reset]
theorem witness_DecodeEncodeAgree : (Instr.add ⟨mX, 5, 6, 63⟩).wf = true := rfl
/-- An `add` placed where the next fetch looks: the core sees it, picks its context, and the cycle goes on. -/
def addWord : Nat := 0x010006050700000000000000
theorem witness_StepRunsDecoded : let s := State.reset.withFetchWord 96 addWord
    s.stopped = false ∧ s.agenda = [] ∧ s.todo = [0] ∧ ((s.settleStop 0).settleStep 0).withheld.getLsbD 0 = false ∧ s.heldAt 0 = [0] ∧ s.allowed 0 0 = true ∧ s.bootReason = 0 ∧
    s.ctxs.find? 0 = some (kOf s) ∧ s.runs (kOf s) = true ∧ (∃ a, s.acts.find? (kOf s).act = some a ∧ a.p = 0) ∧
    (∃ s1, s.fetch 0 0 (kOf s).pc = (.bytes (leBytes 12 addWord), s1)) ∧
    decodeBytes (leBytes 12 addWord) = .ok (.add ⟨m0, 6, 5, 7⟩) ∧ (s.core 0).pickCtx 0 [0] = some 0 ∧ (s.core 0).halted = false ∧ (s.core 0).breaks 0 0 = false := by
  refine ⟨rfl, rfl, rfl, by decide +kernel, by decide +kernel, by decide +kernel, rfl, by decide +kernel, by decide +kernel, ⟨_, rfl, rfl⟩, ?_, rfl, by decide +kernel, by decide +kernel,
    by decide +kernel⟩
  have h : ((State.reset.withFetchWord 96 addWord).fetch 0 0 (kOf (State.reset.withFetchWord 96 addWord)).pc).1 = .bytes (leBytes 12 addWord) := by
    decide +kernel
  exact ⟨_, Prod.ext h rfl⟩
/-- An event that takes no value of the postmark clock, one whose turn is to come, and one whose turn is past. -/
theorem witness_EventsTakeTheirTurns : State.reset.turnOf (.parkTimeout 0) = none ∧ State.reset.turnOf (.rotationEnd 0) = some 0 ∧
    State.reset.turn ≤ 0 ∧ 0 < ({ State.reset with turn := 1 } : State).turn ∧ ({ State.reset with turn := 1 } : State).turnOf (.rotationEnd 0) = some 0 :=
  ⟨rfl, rfl, by decide +kernel, by decide +kernel, rfl⟩
/-- A starved context, an eligible current one, a marked current one, and none. -/
def waiting (cur w0 w3 : Nat) (mark : Bool) : Core := { cur := cur, waits := [w0, 0, 0, w3, 0, 0, 0, 0], marks := if mark then 1 else 0 }
theorem witness_SelectorChoosesContext : (∀ c ∈ [0, 3], c / 8 = 0) ∧ (waiting 0 0 256 false).pickCtx 0 [0, 3] = some 3 ∧
    (waiting 3 256 256 false).pickCtx 0 [0, 3] = some 0 ∧ (waiting 0 0 255 false).pickCtx 0 [0, 3] = some 0 ∧
    (waiting 0 0 255 true).pickCtx 0 [0, 3] = some 3 ∧ (waiting 0 0 0 true).pickCtx 0 [0] = some 0 ∧ (waiting 0 0 0 false).pickCtx 0 [] = none ∧
    (waiting 0 5 0 false).waits.length = 8 ∧ ({ waiting 0 5 0 false with chosen := some 3 } : Core).chosen ≠ some 0 := by decide +kernel

/-! ## Results worked out from the spec's tables -/

/-- What an instruction issued on context 0 with these registers will write at the end of its latency. -/
def ran (ws : List RegWrite) (i : Instr) : List RegWrite :=
  match exec i (withRegs ws) with
  | .next t => (kOf t).pend.flatMap (·.ws)
  | _ => []
/-- The value it will put into x5. -/
def x5 (ws : List RegWrite) (i : Instr) : Option Word := (ran ws i).findSome? fun
  | .x 5 v => some v
  | _ => none
/-- The flags it will raise: inexact 0, underflow 1, overflow 2, divzero 3, invalid 4, narp 5, sat 6 (R128). -/
def raised (ws : List RegWrite) (i : Instr) : BitVec 7 := (ran ws i).foldl (fun f w => match w with
  | .orFlags g => f ||| g
  | _ => f) 0

/-- The rows of the table of R198. -/
theorem test_converts_of_the_table :
    x5 [.x 4 0xC0E00000] (.cvt ⟨m0, 1, 0, 2, 5, 4⟩) = some 0xFFFFFFFFFFFFFFF9 ∧ raised [.x 4 0xC0E00000] (.cvt ⟨m0, 1, 0, 2, 5, 4⟩) = 0 ∧
    x5 [.x 4 0x4F000000] (.cvt ⟨m0, 0, 0, 2, 5, 4⟩) = some 0x7FFFFFFF ∧
    x5 [.x 4 0x80] (.cvt ⟨m0, 0, 1, 6, 5, 4⟩) = some 0 ∧ x5 [.x 4 0x5A] (.cvt ⟨m0, 0, 2, 6, 5, 4⟩) = some 0x40500000 ∧
    x5 [.x 4 0xA6] (.cvt ⟨m0, 0, 7, 6, 5, 4⟩) = some 0xA600 ∧ x5 [.x 4 0x7F800000] (.cvt ⟨m0, 0, 5, 2, 5, 4⟩) = some 0x20 ∧
    x5 [.x 4 0x45000000] (.cvt ⟨m0, 0, 5, 2, 5, 4⟩) = some 0x1F ∧ x5 [.x 4 0x3F808000] (.cvt ⟨m0, 0, 3, 2, 5, 4⟩) = some 0x3F80 ∧
    raised [.x 4 0x4F000000] (.cvt ⟨m0, 0, 0, 2, 5, 4⟩) = 0x10 ∧ raised [.x 4 0x80] (.cvt ⟨m0, 0, 1, 6, 5, 4⟩) = 0x10 ∧
    raised [.x 4 0x7F800000] (.cvt ⟨m0, 0, 5, 2, 5, 4⟩) = 0x20 ∧ raised [.x 4 0x45000000] (.cvt ⟨m0, 0, 5, 2, 5, 4⟩) = 0x41 := by decide +kernel
/-- Rounding to TF8 (the example of 06_formats.md). -/
theorem test_rounding_to_tf8 :
    x5 [.x 4 0x40533333] (.cvt ⟨m0, 0, 6, 2, 5, 4⟩) = some 0x5A ∧ x5 [.x 4 0xC0533333] (.cvt ⟨m0, 0, 6, 2, 5, 4⟩) = some 0xA6 ∧
    x5 [.x 4 0xC0533333] (.cvt ⟨m0, 2, 6, 2, 5, 4⟩) = some 0xA5 ∧ x5 [.x 4 0x3F840000] (.cvt ⟨m0, 0, 6, 2, 5, 4⟩) = some 0x40 ∧
    x5 [.x 4 0x42C80000] (.cvt ⟨m0, 0, 6, 2, 5, 4⟩) = some 0x79 ∧ x5 [.x 4 0x45200000] (.cvt ⟨m0, 0, 6, 2, 5, 4⟩) = some 0x7E ∧
    x5 [.x 4 0x453B8000] (.cvt ⟨m0, 0, 6, 2, 5, 4⟩) = some 0x7F ∧ x5 [.x 4 0x459C4000] (.cvt ⟨m0, 0, 6, 2, 5, 4⟩) = some 0x7F ∧
    x5 [.x 4 0x3727C5AC] (.cvt ⟨m0, 1, 6, 2, 5, 4⟩) = some 0x01 ∧ x5 [.x 4 0x80000000] (.cvt ⟨m0, 0, 6, 2, 5, 4⟩) = some 0x00 ∧
    x5 [.x 4 0x7F800000] (.cvt ⟨m0, 0, 6, 2, 5, 4⟩) = some 0x80 := by decide +kernel
/-- Swapped operands, a dropped sign and a wrong width would show (R173, R174, R178, R179). -/
theorem test_integer_results :
    x5 [.x 6 3, .x 7 5] (.sub ⟨m0, 5, 6, 7⟩) = some 0xFFFFFFFFFFFFFFFE ∧ x5 [.x 6 0xFFFFFFFFFFFFFFFF, .x 7 2] (.add ⟨m0, 5, 6, 7⟩) = some 1 ∧
    x5 [.x 6 0x8000000000000000, .x 7 63] (.sra ⟨m0, 5, 6, 7⟩) = some 0xFFFFFFFFFFFFFFFF ∧ x5 [.x 6 0x8000000000000001, .x 7 65] (.rol ⟨m0, 5, 6, 7⟩) = some 3 ∧
    x5 [.x 6 0xF0, .x 7 0x30] (.andn ⟨m0, 5, 6, 7⟩) = some 0xC0 ∧ x5 [.x 6 0xFFFFFFFFFFFFFFFF, .x 7 1] (.min ⟨m0, 5, 6, 7⟩) = some 0xFFFFFFFFFFFFFFFF ∧
    x5 [.x 6 0xFFFFFFFFFFFFFFFF, .x 7 1] (.minu ⟨m0, 5, 6, 7⟩) = some 1 ∧ x5 [.x 6 0xFFFFFFFFFFFFFFFF, .x 7 0xFFFFFFFFFFFFFFFF] (.mulh ⟨m0, 5, 6, 7⟩) = some 0 ∧
    x5 [.x 6 0xFFFFFFFFFFFFFFFF, .x 7 0xFFFFFFFFFFFFFFFF] (.mulhu ⟨m0, 5, 6, 7⟩) = some 0xFFFFFFFFFFFFFFFE ∧ x5 [.x 6 1] (.clz ⟨m0, 5, 6⟩) = some 63 ∧
    x5 [.x 6 0x0102030405060708] (.bswap ⟨m0, 5, 6⟩) = some 0x0807060504030201 ∧ x5 [] (.li ⟨m0, 5, 0x80000001⟩) = some 0xFFFFFFFF80000001 ∧
    x5 [.x 5 0xFFFFFFFF00000007] (.lih ⟨m0, 5, 0x12⟩) = some 0x1200000007 := by decide +kernel
/-- Unsigned and signed order, and the source of an immediate's sign (R181, R184). -/
theorem test_compares :
    ran [.x 6 0xFFFFFFFFFFFFFFFF, .x 7 1] (.cmpLtu ⟨m0, 4, 6, 7⟩) = [.p 4 false] ∧ ran [.x 6 0xFFFFFFFFFFFFFFFF, .x 7 1] (.cmpLt ⟨m0, 4, 6, 7⟩) = [.p 4 true] := by
  decide +kernel
/-- Binary32 sums and products: exact, a tie that goes to even, overflow, and Inf − Inf (R125, R126, R191). -/
theorem test_float_results :
    x5 [.x 6 0x3F800000, .x 7 0x40000000] (.fsubF32 ⟨m0, 5, 6, 7⟩) = some 0xBF800000 ∧ x5 [.x 6 0x3F800000, .x 7 0x33800000] (.faddF32 ⟨m0, 5, 6, 7⟩) = some 0x3F800000 ∧
    raised [.x 6 0x3F800000, .x 7 0x33800000] (.faddF32 ⟨m0, 5, 6, 7⟩) = 1 ∧ x5 [.x 6 0x7F7FFFFF, .x 7 0x40000000] (.fmulF32 ⟨m0, 5, 6, 7⟩) = some 0x7F800000 ∧
    x5 [.x 6 0x7F800000, .x 7 0xFF800000] (.faddF32 ⟨m0, 5, 6, 7⟩) = some 0x7FC00000 := by decide +kernel
/-- An all-lanes sum, and a lane count past the sign (R217, R206). -/
theorem test_vector_results :
    x5 [.v 1 (Vector.replicate 16 0x10000001)] (.vredaddI32 ⟨m0, 5, 1, .all⟩) = some 0x10 ∧
    ran [.v 1 (Vector.replicate 16 3), .v 30 (Vector.replicate 16 5)] (.vsubI32 ⟨m0, 3, 1, .v 30, .all⟩) = [.v 3 (Vector.replicate 16 0xFFFFFFFE)] := by
  decide +kernel

/-! ## More witnesses -/

/-- S0 with what a letter, its links and a child need: a second actor at slot 5, the image in slot 0, and a fabric with device 1. -/
def twoActors : State := fabricState.modPart 0 fun k => { k with actors := k.actors.set 5 (newActor 0x5000001 cradleImage 0 0 1 [] none) }
/-- The activation of context 0 there. -/
def actOf (s : State) : Option Act := s.acts.find? 0
/-- Letters to this device, to device 1 and to a lost one; spawns of an image that is there and of one that is not, here and on device 1; a link and a
monitor of an actor that lives and of one that does not; a kill of another and of itself; work for device 1 (R53, R54, R113). -/
theorem witness_OutboxDeparts : (∃ a, twoActors.acts.find? 0 = some a ∧ a.ending = none) ∧
    (∃ a, ((S0.modAct 0 fun a => { a with outbox := [.exit 0] }).acts.find? 0) = some a ∧ a.ending.isSome = true) ∧
    twoActors.moving = [] ∧ (letterTo 0).kind ≠ 1 ∧ (letterTo 0).dest.toNat / 2 ^ 48 = twoActors.device ∧
    (0x1000001000001 : Word).toNat / 2 ^ 48 ≠ twoActors.device ∧ twoActors.lostmask.getLsbD 1 = false ∧
    ({ twoActors with lostmask := 2 } : State).lostmask.getLsbD 1 = true ∧
    (∀ img ∈ [0, 1], (match twoActors.birth 0 img 0x6000001 none none with
      | .ok _ => img == 0
      | .error r => img == 1 && r == 10) = true) ∧
    (∃ w v, twoActors.living 0 1 = some w ∧ twoActors.living 0 0x5000001 = some v ∧ w.links.length < 32 ∧ v.links.length < 32 ∧ v.monitors.length < 32 ∧
      w.children.length < 256) ∧ twoActors.living 0 0x6000001 = none ∧ (0x5000001 : Word).toNat / 2 ^ 24 % 2 ^ 20 ≠ (1 : Word).toNat / 2 ^ 24 % 2 ^ 20 ∧
    (twoActors.part 0).holdsCluster 0 = true ∧ (FabWork.write 0x100 [1, 2]).items ≠ [] :=
  ⟨⟨_, rfl, rfl⟩, ⟨_, rfl, rfl⟩, by decide +kernel, by decide +kernel, rfl, by decide +kernel, by decide +kernel, by decide +kernel,
    by decide +kernel, ⟨_, _, rfl, rfl, by decide +kernel⟩, by decide +kernel⟩

/-- A command of the matrix unit on 64 rows of 256 bytes. -/
def rows (op : MxOp) : MxCmd := { zeroCmd with op := op, aw := 0x10000000000, bw := 0x10000000000, k := 32 }
/-- Commands whose activation has no store on its way; a stride that holds a row of 32-bit elements. -/
theorem witness_matrix_operands : SeesAll S0 (rows .mm) ∧ (10 : BitVec 4).toNat ≤ 10 ∧ S0.scratch.wf = true ∧
    8 * (mxType 10).width ≤ opStride (rows (.st 10)).aw ∧ (groupsFrom 0 0 [2, 0, 3])[1]? = some (2, 2, 3) :=
  ⟨⟨rfl, fun _ h => (List.not_mem_nil h).elim⟩, by decide, by decide +kernel, by decide +kernel, rfl⟩
/-- A scaled product with its scales in order and with the reserved scale 0x80; a grouped one with no group, with 65 rows and with two groups. -/
def scaled (bs : List Byte) (control : Word) : State :=
  let s := ((holding (scratchAt 0)).modAct 0 fun a => { a with areaSize := 0x40000 }).modCluster 0 fun k => { k.setFctx 0 { k.fctx 0 with rcd := ⟨control, 0, 0⟩ } with tags := [⟨0, 4096, 0⟩] }
  { s with scratch := s.scratch.write 0x20000 bs }
theorem witness_matrix_begins : (∀ bs ∈ [[], [0x80]], let s := scaled bs 0x200
      let c := { rows .mms with aw := 0x0800010000000000 }
      SeesAll s c ∧ (∀ q ∈ c.ranges ((s.cluster 0).fctx 0).rcd, s.mxBound c.agent q = none) ∧
      ((0x80 : Byte) ∈ s.scratch.read (bits c.aw 48 16 * 64) 64 ↔ bs ≠ [])) ∧
    ∀ bs ∈ [[], [1, 65], [2, 3, 61]], let s := scaled bs 0
      let c := { rows .gmm with bw := 0x0800010000000000, k := 1 }
      SeesAll s c ∧ (∀ q ∈ c.ranges ((s.cluster 0).fctx 0).rcd, s.mxBound c.agent q = none) ∧ s.scratch.read 0x20000 3 = (bs ++ [0, 0, 0]).take 3 ∧
      ∀ q ∈ groupsFrom 0 0 [3, 61], ∀ x ∈ rowRanges c.bw c.k (rowBytes 0 64), s.mxBound c.agent (x.1 + q.1 * c.k * opStride c.bw, x.2) = none := by
  refine ⟨fun bs hb => ?_, fun bs hb => ?_⟩ <;> fin_cases hb <;> exact ⟨⟨rfl, fun _ h => (List.not_mem_nil h).elim⟩, by decide +kernel⟩

/-- Words of every kind the statements about float name: 1, 1 and a half, −1, both zeros, an infinity, a quiet and a signalling NaN. -/
theorem witness_float_words : FinWord 0x3F800000 ∧ FinWord 0x3FC00000 ∧ q32 0x3F800000 = 1 ∧ q32 0xBF800000 = -1 ∧ q32 0x3FC00000 = 3 / 2 ∧
    ZeroWord 0 ∧ ZeroWord 0x80000000 ∧ InfWord 0x7F800000 ∧ InfWord 0xFF800000 ∧ NanWord 0x7FC00000 ∧ ¬ SnanWord 0x7FC00000 ∧ SnanWord 0x7F800001 ∧
    ¬ NanWord 0x7F800000 ∧ ¬ ZeroWord 0x3F800000 := by decide +kernel
/-- A number, a zero and what is none in each type that converts (R123, R124, R130). -/
theorem witness_convert_words : numberQ (.sint 8) 0xF9 = some (-7) ∧ numberQ (.uint 32) 3 = some 3 ∧ numberQ (.ieee fp16) 0x3C00 = some 1 ∧
    numberQ (.ieee bf16) 0 = some 0 ∧ numberQ (.taper 8) 0x5A = some (13 / 4) ∧ numberQ (.taper 6) 0x20 = none ∧ InfBits fp16 0x7C00 ∧
    ¬ FiniteBits fp16 0x7E00 ∧ ¬ InfBits fp16 0x7E00 ∧ (0x80 % 2 ^ 8 : Nat) = 2 ^ (8 - 1) ∧ (0x7F % 128 = 127 ∧ 0x38 % 128 ≠ 127) := by decide +kernel
/-- A dot product of bounded codes with an addend, finite and infinite. -/
theorem witness_legacy_dot : (∀ p ∈ [(0x38, 0x40)], p.1 < 256 ∧ p.2 < 256 ∧ p.1 % 128 ≠ 127 ∧ p.2 % 128 ≠ 127) ∧ ¬ NanWord 0 ∧ FinWord 0 ∧
    InfWord 0x7F800000 ∧ q32 (lf8ToF32 0x38) * q32 (lf8ToF32 0x40) ≠ 0 := by decide +kernel

theorem witness_TablesStayInOrder : TablesInOrder State.reset ∧ TablesInOrder S0 ∧ step State.reset = .next State.reset.tick := by
  refine ⟨?_, ?_, ?_⟩
  · exact ⟨rfl, rfl, rfl, fun x h => (List.not_mem_nil h).elim, fun x h => (List.not_mem_nil h).elim⟩
  · unfold TablesInOrder
    decide +kernel
  · simp [step, State.oneStep, State.reset]

end Sys2Proof.Tests
end

section
/-! PROOFS. Lemmas about an instruction that is performed, about results, transfers and landing, and the statements on division and `loop`
(R176, R177, R189). -/

namespace Sys2Proof

open Machine

/-! ## An instruction that is performed -/

/-- `issue_ready` in the words of the claims: the body of a performed instruction runs on the state `issued` names. -/
theorem Issues.issue_eq {i : Instr} {m : Mods} {n : Need} {ctl : Ctl} {s : State} {c : Nat} {k : Ctx} (h : Issues s i c k)
    (ha : i.asks = some (m, n, ctl)) (body : Nat → Ctx → State → State) : issue m n ctl s body = .next (body c k (issued s i c)) := by
  simp only [Issues, issued, ha] at h ⊢
  obtain ⟨hc, hk, he, hs, hg, hm⟩ := h
  exact issue_ready hc hk he hs hg hm

/-- Counting the issue changes the gap and the samples of the context, and no other part of it (R77, R324). -/
theorem Issues.issued_ctx {i : Instr} {s : State} {c : Nat} {k : Ctx} (h : Issues s i c k) :
    ∃ gap smp, (issued s i c).ctxs.find? c = some { k with gap := gap, samples := smp } := by
  obtain ⟨-, hk, -⟩ := h
  unfold issued
  split
  · exact ⟨_, charge_ctx hk _ _⟩
  · exact ⟨k.gap, k.samples, hk⟩

@[simp] theorem issued_clock (s : State) (i : Instr) (c : Nat) : (issued s i c).clock = s.clock := by
  unfold issued
  split <;> simp

/-! ## What results and transfers leave of the context -/

/-- A result on its way to a scalar register: the register is empty, and the result waits among the variable-latency ones (R153). -/
theorem fill_x_ctx {s : State} {c : Nat} {k : Ctx} (hk : s.ctxs.find? c = some k) (kind : VKind) (a : BitVec 6) (v : Word) :
    ∃ vres, (s.fill c kind [.x a v]).ctxs.find? c = some { k.emptyX a with vres := vres } := by
  simp [State.fill, State.later, State.delay, State.fresh, hk]

theorem advance_ctx {s : State} {c : Nat} {k : Ctx} (hk : s.ctxs.find? c = some k) : (s.advance c).ctxs.find? c = some k.advance := by
  simp [State.advance, hk]

theorem result_ctx {s : State} {c : Nat} {k : Ctx} (hk : s.ctxs.find? c = some k) (L : Nat) (ws : List RegWrite) :
    (s.result c L ws).ctxs.find? c = some { k with pend := k.pend ++ [⟨s.clock + L - 1, ws⟩] } := by
  simp [State.result, hk]

/-- A trace record goes to memory and to the registers of its partition (R320). -/
@[simp] theorem trace_ctxs (s : State) (p kind : Nat) (pc postmark : Word) (slot ctx arg : Nat) (crit : Bool) :
    (s.trace p kind pc postmark slot ctx arg crit).ctxs = s.ctxs := by
  simp only [State.trace, State.traceRaw]
  split
  · rfl
  · split <;> exact State.modPart_ctxs ..

theorem branch_ctx {s : State} {c : Nat} {k : Ctx} (hk : s.ctxs.find? c = some k) (target : Word) :
    (s.branch c target).ctxs.find? c = some (k.transfer target) := by
  have h : (s.modCtx c fun k => k.transfer target).ctxs.find? c = some (k.transfer target) := by simp [hk]
  simp only [State.branch, hk]
  split
  · split
    · rw [trace_ctxs, h]
    · exact h
  · exact h

/-- Taken or not, a transfer continues at its slot, and after it at the target or at PC + 24 (R154). -/
theorem branchIf_ctx {s : State} {c : Nat} {k : Ctx} (hk : s.ctxs.find? c = some k) (k₀ : Ctx) (taken : Bool) (target : Word) :
    (s.branchIf c k₀ taken target).ctxs.find? c = some (k.transfer (if taken then target else k₀.pc + 24)) := by
  cases taken
  · simp [State.branchIf, hk]
  · simpa [State.branchIf] using branch_ctx hk target

/-! ## Landing -/

theorem puts_append (k : Ctx) (ws vs : List RegWrite) : k.puts (ws ++ vs) = (k.puts ws).puts vs := List.foldl_append

theorem xr_put_x_self (k : Ctx) {r : BitVec 6} (hr : r ≠ 0) (v : Word) : (k.put (.x r v)).xr r = v := by
  simp only [Ctx.put, Ctx.xr, if_neg hr, Vector.getElem_set_self]

theorem xr_put_of_isOr (k : Ctx) {w : RegWrite} (hw : w.isOr = true) (r : BitVec 6) : (k.put w).xr r = k.xr r := by
  cases w with
  | orFlags f => rfl
  | _ => simp [RegWrite.isOr] at hw

theorem xr_puts_of_isOr (k : Ctx) {ws : List RegWrite} (hws : ∀ w ∈ ws, w.isOr = true) (r : BitVec 6) : (k.puts ws).xr r = k.xr r := by
  induction ws generalizing k with
  | nil => rfl
  | cons w ws ih =>
    obtain ⟨hw, hws⟩ := List.forall_mem_cons.1 hws
    exact (ih (k.put w) hws).trans (xr_put_of_isOr k hw r)

/-- The flag updates of a cycle, which land after its other writes (R128), leave the scalar registers alone. -/
theorem land_xr (k : Ctx) (t : Nat) (r : BitVec 6) :
    (k.land t).xr r = (k.puts (((k.pend.filter fun f => f.due ≤ t).flatMap fun f => f.ws).filter fun w => !w.isOr)).xr r :=
  xr_puts_of_isOr _ (fun _ hw => (List.mem_filter.1 hw).2) r

/-- Of the results that are due, the one issued last decides what its register holds (R152). -/
theorem land_xr_of_last {k : Ctx} {p : List Flight} {d t : Nat} {r : BitVec 6} {v : Word} (hp : k.pend = p ++ [⟨d, [.x r v]⟩]) (hd : d ≤ t)
    (hr : r ≠ 0) : (k.land t).xr r = v := by
  have hlast : ([⟨d, [.x r v]⟩] : List Flight).filter (fun f => f.due ≤ t) = [⟨d, [.x r v]⟩] := by simp [hd]
  rw [land_xr, hp, List.filter_append, hlast, List.flatMap_append, List.filter_append, puts_append]
  exact xr_put_x_self _ hr v

/-! ## Division (R176, R177) -/

/-- What the divide unit does, whichever of its four integer operations f is: the result is on its way, and of the state a trap or a flag would
touch nothing has changed. -/
theorem opDiv_performed {i : Instr} {o : XXX} {s : State} {c : Nat} {k : Ctx} {f : Word → Word → Word} {v : Word} (h : Issues s i c k)
    (ha : i.asks = some (o.m, o.needDiv, .none)) (he : exec i s = opDiv o f s) (hv : f (k.xr o.b) (k.xr o.c) = v) :
    exec i s = .next (((issued s i c).fill c .divide [.x o.a v]).advance c) ∧
    ∃ k', (((issued s i c).fill c .divide [.x o.a v]).advance c).ctxs.find? c = some k' ∧ k'.fflags = k.fflags ∧ k'.cause = k.cause ∧
      k'.epc = k.epc ∧ k'.enpc = k.enpc ∧ k'.badaddr = k.badaddr ∧ k'.pc = k.nextPc ∧ k'.pend = k.pend := by
  subst hv
  obtain ⟨gap, smp, hk⟩ := h.issued_ctx
  obtain ⟨vres, hf⟩ := fill_x_ctx hk .divide o.a (f (k.xr o.b) (k.xr o.c))
  refine ⟨he.trans (h.issue_eq ha _), _, advance_ctx hf, ?_⟩
  simp [Ctx.advance, Ctx.nextPc]

/-! The arithmetic of R176: quotients are truncated toward zero, of signed numbers or of unsigned ones. -/

theorem divS_eq (b c : Word) : divS b c = if c = 0 then BitVec.allOnes 64 else BitVec.ofInt 64 (b.toInt.tdiv c.toInt) := by
  have h : b.sdiv c = BitVec.ofInt 64 (b.toInt.tdiv c.toInt) := BitVec.eq_of_toInt_eq (by simp [BitVec.toInt_sdiv, BitVec.toInt_ofInt])
  rw [divS, h]

theorem divU_eq (b c : Word) : divU b c = if c = 0 then BitVec.allOnes 64 else BitVec.ofNat 64 (b.toNat / c.toNat) := by
  have h : b / c = BitVec.ofNat 64 (b.toNat / c.toNat) := by rw [← BitVec.toNat_udiv, BitVec.ofNat_toNat, BitVec.setWidth_eq]
  rw [divU, h]

theorem remS_eq (b c : Word) : remS b c = if c = 0 then b else BitVec.ofInt 64 (b.toInt.tmod c.toInt) := by
  have h : b.srem c = BitVec.ofInt 64 (b.toInt.tmod c.toInt) := by rw [← BitVec.toInt_srem, BitVec.ofInt_toInt]
  rw [remS, h]

theorem remU_eq (b c : Word) : remU b c = if c = 0 then b else BitVec.ofNat 64 (b.toNat % c.toNat) := by
  have h : b % c = BitVec.ofNat 64 (b.toNat % c.toNat) := by rw [← BitVec.toNat_umod, BitVec.ofNat_toNat, BitVec.setWidth_eq]
  rw [remU, h]

/-- −2^63 by −1: the one quotient that no signed doubleword holds. -/
theorem divS_min_neg_one : divS 0x8000000000000000 (BitVec.allOnes 64) = 0x8000000000000000 := by decide
theorem remS_min_neg_one : remS 0x8000000000000000 (BitVec.allOnes 64) = 0 := by decide

/-- Settles O2: `opDiv_performed` for each of the four, with its function in the arithmetic of R176. -/
theorem divisionResults : Obligations.DivisionResults := by
  unfold Obligations.DivisionResults
  refine ⟨fun q hq o s c k h => ?_, fun q hq o s c k h hb hc => ?_⟩
  · simp only [List.mem_cons, List.not_mem_nil, or_false] at hq
    obtain rfl | rfl | rfl | rfl := hq
    · exact opDiv_performed (f := divS) h rfl rfl (divS_eq _ _)
    · exact opDiv_performed (f := divU) h rfl rfl (divU_eq _ _)
    · exact opDiv_performed (f := remS) h rfl rfl (remS_eq _ _)
    · exact opDiv_performed (f := remU) h rfl rfl (remU_eq _ _)
  · simp only [List.mem_cons, List.not_mem_nil, or_false] at hq
    obtain rfl | rfl := hq
    · exact (opDiv_performed (f := divS) h rfl rfl (by rw [hb, hc, divS_min_neg_one])).1
    · exact (opDiv_performed (f := remS) h rfl rfl (by rw [hb, hc, remS_min_neg_one])).1

/-! ## `loop` (R189) -/

/-- The new counter is zero from 1 alone: from 0 it wraps round. -/
theorem sub_one_bne_zero (n : Word) : (n - 1 != 0) = decide (n ≠ 1) := by
  rw [bne, Bool.beq_eq_decide_eq, ← decide_not, decide_eq_decide, ne_eq, sub_eq_zero]

/-- `loop` puts the new counter in flight and is taken unless the counter was 1. -/
theorem loop_performed {o : XImm} {s : State} {c : Nat} {k : Ctx} (h : Issues s (.loop o) c k) :
    exec (.loop o) s = .next (((issued s (.loop o) c).result c 1 [.x o.a (k.xr o.a - 1)]).branchIf c k (decide (k.xr o.a ≠ 1))
      (k.pc + 12 * BitVec.ofInt 64 o.imm.toInt)) := by
  have he : exec (.loop o) s = issue o.m o.needRW .transfer s fun c k s =>
      (s.result c 1 [.x o.a (k.xr o.a - 1)]).branchIf c k (k.xr o.a - 1 != 0) (dispTarget k.pc o.imm) := rfl
  rw [he, h.issue_eq rfl, sub_one_bne_zero]
  rfl

/-- What it leaves of the context: the new counter is the last result in flight, due at the end of this cycle. -/
theorem loop_ctx {o : XImm} {s : State} {c : Nat} {k : Ctx} (h : Issues s (.loop o) c k) {t : State} {k' : Ctx}
    (ht : exec (.loop o) s = .next t) (hk' : t.ctxs.find? c = some k') :
    k'.pend = k.pend ++ [⟨s.clock, [.x o.a (k.xr o.a - 1)]⟩] ∧ k'.pc = k.pc + 12 ∧
      k'.slot = some (if decide (k.xr o.a ≠ 1) then k.pc + 12 * BitVec.ofInt 64 o.imm.toInt else k.pc + 24) := by
  obtain ⟨gap, smp, hi⟩ := h.issued_ctx
  have hb := branchIf_ctx (result_ctx hi 1 [.x o.a (k.xr o.a - 1)]) k (decide (k.xr o.a ≠ 1)) (k.pc + 12 * BitVec.ofInt 64 o.imm.toInt)
  obtain rfl := Host.Outcome.next.inj ((loop_performed h).symm.trans ht)
  obtain rfl := Option.some.inj (hb.symm.trans hk')
  exact ⟨by simp [Ctx.transfer], rfl, rfl⟩

theorem sub_one_eq_ofInt (n : Word) : n - 1 = BitVec.ofInt 64 (n.toInt - 1) :=
  BitVec.eq_of_toInt_eq (by simp [BitVec.toInt_sub, BitVec.toInt_ofInt])

/-- Settles O5: what `loop` does (`loop_performed`), what it leaves of the context (`loop_ctx`), and what lands then (`land_xr_of_last`). -/
theorem loopCountsAndBranches : Obligations.LoopCountsAndBranches := by
  unfold Obligations.LoopCountsAndBranches
  intro o s c k h
  refine ⟨?_, fun t k' ht hk' => ?_, fun h0 => ?_⟩
  · simp only [loop_performed h, State.branchIf, decide_eq_true_eq]
    rfl
  · obtain ⟨hpend, hpc, hslot⟩ := loop_ctx h ht hk'
    refine ⟨fun ha => ?_, hpc, ?_⟩
    · rw [land_xr_of_last hpend le_rfl ha, sub_one_eq_ofInt]
    · simpa using hslot
  · rw [loop_performed h, h0]
    rfl

end Sys2Proof
end
